-- ==== Sys2Proof/Word.lean ====
section
/-! DEFINITION. Word.lean: the word types of the SV4820 and their plainest conversions (R2, R3, R25). -/

namespace Sys2Proof

/-- One byte of any memory (R2: little-endian). -/
abbrev Byte := BitVec 8
/-- A 16-bit mask or packed element. -/
abbrev W16 := BitVec 16
/-- A lane register word, and an instruction word (R16, R25). -/
abbrev W32 := BitVec 32
/-- A scalar, mask or special register (R25, R27). -/
abbrev W64 := BitVec 64

/-- A truth value as one 64-bit word. -/
def boolW64 (b : Bool) : W64 := if b then 1#64 else 0#64

/-- Bit `i` of a 64-bit mask (R25: bit i for lane i). -/
def bit (m : W64) (i : Nat) : Bool := m.getLsbD i

/-- Bits [hi:lo] of a 64-bit word as a number (R2). -/
def bits (w : W64) (hi lo : Nat) : Nat := w.toNat / 2 ^ lo % 2 ^ (hi + 1 - lo)

end Sys2Proof
end

