-- ==== Sys2Proof/Config.lean ====
section
/-! DEFINITION. Config.lean: the figures of the part (R4), the constants that single rules fix, and the free values: what the
manual leaves open is an opaque constant here, so that no proof can use a number for it. -/

namespace Sys2Proof.Config

/-- Cores per package (R4). -/
def cores : Nat := 192
/-- Cores per paddock (R4). -/
def coresPerPaddock : Nat := 12
/-- Paddocks per package (R4). -/
def paddocks : Nat := 16
/-- Cores per die (R4). -/
def coresPerDie : Nat := 48
/-- Scheduler partitions per core (R4). -/
def partitions : Nat := 4
/-- Group contexts per partition (R4). -/
def ctxPerPartition : Nat := 32
/-- Register rows per partition: 3,072 per core over four partitions (R4, R338). -/
def rowsPerPartition : Nat := 768
/-- Bytes of a weight buffer (R4). -/
def weightBytes : Nat := 262144
/-- Bytes of the sparsity side memory (R4). -/
def sideBytes : Nat := 16384
/-- Bytes of the codebook tables CB0 to CB3 (R226). -/
def codebookBytes : Nat := 256
/-- Bytes of the zero-point table (R226). -/
def zeroPointBytes : Nat := 16384
/-- Entries of a reconvergence stack (R100). -/
def reconvMax : Nat := 16
/-- Return entries of a group, spilled ones included (R104, R126). -/
def returnMax : Nat := 256
/-- Long-latency instructions of a group incomplete at once (R22). -/
def flightMax : Nat := 15
/-- Commands a copy unit queues (R249). -/
def copyQueueMax : Nat := 64
/-- Entries of a core's armed table (R264). -/
def armedMax : Nat := 32
/-- Doorbells a block-transfer channel queues (R266). -/
def channelQueueMax : Nat := 16
/-- Device-side launches queued per die (R334). -/
def deviceQueueMax : Nat := 256
/-- Device-side launches one tenant may have queued on a die (R334). -/
def tenantQueueMax : Nat := 64
/-- Machine allotments of the package: 256 GiB in 2 MiB allotments (R4). -/
def machineAllotments : Nat := 131072
/-- Default deadline PDEADLINE in clocks (R352). -/
def pdeadlineDefault : Nat := 20000
/-- WAITLIM when the context's word is 0 (R350). -/
def waitlimDefault : Nat := 0x00100000
/-- Records of the Lodge's error log: as many as a 64 KiB SYS frame holds at 32 bytes each (R382; DEDUCED, assumption 17). -/
def logMax : Nat := 2048
/-- Bytes of table sets per partition (R358). -/
def tableSetBytes : Nat := 295168

/-- L2 slices of the package: 64 to a die (R170). -/
def l2Slices : Nat := 256
/-- Lines of an L2 slice: 96 MiB a die over 64 slices in lines of 128 bytes (R4). -/
def l2SliceLines : Nat := 12288
/-- Ways of an L2 set (DESIGN CHOICE, assumption 29: the manual gives no geometry below the slice). -/
def l2Ways : Nat := 16
/-- Sets of a slice, which make up its lines. -/
def l2Sets : Nat := l2SliceLines / l2Ways
/-- Lines of a slice in one unit of an L2 occupancy cap: 1/256 of the slice (R171). -/
def l2CapLines : Nat := 48
/-- Entries of a slice's frame-TLB (R301). -/
def tlbMax : Nat := 2048
/-- Lines of a core's L1 instruction cache: 128 KiB (R4). -/
def icLines : Nat := 1024
/-- Lines of a die's shared instruction level: 8 MiB (R4). -/
def silLines : Nat := 65536
/-- Block-transfer channels of a die and of the package (R4). -/
def channelsPackage : Nat := 256

/-- FREE VALUE (DESIGN CHOICE, assumption 29): the home slice of a line (R170: a hash of GIA[53:7] over the 256 slices) and its set within
the slice, each taken modulo how many there are. -/
opaque l2Slice : Nat → Nat
opaque l2Set : Nat → Nat

/-- FREE VALUE (DESIGN CHOICE, assumption 1): the n-th value that an instruction leaves undefined (R23, R232, R280). -/
opaque freeWord : Nat → W64
/-- FREE VALUE (DESIGN CHOICE, assumption 2): the clocks that pass on a core at the n-th step (R404). -/
opaque elapsed : Nat → Nat
/-- FREE VALUE (DESIGN CHOICE, assumption 3): the value that the home die's scheduler tries first for a handle's low bits (R334). -/
opaque handleSeed : Nat → Nat
/-- FREE VALUE (DESIGN CHOICE, assumption 4): the value that the frame engine tries first for a record's TOKEN (R330). -/
opaque tokenSeed : Nat → Nat
/-- FREE VALUE (DESIGN CHOICE, assumption 5): what a read of another package over the fabric returns (R389: that package's memory). -/
opaque fabricData : Nat → W64
/-- FREE VALUE (DESIGN CHOICE, assumption 5): whether the other package serves an access or has no import entry for it (R389). -/
opaque fabricServes : Nat → Bool
/-- FREE VALUE (DESIGN CHOICE, assumption 6): the correctly rounded result of a function whose interval has not settled at the last precision
that the model tries (R58). -/
opaque unsettled : Nat → Nat → Nat
/-- FREE VALUES (DESIGN CHOICE, assumption 7): the responder's n-th nonce, from the Lodge's random source; the device's certificate chain;
and its n-th ML-DSA-44 signature, over a SHA3-256 transcript hash (R393: the device's own certificate and key). -/
opaque spdmNonce : Nat → BitVec 256
opaque certChain : List Byte
opaque mlDsaSign : BitVec 256 → Nat → List Byte
/-- FREE VALUE (DESIGN CHOICE, assumption 15): the clock in MHz that the power controller sets in throttle stage 3 and above (R398). -/
opaque loweredMhz : Nat → Nat

/-- FREE VALUE (DESIGN CHOICE, assumption 17): the Lodge clocks that pass at the n-th step, and the Lodge clocks in 1 ms (R382). -/
opaque lodgeTicks : Nat → Nat
opaque lodgeMs : Nat

/-- FREE VALUE (DESIGN CHOICE, assumption 19): the bytes of a drain's image in flash, whose layout the manual does not give (R401). -/
opaque imageBytes : Nat → List Byte

end Sys2Proof.Config
end

