-- ==== Sys2Proof/Syntax.lean ====
section
/-! DEFINITION. Syntax.lean: every step of spec/opcode_table.json, one constructor per row. The rows with an encoding carry the fields
of their word (R28, R29) as the word holds them; the rows without one are steps of the device that no word starts, and carry what
reaches them from outside the machine (a host write, a report, a choice that the manual leaves open). Units of the machine are named
by the numbers that State gives them. -/

namespace Sys2Proof

/-- What an abort completion reaches (R374). -/
inductive AbortTarget where
  /-- Lanes of a group: lane loads, stores, atomics, register reads, matrix rows (R374). -/
  | lanes (grp : Nat) (mask : W64)
  /-- A whole group: scalar accesses, clause fetch, stack refill, register reads, matrix-support sources (R374). -/
  | group (grp : Nat)
  /-- A copy that reads one of its chunks (R374: it fails with ABORT, and the chunk stays unwritten). -/
  | copy (job chunk : Nat)
  /-- A block transfer (R374: it fails with ABORT). -/
  | transfer (tid ch : Nat)
  /-- A walk of a launch's resident check (R305, R374). -/
  | launch (launch : Nat)
  /-- A dirty line lost: the frame becomes DAMAGED (R376). -/
  | frame (machineFrame : Nat)
  deriving DecidableEq, Repr

/-- What a check of a protected word finds (R371, R372, R373). -/
inductive ErrFound where
  | clean | correctable | uncorrectable
  /-- Uncorrectable, in the DIRTY and VALID bits of an L1 line (R371 unit 3). -/
  | lineState
  deriving DecidableEq, Repr

/-- What arrives at a stage (R262): a SEQ copy, or a record that the frame engine writes. -/
inductive FillSrc where
  | copy (job : Nat)
  | record (tid token : Nat)
  deriving DecidableEq, Repr

/-- Where the scheduler takes a launch record from (R333, R334). -/
inductive LaunchSrc where
  | ring (tid level : Nat)
  | device (launch : Nat)
  deriving DecidableEq, Repr

/-- A CXL.io request at the host access window (R385); a write carries one byte, or none where its enable is clear. -/
inductive WindowAcc where
  | read (len : Nat)
  | write (data : List (Option Byte))
  deriving DecidableEq, Repr

/-- A fabric access arriving from another package (R389). -/
inductive FabricAcc where
  | load (len : Nat)
  | store (data : List Byte)
  | atomic (op len : Nat) (operand compare : W64)
  deriving DecidableEq, Repr

/-- A firmware stage as the boot ROM finds it (R391): its image, the key that it is signed with, and whether the ML-DSA-44 signature over the
image's digest holds under that key (DESIGN CHOICE, assumption 127). -/
structure BootStage where
  image : List Byte
  key : List Byte
  signed : Bool
  deriving DecidableEq, Repr

/-- What Lodge firmware sets for the package as it starts (DESIGN CHOICE, assumption 114): THOT, HYST and DLIM (R339), PDEADLINE (R352),
LIDLE and RDL in µs (R366), the SYS frames as runs of machine frames, and DBASE in one of them (R313). -/
structure LodgeTerms where
  thot : Nat
  hyst : Nat
  dlim : Nat
  pdeadline : Nat
  lidle : Nat
  rdl : Nat
  sys : List (Nat × Nat)
  dbase : Nat
  deriving DecidableEq, Repr

/-- What firmware does as it starts: the stages that the boot ROM finds, and the settings that it makes. -/
structure BootRun where
  stages : List BootStage
  terms : LodgeTerms
  deriving DecidableEq, Repr

/-- What one step performs of an access in flight: which access, and the lanes (DESIGN CHOICE, assumption 26). -/
structure Portion where
  fid : Nat
  lanes : BitVec 64
  deriving DecidableEq, Repr

/-- What one step moves for a block-transfer channel: which channel, and which of the lines left. -/
structure ChainStep where
  ch : Nat
  line : Nat
  deriving DecidableEq, Repr

/-- A flit that fails on a link: the one that is being sent again, or another (R377). -/
structure FlitFailure where
  link : Nat
  again : Bool
  deriving DecidableEq, Repr

/-- What the Lodge sets for a tenancy when it creates it (R143, R266, R296, R361, R369, R386, R388). -/
structure TenancyTerms where
  ctxen : BitVec 4
  l2cap : Nat
  feat : W64
  quota : Nat
  abase : W64
  channels : Nat
  hostBase : Nat
  hostCount : Nat
  deriving DecidableEq, Repr

/-- One constructor per row of spec/opcode_table.json (R16 to R401). -/
inductive Instr where
  | clauseHeader (batch : BitVec 4) (sbwait : BitVec 8) (yld : BitVec 1) (cls : BitVec 3) (count : BitVec 4)  -- CLAUSE_HEADER (R17)
  | vadd (vd : BitVec 7) (va : BitVec 7) (vb : BitVec 7) (m : BitVec 2) (ty : BitVec 2)  -- VADD (R67)
  | vsub (vd : BitVec 7) (va : BitVec 7) (vb : BitVec 7) (m : BitVec 2) (ty : BitVec 2)  -- VSUB (R67)
  | vmul (vd : BitVec 7) (va : BitVec 7) (vb : BitVec 7) (m : BitVec 2) (ty : BitVec 2)  -- VMUL (R67)
  | vmulh (vd : BitVec 7) (va : BitVec 7) (vb : BitVec 7) (m : BitVec 2) (ty : BitVec 1)  -- VMULH (R67)
  | vmad (vd : BitVec 7) (va : BitVec 7) (vb : BitVec 7) (m : BitVec 2) (ty : BitVec 2)  -- VMAD (R67)
  | vand (vd : BitVec 7) (va : BitVec 7) (vb : BitVec 7) (m : BitVec 2)  -- VAND (R67)
  | vor (vd : BitVec 7) (va : BitVec 7) (vb : BitVec 7) (m : BitVec 2)  -- VOR (R67)
  | vxor (vd : BitVec 7) (va : BitVec 7) (vb : BitVec 7) (m : BitVec 2)  -- VXOR (R67)
  | vandn (vd : BitVec 7) (va : BitVec 7) (vb : BitVec 7) (m : BitVec 2)  -- VANDN (R67)
  | vshl (vd : BitVec 7) (va : BitVec 7) (vb : BitVec 7) (m : BitVec 2)  -- VSHL (R67)
  | vshr (vd : BitVec 7) (va : BitVec 7) (vb : BitVec 7) (m : BitVec 2) (ty : BitVec 1)  -- VSHR (R67)
  | vmin (vd : BitVec 7) (va : BitVec 7) (vb : BitVec 7) (m : BitVec 2) (ty : BitVec 2)  -- VMIN (R67)
  | vmax (vd : BitVec 7) (va : BitVec 7) (vb : BitVec 7) (m : BitVec 2) (ty : BitVec 2)  -- VMAX (R67)
  | vabsd (vd : BitVec 7) (va : BitVec 7) (vb : BitVec 7) (m : BitVec 2) (ty : BitVec 2)  -- VABSD (R67)
  | vaddc (vd : BitVec 7) (va : BitVec 7) (vb : BitVec 7) (mc : BitVec 2)  -- VADDC (R68)
  | vsel (vd : BitVec 7) (va : BitVec 7) (vb : BitVec 7) (ms : BitVec 2)  -- VSEL (R69)
  | vbfx (vd : BitVec 7) (va : BitVec 7) (vb : BitVec 7) (m : BitVec 2) (ty : BitVec 1)  -- VBFX (R70)
  | vbfi (vd : BitVec 7) (va : BitVec 7) (vb : BitVec 7) (m : BitVec 2)  -- VBFI (R70)
  | vpopc (vd : BitVec 7) (va : BitVec 7) (m : BitVec 2)  -- VPOPC (R71)
  | vclz (vd : BitVec 7) (va : BitVec 7) (m : BitVec 2)  -- VCLZ (R71)
  | vbrev (vd : BitVec 7) (va : BitVec 7) (m : BitVec 2)  -- VBREV (R71)
  | vneg (vd : BitVec 7) (va : BitVec 7) (m : BitVec 2)  -- VNEG (R71)
  | vdp4 (vd : BitVec 7) (va : BitVec 7) (vb : BitVec 7) (m : BitVec 2) (ty : BitVec 2)  -- VDP4 (R72)
  | vclmul (vd : BitVec 7) (va : BitVec 7) (vb : BitVec 7) (m : BitVec 2) (ty : BitVec 1)  -- VCLMUL (R73)
  | vmov (vd : BitVec 7) (va : BitVec 7) (m : BitVec 2)  -- VMOV (R74)
  | vaddi (vd : BitVec 7) (va : BitVec 7) (imm : BitVec 7) (m : BitVec 2) (ty : BitVec 2)  -- VADDI (R75)
  | vshli (vd : BitVec 7) (va : BitVec 7) (imm : BitVec 5) (m : BitVec 2)  -- VSHLI (R75)
  | vshri (vd : BitVec 7) (va : BitVec 7) (imm : BitVec 5) (m : BitVec 2) (ty : BitVec 1)  -- VSHRI (R75)
  | vandi (vd : BitVec 7) (va : BitVec 7) (imm : BitVec 7) (m : BitVec 2)  -- VANDI (R75)
  | vmuli (vd : BitVec 7) (va : BitVec 7) (imm : BitVec 7) (m : BitVec 2) (ty : BitVec 2)  -- VMULI (R75)
  | vli (vd : BitVec 7) (imm : BitVec 14) (m : BitVec 2)  -- VLI (R76)
  | vcmpi (cnd : BitVec 4) (md : BitVec 3) (va : BitVec 7) (imm : BitVec 7) (m : BitVec 2) (ty : BitVec 2)  -- VCMPI (R77)
  | vcmp (cnd : BitVec 4) (md : BitVec 3) (va : BitVec 7) (vb : BitVec 7) (m : BitVec 2) (ty : BitVec 2)  -- VCMP (R77)
  | vfcmp (cnd : BitVec 4) (md : BitVec 3) (va : BitVec 7) (vb : BitVec 7) (m : BitVec 2) (ty : BitVec 2)  -- VFCMP (R78)
  | vfadd (vd : BitVec 7) (va : BitVec 7) (vb : BitVec 7) (m : BitVec 2) (ty : BitVec 2)  -- VFADD (R79)
  | vfsub (vd : BitVec 7) (va : BitVec 7) (vb : BitVec 7) (m : BitVec 2) (ty : BitVec 2)  -- VFSUB (R79)
  | vfmul (vd : BitVec 7) (va : BitVec 7) (vb : BitVec 7) (m : BitVec 2) (ty : BitVec 2)  -- VFMUL (R79)
  | vfma (vd : BitVec 7) (va : BitVec 7) (vb : BitVec 7) (m : BitVec 2) (ty : BitVec 2)  -- VFMA (R79)
  | vfms (vd : BitVec 7) (va : BitVec 7) (vb : BitVec 7) (m : BitVec 2) (ty : BitVec 2)  -- VFMS (R79)
  | vfnma (vd : BitVec 7) (va : BitVec 7) (vb : BitVec 7) (m : BitVec 2) (ty : BitVec 2)  -- VFNMA (R79)
  | vfmin (vd : BitVec 7) (va : BitVec 7) (vb : BitVec 7) (m : BitVec 2) (ty : BitVec 2)  -- VFMIN (R79)
  | vfmax (vd : BitVec 7) (va : BitVec 7) (vb : BitVec 7) (m : BitVec 2) (ty : BitVec 2)  -- VFMAX (R79)
  | vfrcp (vd : BitVec 7) (va : BitVec 7) (m : BitVec 2) (ty : BitVec 2)  -- VFRCP (R82)
  | vfrsq (vd : BitVec 7) (va : BitVec 7) (m : BitVec 2) (ty : BitVec 2)  -- VFRSQ (R82)
  | vfsqrt (vd : BitVec 7) (va : BitVec 7) (m : BitVec 2) (ty : BitVec 2)  -- VFSQRT (R82)
  | vfexp2 (vd : BitVec 7) (va : BitVec 7) (m : BitVec 2) (ty : BitVec 2)  -- VFEXP2 (R82)
  | vflog2 (vd : BitVec 7) (va : BitVec 7) (m : BitVec 2) (ty : BitVec 2)  -- VFLOG2 (R82)
  | vfsin (vd : BitVec 7) (va : BitVec 7) (m : BitVec 2) (ty : BitVec 2)  -- VFSIN (R82)
  | vfcos (vd : BitVec 7) (va : BitVec 7) (m : BitVec 2) (ty : BitVec 2)  -- VFCOS (R82)
  | vfabs (vd : BitVec 7) (va : BitVec 7) (m : BitVec 2) (ty : BitVec 2)  -- VFABS (R82)
  | vfneg (vd : BitVec 7) (va : BitVec 7) (m : BitVec 2) (ty : BitVec 2)  -- VFNEG (R82)
  | vfrndN (vd : BitVec 7) (va : BitVec 7) (m : BitVec 2) (ty : BitVec 2)  -- VFRND_N (R82)
  | vfrndZ (vd : BitVec 7) (va : BitVec 7) (m : BitVec 2) (ty : BitVec 2)  -- VFRND_Z (R82)
  | vfrndD (vd : BitVec 7) (va : BitVec 7) (m : BitVec 2) (ty : BitVec 2)  -- VFRND_D (R82)
  | vfrndU (vd : BitVec 7) (va : BitVec 7) (m : BitVec 2) (ty : BitVec 2)  -- VFRND_U (R82)
  | vffrc (vd : BitVec 7) (va : BitVec 7) (m : BitVec 2) (ty : BitVec 2)  -- VFFRC (R82)
  | vfclass (vd : BitVec 7) (va : BitVec 7) (m : BitVec 2) (ty : BitVec 2)  -- VFCLASS (R83)
  | vfdiv (vd : BitVec 7) (va : BitVec 7) (vb : BitVec 7) (m : BitVec 2) (f64 : BitVec 1) (det : BitVec 1)  -- VFDIV (R80)
  | vfscale (vd : BitVec 7) (va : BitVec 7) (vb : BitVec 7) (m : BitVec 2) (ty : BitVec 2)  -- VFSCALE (R81)
  | vcvt (vd : BitVec 7) (va : BitVec 7) (code : BitVec 7) (m : BitVec 2) (rnd : BitVec 2)  -- VCVT (R84)
  | vshfl (vd : BitVec 7) (va : BitVec 7) (rep : BitVec 1) (vx : BitVec 6) (m : BitVec 2) (ty : BitVec 2)  -- VSHFL (R86)
  | vshfli (vd : BitVec 7) (va : BitVec 7) (rep : BitVec 1) (num : BitVec 6) (m : BitVec 2) (ty : BitVec 2)  -- VSHFLI (R87)
  | vvote (sd : BitVec 6) (va : BitVec 7) (m : BitVec 2) (ty : BitVec 2)  -- VVOTE (R88)
  | vfold (sd : BitVec 6) (va : BitVec 7) (op : BitVec 7) (m : BitVec 2)  -- VFOLD (R89)
  | vscan (vd : BitVec 7) (va : BitVec 7) (m : BitVec 2) (ty : BitVec 1)  -- VSCAN (R90)
  | vbcast (vd : BitVec 7) (ss : BitVec 6) (m : BitVec 2)  -- VBCAST (R91)
  | vspec (vd : BitVec 7) (va : BitVec 7) (m : BitVec 2)  -- VSPEC (R91)
  | vgetl (sd : BitVec 6) (va : BitVec 7) (byS : BitVec 1) (ln : BitVec 6)  -- VGETL (R92)
  | vputl (vd : BitVec 7) (ss : BitVec 6) (byS : BitVec 1) (ln : BitVec 6)  -- VPUTL (R92)
  | mand (md : BitVec 3) (ma : BitVec 3) (mb : BitVec 3)  -- MAND (R93)
  | mor (md : BitVec 3) (ma : BitVec 3) (mb : BitVec 3)  -- MOR (R93)
  | mxor (md : BitVec 3) (ma : BitVec 3) (mb : BitVec 3)  -- MXOR (R93)
  | mandn (md : BitVec 3) (ma : BitVec 3) (mb : BitVec 3)  -- MANDN (R93)
  | mnot (md : BitVec 3) (ma : BitVec 3)  -- MNOT (R93)
  | mmov (md : BitVec 3) (ma : BitVec 3)  -- MMOV (R93)
  | mget (mn : BitVec 3) (sn : BitVec 6)  -- MGET (R94)
  | mset (mn : BitVec 3) (sn : BitVec 6)  -- MSET (R94)
  | mpop (mn : BitVec 3) (sn : BitVec 6)  -- MPOP (R94)
  | mffs (mn : BitVec 3) (sn : BitVec 6)  -- MFFS (R94)
  | sadd (sd : BitVec 6) (sa : BitVec 6) (sb : BitVec 6) (wd : BitVec 1)  -- SADD (R117)
  | ssub (sd : BitVec 6) (sa : BitVec 6) (sb : BitVec 6) (wd : BitVec 1)  -- SSUB (R117)
  | smul (sd : BitVec 6) (sa : BitVec 6) (sb : BitVec 6) (wd : BitVec 1)  -- SMUL (R117)
  | smulh (sd : BitVec 6) (sa : BitVec 6) (sb : BitVec 6) (wd : BitVec 1)  -- SMULH (R117)
  | smulhu (sd : BitVec 6) (sa : BitVec 6) (sb : BitVec 6) (wd : BitVec 1)  -- SMULHU (R117)
  | sand (sd : BitVec 6) (sa : BitVec 6) (sb : BitVec 6) (wd : BitVec 1)  -- SAND (R117)
  | sor (sd : BitVec 6) (sa : BitVec 6) (sb : BitVec 6) (wd : BitVec 1)  -- SOR (R117)
  | sxor (sd : BitVec 6) (sa : BitVec 6) (sb : BitVec 6) (wd : BitVec 1)  -- SXOR (R117)
  | sandn (sd : BitVec 6) (sa : BitVec 6) (sb : BitVec 6) (wd : BitVec 1)  -- SANDN (R117)
  | sshl (sd : BitVec 6) (sa : BitVec 6) (sb : BitVec 6) (wd : BitVec 1)  -- SSHL (R117)
  | sshr (sd : BitVec 6) (sa : BitVec 6) (sb : BitVec 6) (wd : BitVec 1)  -- SSHR (R117)
  | ssra (sd : BitVec 6) (sa : BitVec 6) (sb : BitVec 6) (wd : BitVec 1)  -- SSRA (R117)
  | smin (sd : BitVec 6) (sa : BitVec 6) (sb : BitVec 6) (wd : BitVec 1)  -- SMIN (R117)
  | smax (sd : BitVec 6) (sa : BitVec 6) (sb : BitVec 6) (wd : BitVec 1)  -- SMAX (R117)
  | sminu (sd : BitVec 6) (sa : BitVec 6) (sb : BitVec 6) (wd : BitVec 1)  -- SMINU (R117)
  | smaxu (sd : BitVec 6) (sa : BitVec 6) (sb : BitVec 6) (wd : BitVec 1)  -- SMAXU (R117)
  | spopc (sd : BitVec 6) (sa : BitVec 6) (wd : BitVec 1)  -- SPOPC (R117)
  | sclz (sd : BitVec 6) (sa : BitVec 6) (wd : BitVec 1)  -- SCLZ (R117)
  | smov (sd : BitVec 6) (sa : BitVec 6) (wd : BitVec 1)  -- SMOV (R117)
  | sbfx (sd : BitVec 6) (sa : BitVec 6) (sb : BitVec 6) (wd : BitVec 1)  -- SBFX (R117)
  | saddi (sd : BitVec 6) (sa : BitVec 6) (imm : BitVec 13)  -- SADDI (R118)
  | sandi (sd : BitVec 6) (sa : BitVec 6) (imm : BitVec 13)  -- SANDI (R118)
  | sori (sd : BitVec 6) (sa : BitVec 6) (imm : BitVec 13)  -- SORI (R118)
  | sxori (sd : BitVec 6) (sa : BitVec 6) (imm : BitVec 13)  -- SXORI (R118)
  | sshli (sd : BitVec 6) (sa : BitVec 6) (num : BitVec 6)  -- SSHLI (R118)
  | sshri (sd : BitVec 6) (sa : BitVec 6) (arith : BitVec 1) (num : BitVec 6)  -- SSHRI (R118)
  | sli (sd : BitVec 6) (imm : BitVec 19)  -- SLI (R119)
  | slui (sd : BitVec 6) (imm : BitVec 19)  -- SLUI (R119)
  | scmp (sa : BitVec 6) (sb : BitVec 6)  -- SCMP (R120)
  | scmpi (sa : BitVec 6) (imm : BitVec 12)  -- SCMPI (R120)
  | ssel (sd : BitVec 6) (sa : BitVec 6) (sb : BitVec 6) (cnd : BitVec 6)  -- SSEL (R121)
  | sget (sd : BitVec 6) (num : BitVec 12)  -- SGET (R122)
  | sset (sa : BitVec 6) (num : BitVec 12)  -- SSET (R122)
  | sdiv (sd : BitVec 6) (sa : BitVec 6) (sb : BitVec 6) (la : BitVec 4) (wd : BitVec 1)  -- SDIV (R123)
  | sdivu (sd : BitVec 6) (sa : BitVec 6) (sb : BitVec 6) (la : BitVec 4) (wd : BitVec 1)  -- SDIVU (R123)
  | srem (sd : BitVec 6) (sa : BitVec 6) (sb : BitVec 6) (la : BitVec 4) (wd : BitVec 1)  -- SREM (R123)
  | sremu (sd : BitVec 6) (sa : BitVec 6) (sb : BitVec 6) (la : BitVec 4) (wd : BitVec 1)  -- SREMU (R123)
  | br (cnd : BitVec 5) (off : BitVec 20)  -- BR (R124)
  | brm (test : BitVec 2) (m : BitVec 3) (off : BitVec 20)  -- BRM (R125)
  | call (off : BitVec 20)  -- CALL (R126)
  | bri (ss : BitVec 6)  -- BRI (R126)
  | calli (ss : BitVec 6)  -- CALLI (R126)
  | ret  -- RET (R126)
  | mark (off : BitVec 20)  -- MARK (R127)
  | join  -- JOIN (R127)
  | split (m : BitVec 3) (off : BitVec 20)  -- SPLIT (R128)
  | regang  -- REGANG (R128)
  | ihead (off : BitVec 20)  -- IHEAD (R129)
  | idone (m : BitVec 3)  -- IDONE (R129)
  | barsync (bar : BitVec 4)  -- BARSYNC (R130)
  | bararr (bar : BitVec 4)  -- BARARR (R130)
  | barwait (bar : BitVec 4)  -- BARWAIT (R130)
  | yield  -- YIELD (R130)
  | waitSb (slots : BitVec 7)  -- WAIT_SB (R131)
  | waitDet  -- WAIT_DET (R131)
  | waitOpc (num : BitVec 4)  -- WAIT_OPC (R131)
  | waitMat (num : BitVec 4)  -- WAIT_MAT (R131)
  | waitBatch (num : BitVec 4)  -- WAIT_BATCH (R131)
  | exit  -- EXIT (R132)
  | setfmt (imm : BitVec 19)  -- SETFMT (R133)
  | setfmtScalar (ss : BitVec 6)  -- SETFMT_SCALAR (R133)
  | nop  -- NOP (R130)
  | launch (sd : BitVec 6) (sa : BitVec 6)  -- LAUNCH (R134)
  | lwait (sd : BitVec 6) (sa : BitVec 6)  -- LWAIT (R135)
  | trap (code : BitVec 16)  -- TRAP (R137)
  | brk (code : BitVec 16)  -- BRK (R137)
  | tret (form : BitVec 2)  -- TRET (R349)
  | eret (retry : BitVec 1)  -- ERET (R152)
  | ewin (win : BitVec 2) (num : BitVec 7) (kind : BitVec 2)  -- EWIN (R153)
  | fbar  -- FBAR (R139)
  | vld (vd : BitVec 7) (va : BitVec 7) (sz : BitVec 3) (sp : BitVec 2) (la : BitVec 4) (m : BitVec 2)  -- VLD (R183)
  | vldPr (vd : BitVec 7) (va : BitVec 7) (sz : BitVec 3) (la : BitVec 4) (m : BitVec 2)  -- VLD_PR (R184)
  | vst (vs : BitVec 7) (va : BitVec 7) (sz : BitVec 3) (sp : BitVec 2) (la : BitVec 4) (m : BitVec 2)  -- VST (R183)
  | vlda (vd : BitVec 7) (va : BitVec 7) (sz : BitVec 3) (scope : BitVec 2) (la : BitVec 4) (m : BitVec 2)  -- VLDA (R185)
  | vstl (vs : BitVec 7) (va : BitVec 7) (sz : BitVec 3) (scope : BitVec 2) (la : BitVec 4) (m : BitVec 2)  -- VSTL (R185)
  | sld (sd : BitVec 6) (sa : BitVec 6) (off : BitVec 12) (dw : BitVec 1)  -- SLD (R186)
  | sst (sd : BitVec 6) (sa : BitVec 6) (off : BitVec 12) (dw : BitVec 1)  -- SST (R186)
  | pref (sa : BitVec 6) (l2only : BitVec 1)  -- PREF (R187)
  | clock (sd : BitVec 6) (sa : BitVec 6)  -- CLOCK (R187)
  | cunlk (sa : BitVec 6)  -- CUNLK (R187)
  | cinv (sa : BitVec 6)  -- CINV (R187)
  | cwb (sa : BitVec 6)  -- CWB (R187)
  | vatom (vd : BitVec 7) (va : BitVec 7) (vb : BitVec 7) (op : BitVec 4)  -- VATOM (R189)
  | vatomAr (vd : BitVec 7) (va : BitVec 7) (vb : BitVec 7) (op : BitVec 4)  -- VATOM_AR (R189)
  | vatomW (vd : BitVec 7) (va : BitVec 7) (vb : BitVec 7) (op : BitVec 4)  -- VATOM_W (R189)
  | satom (sd : BitVec 6) (sa : BitVec 6) (sb : BitVec 6) (op : BitVec 4) (ord : BitVec 2) (dw : BitVec 1)  -- SATOM (R190)
  | fence (scope : BitVec 2)  -- FENCE (R192)
  | fenceAcq (scope : BitVec 2)  -- FENCE_ACQ (R192)
  | fenceRel (scope : BitVec 2)  -- FENCE_REL (R192)
  | fenceLt  -- FENCE_LT (R193)
  | fenceHv (scope : BitVec 2)  -- FENCE_HV (R193)
  | mofence  -- MOFENCE (R194)
  | mma (vc : BitVec 7) (sA : BitVec 5) (sB : BitVec 5) (zero : BitVec 1) (la : BitVec 4)  -- MMA (R236)
  | mmaR (vc : BitVec 7) (va : BitVec 7) (sB : BitVec 5) (zero : BitVec 1) (la : BitVec 4)  -- MMA_R (R236)
  | mms (vc : BitVec 7) (sA : BitVec 5) (sB : BitVec 5) (zero : BitVec 1) (la : BitVec 4)  -- MMS (R237)
  | mmsR (vc : BitVec 7) (va : BitVec 7) (sB : BitVec 5) (zero : BitVec 1) (la : BitVec 4)  -- MMS_R (R237)
  | wbload (sa : BitVec 5) (sb : BitVec 5) (la : BitVec 4)  -- WBLOAD (R243)
  | spload (sa : BitVec 5) (sb : BitVec 5) (la : BitVec 4)  -- SPLOAD (R243)
  | cbload (sa : BitVec 5) (sb : BitVec 5) (la : BitVec 4)  -- CBLOAD (R243)
  | zpload (sa : BitVec 5) (sb : BitVec 5) (la : BitVec 4)  -- ZPLOAD (R243)
  | mzero (la : BitVec 4)  -- MZERO (R245)
  | cpy (sD : BitVec 5) (sS : BitVec 5) (sN : BitVec 5) (z : BitVec 3) (mc : BitVec 1) (ver : BitVec 1) (step : BitVec 1) (seq : BitVec 1) (nt : BitVec 1) (zf : BitVec 1)  -- CPY (R249)
  | cseal  -- CSEAL (R257)
  | cyield (num : BitVec 4) (off : BitVec 16)  -- CYIELD (R259)
  | sqinit (ss : BitVec 6)  -- SQINIT (R260)
  | sqwait (ss : BitVec 6) (sn : BitVec 6)  -- SQWAIT (R263)
  | sqrel (ss : BitVec 6) (sn : BitVec 6)  -- SQREL (R263)
  | pdone  -- PDONE (R283)
  | pwait (sa : BitVec 6)  -- PWAIT (R283)
  | pfin (sd : BitVec 6) (sa : BitVec 6)  -- PFIN (R283)
  | ldp (vd : BitVec 7) (va : BitVec 7) (ss : BitVec 5) (la : BitVec 4) (m : BitVec 2)  -- LDP (R286)
  | fretype (sd : BitVec 6) (sa : BitVec 6) (sb : BitVec 6)  -- FRETYPE (R327)
  | finfo (sd : BitVec 6) (sa : BitVec 6)  -- FINFO (R328)
  | fharvest (sd : BitVec 6) (sa : BitVec 6) (sb : BitVec 6)  -- FHARVEST (R329)
  | fresume (sd : BitVec 6) (sa : BitVec 6)  -- FRESUME (R330)
  -- Steps of the machine that no word encodes: the events of spec/opcode_table.json, with what reaches them from outside.
  | clauseFetch (grp tag : Nat)  -- CLAUSE_FETCH (R16)
  | issueSelection (core part : Nat)  -- ISSUE_SELECTION (R113)
  | divideComplete (grp fid : Nat)  -- DIVIDE_COMPLETE (R22)
  | tableSetSwitch (team part : Nat)  -- TABLE_SET_SWITCH (R228)
  | matrixOperandsConsumed (grp fid : Nat)  -- MATRIX_OPERANDS_CONSUMED (R231)
  | matrixResultWritten (grp fid : Nat)  -- MATRIX_RESULT_WRITTEN (R231)
  | tableLoadWrite (grp fid : Nat)  -- TABLE_LOAD_WRITE (R243)
  | copyCommandAccept (grp tag : Nat)  -- COPY_COMMAND_ACCEPT (R249)
  | copyChunkWrite (job chunk : Nat)  -- COPY_CHUNK_WRITE (R250)
  | versionCommit (job : Nat)  -- VERSION_COMMIT (R253)
  | copyCompletion (job : Nat)  -- COPY_COMPLETION (R256)
  | cyieldWake (grp tag : Nat)  -- CYIELD_WAKE (R259)
  | fillArrival (src : FillSrc)  -- FILL_ARRIVAL (R262)
  | fillWindowTimeout (job : Nat)  -- FILL_WINDOW_TIMEOUT (R262)
  | armedCopyFire (job : Nat)  -- ARMED_COPY_FIRE (R264)
  | apertureDoorbellAccept (grp fid : Nat)  -- APERTURE_DOORBELL_ACCEPT (R266)
  | hostDoorbell (tid ch : Nat) (data : W64)  -- HOST_DOORBELL (R267)
  | blockTransferChain (tid : Nat) (move : ChainStep)  -- BLOCK_TRANSFER_CHAIN (R269)
  | blockTransferComplete (tid ch : Nat)  -- BLOCK_TRANSFER_COMPLETE (R269)
  | ldpPortRead (grp fid : Nat)  -- LDP_PORT_READ (R286)
  | stepAdvance (team : Nat)  -- STEP_ADVANCE (R277)
  | finMessage (team src : Nat)  -- FIN_MESSAGE (R278)
  | loadDataReturn (grp : Nat) (part : Portion)  -- LOAD_DATA_RETURN (R22)
  | storeComplete (grp : Nat) (part : Portion)  -- STORE_COMPLETE (R22)
  | l1Fill (core gline : Nat) (victim l2victim : Option Nat)  -- L1_FILL (R166), the victims being the replacements of R167
  | writePermissionGrant (core gline : Nat)  -- WRITE_PERMISSION_GRANT (R166)
  | atomicPerform (grp : Nat) (part : Portion)  -- ATOMIC_PERFORM (R188)
  | translationWalk (tid tia : Nat)  -- TRANSLATION_WALK (R299)
  | tableStoreAdmission (grp fid : Nat)  -- TABLE_STORE_ADMISSION (R317)
  | admissionAcknowledge (adm : Nat)  -- ADMISSION_ACKNOWLEDGE (R319)
  | emulationEntry (w : W32)  -- EMULATION_ENTRY (R140): a word that is not an instruction, issued by the focus
  | trapEntry (grp : Nat)  -- TRAP_ENTRY (R347)
  | waitlimExpiry (grp tag : Nat)  -- WAITLIM_EXPIRY (R350)
  | abortCompletion (target : AbortTarget) (unit place : Nat)  -- ABORT_COMPLETION (R375)
  | scrub (unit place : Nat) (found : ErrFound)  -- SCRUB (R403)
  | flitCrcFailure (flit : FlitFailure)  -- FLIT_CRC_FAILURE (R377)
  | linkRetrain (link : Nat) (trained : Bool)  -- LINK_RETRAIN (R377)
  | launchRingDoorbell (tid level : Nat) (w : W64)  -- LAUNCH_RING_DOORBELL (R333)
  | launchIntake (src : LaunchSrc)  -- LAUNCH_INTAKE (R332)
  | dependencePoll (launch : Nat)  -- DEPENDENCE_POLL (R335)
  | residentLeaseCheck (launch : Nat)  -- RESIDENT_LEASE_CHECK (R305)
  | teamPlacement (launch : Nat)  -- TEAM_PLACEMENT (R338)
  | teamEnd (team : Nat)  -- TEAM_END (R337)
  | launchCompletion (launch : Nat)  -- LAUNCH_COMPLETION (R340)
  | temperatureReport (core temp droop : Nat)  -- TEMPERATURE_REPORT (R339)
  | sliceBegin (paddock tid : Nat)  -- SLICE_BEGIN (R356)
  | sliceEnd (paddock : Nat)  -- SLICE_END (R356)
  | forcedHalt (team : Nat)  -- FORCED_HALT (R352)
  | teamSave (team : Nat)  -- TEAM_SAVE (R353)
  | teamRestore (team : Nat)  -- TEAM_RESTORE (R355)
  | debugHaltRequest (tid core : Nat) (w : W64)  -- DEBUG_HALT_REQUEST (R359)
  | debugHaltComplete (core : Nat)  -- DEBUG_HALT_COMPLETE (R359)
  | debugResume (tid core : Nat) (w : W64)  -- DEBUG_RESUME (R359)
  | layoutFlip (w : W64)  -- LAYOUT_FLIP (R364)
  | paddockLend (paddock tid : Nat)  -- PADDOCK_LEND (R366)
  | paddockRecall (paddock : Nat)  -- PADDOCK_RECALL (R368)
  | recallDeadlineExpiry (paddock : Nat)  -- RECALL_DEADLINE_EXPIRY (R368)
  | tenancyTeardown (tid : Nat)  -- TENANCY_TEARDOWN (R362)
  | tenantRootWrite (tid : Nat) (w : W64)  -- TENANT_ROOT_WRITE (R296)
  | faultQueueBind (tid : Nat) (w : W64)  -- FAULT_QUEUE_BIND (R308)
  | segmentCommit (tid ctx seg : Nat) (w : W64)  -- SEGMENT_COMMIT (R294): a host write of a segment's word3
  | retype (tid : Nat) (w : W64)  -- RETYPE (R386): a write of FCMD with OP 1; the six below alike
  | info (tid : Nat) (w : W64)  -- INFO (R386)
  | harvest (tid : Nat) (w : W64)  -- HARVEST (R386)
  | admitEntry (tid : Nat) (w : W64)  -- ADMIT (R386)
  | resume (tid : Nat) (w : W64)  -- RESUME (R386)
  | grant (tid : Nat) (w : W64) (man : Nat)  -- GRANT (R386), man being the free machine allotment that the Lodge takes
  | returnAllot (tid : Nat) (w : W64)  -- RETURN (R386)
  | registerWrite (tid off : Nat) (w : W64)  -- REGISTER_WRITE (R384)
  | hostWindowAccess (tid off : Nat) (acc : WindowAcc)  -- HOST_WINDOW_ACCESS (R385)
  | fabricRequest (pkg tid tia : Nat) (acc : FabricAcc)  -- FABRIC_REQUEST (R389)
  | packageReset (boot : BootRun)  -- PACKAGE_RESET (R391)
  | lodgeWatchdogReset (boot : BootRun)  -- LODGE_WATCHDOG_RESET (R365, R391)
  | measurementExtend (reg : Nat) (digest : BitVec 256)  -- MEASUREMENT_EXTEND (R392)
  | getVersion (fn : Nat)  -- GET_VERSION (R395)
  | getCapabilities (fn : Nat)  -- GET_CAPABILITIES (R393)
  | negotiateAlgorithms (fn : Nat) (mlDsa : Bool)  -- NEGOTIATE_ALGORITHMS (R393)
  | getDigests (fn : Nat)  -- GET_DIGESTS (R393)
  | getCertificate (fn slot : Nat)  -- GET_CERTIFICATE (R393)
  | challenge (fn slot : Nat) (nonce : BitVec 256)  -- CHALLENGE (R393)
  | getMeasurements (fn index : Nat) (nonce : Option (BitVec 256))  -- GET_MEASUREMENTS (R394), with a nonce where it asks for a signature
  | spdmUnsupportedRequest (fn code : Nat)  -- SPDM_UNSUPPORTED_REQUEST (R393)
  | powerLevelChange (level : BitVec 4)  -- POWER_LEVEL_CHANGE (R396)
  | sidebandPowerMessage (level : BitVec 4)  -- SIDEBAND_POWER_MESSAGE (R396)
  | throttleStageAdvance  -- THROTTLE_STAGE_ADVANCE (R398)
  | droopEvent (core : Nat)  -- DROOP_EVENT (R399)
  | linkRetune (link : Nat)  -- LINK_RETUNE (R399)
  | preciousRegionDeclare (tid tia units : Nat)  -- PRECIOUS_REGION_DECLARE (R400)
  | powerFailDrain  -- POWER_FAIL_DRAIN (R401)
  | cacheOperationComplete (grp fid : Nat)  -- CACHE_OPERATION_COMPLETE (R22)
  | throttleStageRelease  -- THROTTLE_STAGE_RELEASE (R398)
  | pwrfailNRelease  -- PWRFAIL_N_RELEASE (R401)
  | tenancyCreate (tid : Nat) (terms : TenancyTerms)  -- TENANCY_CREATE (R369)
  | featChange (tid : Nat) (w : W64)  -- FEAT_CHANGE (R362)
  | l2capChange (tid cap : Nat)  -- L2CAP_CHANGE (R361)
  | damagedClear (frame : Nat)  -- DAMAGED_CLEAR (R376)
  | layoutBankWrite (words : List (W64 × W64 × W64))  -- LAYOUT_BANK_WRITE (R365): one triple per paddock
  deriving DecidableEq, Repr

end Sys2Proof
end

