-- ==== Sys2Proof/WellFormed.lean ====
section
/-! DEFINITION. WellFormed.lean: the words that are instructions. A term of `Instr` that breaks a check below has a word that is not an
instruction, whatever the state (R29, R31, R33 to R35, R36); what depends on the group (its declared count, its mode) is checked when
the instruction issues. The steps without an encoding carry references only, and are well formed where these lie in the package. -/

namespace Sys2Proof

/-- Special register numbers that R27 lists. -/
def specialListed (n : Nat) : Bool :=
  n ≤ 0x00A || (0x010 ≤ n && n ≤ 0x012) || (0x018 ≤ n && n ≤ 0x01A) || n == 0x020 || n == 0x021 || (0x028 ≤ n && n ≤ 0x02A)
    || (0x030 ≤ n && n ≤ 0x032) || (0x040 ≤ n && n ≤ 0x048) || (0x050 ≤ n && n ≤ 0x053) || (0x060 ≤ n && n ≤ 0x063) || n == 0x070
    || (0x100 ≤ n && n ≤ 0x13F)

/-- Conversion codes that R34 lists. -/
def convListed (c : Nat) : Bool :=
  c ≤ 0x09 || (0x10 ≤ c && c ≤ 0x15) || (0x20 ≤ c && c ≤ 0x2F) || (0x30 ≤ c && c ≤ 0x32) || (0x38 ≤ c && c ≤ 0x3A)

/-- Scalar and branch conditions that R31 lists. -/
def condListed (c : Nat) : Bool := c ≤ 12

/-- The flag combinations of CPY that are instructions, and the pairs that its extension word needs (R248, R249). -/
def cpyListed (sN mc ver step seq : Nat) : Bool :=
  !(step == 1 && seq == 0) && !(ver == 1 && (mc == 1 || step == 1 || seq == 1)) && !(mc == 1 && (step == 1 || seq == 1))
    && !(sN % 2 == 1 && (mc == 1 || ver == 1 || step == 1 || seq == 1))

/-- The instruction's word is an instruction of the opcode map (R30, R36 cause UNDEF otherwise). -/
def Instr.wellFormed : Instr → Bool
  | .clauseHeader _ _ _ cls _ => cls.toNat ≠ 7                                  -- R17, R18
  | .vdp4 _ _ _ _ ty => ty.toNat ≠ 3                                            -- R72
  | .vcmpi cnd _ _ _ _ _ => cnd.toNat ≤ 5                                       -- R77
  | .vcmp cnd _ _ _ _ _ => cnd.toNat ≤ 5                                        -- R77
  | .vfcmp cnd _ _ _ _ _ => cnd.toNat ≤ 7                                       -- R31
  | .vcvt _ _ code _ _ => convListed code.toNat                                 -- R34
  | .vvote _ _ _ ty => ty.toNat ≠ 3                                             -- R88
  | .vfold _ _ op _ => op.toNat ≤ 9                                             -- R89
  | .vspec _ va _ => va.toNat ≤ 2                                               -- R91
  | .ssel _ _ _ cnd => condListed cnd.toNat                                     -- R121
  | .sget _ num => specialListed num.toNat                                      -- R122
  | .sset _ num => specialListed num.toNat                                      -- R122
  | .br cnd _ => condListed cnd.toNat                                           -- R124
  | .brm test _ _ => test.toNat ≠ 3                                             -- R125
  | .tret form => form.toNat ≠ 3                                                -- R136
  | .ewin _ num kind => (kind.toNat == 0) || (kind.toNat == 1 && num.toNat < 64) || (kind.toNat == 2 && num.toNat < 8)  -- R153
  | .vld _ _ sz sp _ _ => sz.toNat ≠ 7 ∧ sp.toNat ≠ 3                           -- R33; sp 3 is VLD.PR
  | .vldPr _ _ sz _ _ => sz.toNat ≠ 7                                           -- R33
  | .vst _ _ sz sp _ _ => sz.toNat ≠ 1 ∧ sz.toNat ≠ 3 ∧ sz.toNat ≠ 7 ∧ sp.toNat ≠ 3  -- R33
  | .vlda _ _ sz scope _ _ => (sz.toNat = 4 ∨ sz.toNat = 5) ∧ scope.toNat ≠ 3   -- R33, R185
  | .vstl _ _ sz scope _ _ => (sz.toNat = 4 ∨ sz.toNat = 5) ∧ scope.toNat ≠ 3   -- R33, R185
  | .vatomW _ _ _ op => op.toNat ≤ 11                                           -- R35
  | .satom _ _ sb op _ dw => ¬(dw.toNat = 1 ∧ 11 < op.toNat) ∧ ¬(op.toNat = 10 ∧ sb.toNat % 2 = 1)  -- R190
  | .fence scope => scope.toNat ≠ 0                                             -- R191
  | .fenceAcq scope => scope.toNat ≠ 0
  | .fenceRel scope => scope.toNat ≠ 0
  | .fenceHv scope => scope.toNat ≠ 0
  | .cpy _ _ sN _ mc ver step seq _ _ => cpyListed sN.toNat mc.toNat ver.toNat step.toNat seq.toNat  -- R249
  | .issueSelection core part => core < Config.cores ∧ part < Config.partitions  -- R4
  | .temperatureReport core _ _ => core < Config.cores
  | .debugHaltRequest tid core _ => core < Config.cores ∧ tid < 64
  | .debugHaltComplete core => core < Config.cores
  | .debugResume tid core _ => core < Config.cores ∧ tid < 64
  | .paddockLend p tid => p < Config.paddocks ∧ 0 < tid ∧ tid < 64
  | .paddockRecall p => p < Config.paddocks
  | .sliceBegin p tid => p < Config.paddocks ∧ 0 < tid ∧ tid < 64
  | .sliceEnd p => p < Config.paddocks
  | .tenancyCreate tid terms => 0 < tid ∧ tid < 64 ∧ terms.channels ≤ 64 ∧ terms.l2cap ≤ 256  -- R4, R266, R361
  | .measurementExtend reg _ => 4 ≤ reg ∧ reg ≤ 15                              -- R392
  | .layoutBankWrite words => words.length = Config.paddocks                     -- R363
  | _ => true

end Sys2Proof
end

