-- ==== Sys2Proof/Decode.lean ====
section
/-! DEFINITION. Decode.lean: the decoder, total on any bytes, which rejects by name, and the encoder, both written from the encoding
tables of R28 to R35 and spec/opcode_table.json. -/

namespace Sys2Proof

/-- The `len` bits of word `w` from bit `lo` up (R2). -/
def fld (w lo len : Nat) : BitVec len := BitVec.ofNat len (w / 2 ^ lo)

/-- Why bytes are no instruction. -/
inductive DecodeError where
  /-- Fewer than four bytes are left (R16: words are 32 bits). -/
  | truncated
  /-- OP lies in the reserved major spaces 0x6E to 0x7E (R30, R36 cause RSVD). -/
  | reservedSpace
  /-- OP is not listed in the opcode map (R30, R36 cause UNDEF). -/
  | unlistedOpcode
  /-- A selector is unlisted or a field that must be zero is not (R29, R36 cause UNDEF). -/
  | badSelector
  /-- A type, condition, size, scope or code that the operation does not accept (R36 cause UNDEF). -/
  | badField
  deriving DecidableEq, Repr

/-- The row of the opcode table whose fixed bits word `w` holds, with its fields; opcodes are [31:25] (R28). -/
def decodeRow (w : Nat) : Option Instr :=
  match w / 33554432 % 128 with
  | 1 => some (.vadd (fld w 18 7) (fld w 11 7) (fld w 4 7) (fld w 2 2) (fld w 0 2))
  | 2 => some (.vsub (fld w 18 7) (fld w 11 7) (fld w 4 7) (fld w 2 2) (fld w 0 2))
  | 3 => some (.vmul (fld w 18 7) (fld w 11 7) (fld w 4 7) (fld w 2 2) (fld w 0 2))
  | 4 => if w / 2 % 2 = 0 then some (.vmulh (fld w 18 7) (fld w 11 7) (fld w 4 7) (fld w 2 2) (fld w 0 1)) else none
  | 5 => some (.vmad (fld w 18 7) (fld w 11 7) (fld w 4 7) (fld w 2 2) (fld w 0 2))
  | 6 => if w % 4 = 0 then some (.vand (fld w 18 7) (fld w 11 7) (fld w 4 7) (fld w 2 2)) else none
  | 7 => if w % 4 = 0 then some (.vor (fld w 18 7) (fld w 11 7) (fld w 4 7) (fld w 2 2)) else none
  | 8 => if w % 4 = 0 then some (.vxor (fld w 18 7) (fld w 11 7) (fld w 4 7) (fld w 2 2)) else none
  | 9 => if w % 4 = 0 then some (.vandn (fld w 18 7) (fld w 11 7) (fld w 4 7) (fld w 2 2)) else none
  | 10 => if w % 4 = 0 then some (.vshl (fld w 18 7) (fld w 11 7) (fld w 4 7) (fld w 2 2)) else none
  | 11 => if w / 2 % 2 = 0 then some (.vshr (fld w 18 7) (fld w 11 7) (fld w 4 7) (fld w 2 2) (fld w 0 1)) else none
  | 12 => some (.vmin (fld w 18 7) (fld w 11 7) (fld w 4 7) (fld w 2 2) (fld w 0 2))
  | 13 => some (.vmax (fld w 18 7) (fld w 11 7) (fld w 4 7) (fld w 2 2) (fld w 0 2))
  | 14 => some (.vabsd (fld w 18 7) (fld w 11 7) (fld w 4 7) (fld w 2 2) (fld w 0 2))
  | 15 => if w % 4 = 0 then some (.vaddc (fld w 18 7) (fld w 11 7) (fld w 4 7) (fld w 2 2)) else none
  | 16 => if w % 4 = 0 then some (.vsel (fld w 18 7) (fld w 11 7) (fld w 4 7) (fld w 2 2)) else none
  | 17 => if w / 2 % 2 = 0 then some (.vbfx (fld w 18 7) (fld w 11 7) (fld w 4 7) (fld w 2 2) (fld w 0 1)) else none
  | 18 => if w % 4 = 0 then some (.vbfi (fld w 18 7) (fld w 11 7) (fld w 4 7) (fld w 2 2)) else none
  | 19 => if w % 4 = 0 ∧ w / 16 % 128 = 0 then some (.vpopc (fld w 18 7) (fld w 11 7) (fld w 2 2))
      else if w % 4 = 1 ∧ w / 16 % 128 = 0 then some (.vclz (fld w 18 7) (fld w 11 7) (fld w 2 2))
      else if w % 4 = 2 ∧ w / 16 % 128 = 0 then some (.vbrev (fld w 18 7) (fld w 11 7) (fld w 2 2))
      else if w % 4 = 3 ∧ w / 16 % 128 = 0 then some (.vneg (fld w 18 7) (fld w 11 7) (fld w 2 2))
      else none
  | 20 => some (.vdp4 (fld w 18 7) (fld w 11 7) (fld w 4 7) (fld w 2 2) (fld w 0 2))
  | 21 => if w / 2 % 2 = 0 then some (.vclmul (fld w 18 7) (fld w 11 7) (fld w 4 7) (fld w 2 2) (fld w 0 1)) else none
  | 22 => if w % 4 = 0 ∧ w / 16 % 128 = 0 then some (.vmov (fld w 18 7) (fld w 11 7) (fld w 2 2)) else none
  | 23 => some (.vaddi (fld w 18 7) (fld w 11 7) (fld w 4 7) (fld w 2 2) (fld w 0 2))
  | 24 => if w % 4 = 0 ∧ w / 512 % 4 = 0 then some (.vshli (fld w 18 7) (fld w 11 7) (fld w 4 5) (fld w 2 2)) else none
  | 25 => if w / 2 % 2 = 0 ∧ w / 512 % 4 = 0 then some (.vshri (fld w 18 7) (fld w 11 7) (fld w 4 5) (fld w 2 2) (fld w 0 1)) else none
  | 26 => if w % 4 = 0 then some (.vandi (fld w 18 7) (fld w 11 7) (fld w 4 7) (fld w 2 2)) else none
  | 27 => if w % 4 = 0 then some (.vli (fld w 18 7) (fld w 4 14) (fld w 2 2)) else none
  | 28 => some (.vcmpi (fld w 21 4) (fld w 18 3) (fld w 11 7) (fld w 4 7) (fld w 2 2) (fld w 0 2))
  | 29 => some (.vmuli (fld w 18 7) (fld w 11 7) (fld w 4 7) (fld w 2 2) (fld w 0 2))
  | 32 => some (.vfadd (fld w 18 7) (fld w 11 7) (fld w 4 7) (fld w 2 2) (fld w 0 2))
  | 33 => some (.vfsub (fld w 18 7) (fld w 11 7) (fld w 4 7) (fld w 2 2) (fld w 0 2))
  | 34 => some (.vfmul (fld w 18 7) (fld w 11 7) (fld w 4 7) (fld w 2 2) (fld w 0 2))
  | 35 => some (.vfma (fld w 18 7) (fld w 11 7) (fld w 4 7) (fld w 2 2) (fld w 0 2))
  | 36 => some (.vfms (fld w 18 7) (fld w 11 7) (fld w 4 7) (fld w 2 2) (fld w 0 2))
  | 37 => some (.vfnma (fld w 18 7) (fld w 11 7) (fld w 4 7) (fld w 2 2) (fld w 0 2))
  | 38 => some (.vfmin (fld w 18 7) (fld w 11 7) (fld w 4 7) (fld w 2 2) (fld w 0 2))
  | 39 => some (.vfmax (fld w 18 7) (fld w 11 7) (fld w 4 7) (fld w 2 2) (fld w 0 2))
  | 40 => if w / 16 % 128 = 0 then some (.vfrcp (fld w 18 7) (fld w 11 7) (fld w 2 2) (fld w 0 2))
      else if w / 16 % 128 = 1 then some (.vfrsq (fld w 18 7) (fld w 11 7) (fld w 2 2) (fld w 0 2))
      else if w / 16 % 128 = 2 then some (.vfsqrt (fld w 18 7) (fld w 11 7) (fld w 2 2) (fld w 0 2))
      else if w / 16 % 128 = 3 then some (.vfexp2 (fld w 18 7) (fld w 11 7) (fld w 2 2) (fld w 0 2))
      else if w / 16 % 128 = 4 then some (.vflog2 (fld w 18 7) (fld w 11 7) (fld w 2 2) (fld w 0 2))
      else if w / 16 % 128 = 5 then some (.vfsin (fld w 18 7) (fld w 11 7) (fld w 2 2) (fld w 0 2))
      else if w / 16 % 128 = 6 then some (.vfcos (fld w 18 7) (fld w 11 7) (fld w 2 2) (fld w 0 2))
      else if w / 16 % 128 = 7 then some (.vfabs (fld w 18 7) (fld w 11 7) (fld w 2 2) (fld w 0 2))
      else if w / 16 % 128 = 8 then some (.vfneg (fld w 18 7) (fld w 11 7) (fld w 2 2) (fld w 0 2))
      else if w / 16 % 128 = 9 then some (.vfrndN (fld w 18 7) (fld w 11 7) (fld w 2 2) (fld w 0 2))
      else if w / 16 % 128 = 10 then some (.vfrndZ (fld w 18 7) (fld w 11 7) (fld w 2 2) (fld w 0 2))
      else if w / 16 % 128 = 11 then some (.vfrndD (fld w 18 7) (fld w 11 7) (fld w 2 2) (fld w 0 2))
      else if w / 16 % 128 = 12 then some (.vfrndU (fld w 18 7) (fld w 11 7) (fld w 2 2) (fld w 0 2))
      else if w / 16 % 128 = 13 then some (.vffrc (fld w 18 7) (fld w 11 7) (fld w 2 2) (fld w 0 2))
      else if w / 16 % 128 = 14 then some (.vfclass (fld w 18 7) (fld w 11 7) (fld w 2 2) (fld w 0 2))
      else none
  | 41 => some (.vfdiv (fld w 18 7) (fld w 11 7) (fld w 4 7) (fld w 2 2) (fld w 1 1) (fld w 0 1))
  | 42 => some (.vfscale (fld w 18 7) (fld w 11 7) (fld w 4 7) (fld w 2 2) (fld w 0 2))
  | 43 => some (.vfcmp (fld w 21 4) (fld w 18 3) (fld w 11 7) (fld w 4 7) (fld w 2 2) (fld w 0 2))
  | 44 => some (.vcmp (fld w 21 4) (fld w 18 3) (fld w 11 7) (fld w 4 7) (fld w 2 2) (fld w 0 2))
  | 48 => some (.vcvt (fld w 18 7) (fld w 11 7) (fld w 4 7) (fld w 2 2) (fld w 0 2))
  | 49 => some (.vshfl (fld w 18 7) (fld w 11 7) (fld w 10 1) (fld w 4 6) (fld w 2 2) (fld w 0 2))
  | 50 => some (.vshfli (fld w 18 7) (fld w 11 7) (fld w 10 1) (fld w 4 6) (fld w 2 2) (fld w 0 2))
  | 51 => if w / 16 % 128 = 0 ∧ w / 16777216 % 2 = 0 then some (.vvote (fld w 18 6) (fld w 11 7) (fld w 2 2) (fld w 0 2)) else none
  | 52 => if w % 4 = 0 ∧ w / 16777216 % 2 = 0 then some (.vfold (fld w 18 6) (fld w 11 7) (fld w 4 7) (fld w 2 2)) else none
  | 53 => if w / 2 % 2 = 0 ∧ w / 16 % 128 = 0 then some (.vscan (fld w 18 7) (fld w 11 7) (fld w 2 2) (fld w 0 1)) else none
  | 54 => if w % 4 = 0 ∧ w / 16 % 128 = 0 ∧ w / 131072 % 2 = 0 then some (.vbcast (fld w 18 7) (fld w 11 6) (fld w 2 2))
      else if w % 4 = 1 ∧ w / 16 % 128 = 0 then some (.vspec (fld w 18 7) (fld w 11 7) (fld w 2 2))
      else none
  | 55 => if w % 16 = 0 ∧ w / 16777216 % 2 = 0 then some (.vgetl (fld w 18 6) (fld w 11 7) (fld w 10 1) (fld w 4 6))
      else if w % 16 = 1 ∧ w / 131072 % 2 = 0 then some (.vputl (fld w 18 7) (fld w 11 6) (fld w 10 1) (fld w 4 6))
      else none
  | 56 => if w % 4096 = 0 ∧ w / 2097152 % 16 = 0 then some (.mand (fld w 18 3) (fld w 15 3) (fld w 12 3))
      else if w % 4096 = 0 ∧ w / 2097152 % 16 = 1 then some (.mor (fld w 18 3) (fld w 15 3) (fld w 12 3))
      else if w % 4096 = 0 ∧ w / 2097152 % 16 = 2 then some (.mxor (fld w 18 3) (fld w 15 3) (fld w 12 3))
      else if w % 4096 = 0 ∧ w / 2097152 % 16 = 3 then some (.mandn (fld w 18 3) (fld w 15 3) (fld w 12 3))
      else if w % 32768 = 0 ∧ w / 2097152 % 16 = 4 then some (.mnot (fld w 18 3) (fld w 15 3))
      else if w % 32768 = 0 ∧ w / 2097152 % 16 = 5 then some (.mmov (fld w 18 3) (fld w 15 3))
      else none
  | 57 => if w % 4096 = 0 ∧ w / 2097152 % 16 = 0 then some (.mget (fld w 18 3) (fld w 12 6))
      else if w % 4096 = 0 ∧ w / 2097152 % 16 = 1 then some (.mset (fld w 18 3) (fld w 12 6))
      else if w % 4096 = 0 ∧ w / 2097152 % 16 = 2 then some (.mpop (fld w 18 3) (fld w 12 6))
      else if w % 4096 = 0 ∧ w / 2097152 % 16 = 3 then some (.mffs (fld w 18 3) (fld w 12 6))
      else none
  | 64 => if w / 2 % 64 = 0 then some (.sadd (fld w 19 6) (fld w 13 6) (fld w 7 6) (fld w 0 1))
      else if w / 2 % 64 = 1 then some (.ssub (fld w 19 6) (fld w 13 6) (fld w 7 6) (fld w 0 1))
      else if w / 2 % 64 = 2 then some (.smul (fld w 19 6) (fld w 13 6) (fld w 7 6) (fld w 0 1))
      else if w / 2 % 64 = 3 then some (.smulh (fld w 19 6) (fld w 13 6) (fld w 7 6) (fld w 0 1))
      else if w / 2 % 64 = 4 then some (.smulhu (fld w 19 6) (fld w 13 6) (fld w 7 6) (fld w 0 1))
      else if w / 2 % 64 = 5 then some (.sand (fld w 19 6) (fld w 13 6) (fld w 7 6) (fld w 0 1))
      else if w / 2 % 64 = 6 then some (.sor (fld w 19 6) (fld w 13 6) (fld w 7 6) (fld w 0 1))
      else if w / 2 % 64 = 7 then some (.sxor (fld w 19 6) (fld w 13 6) (fld w 7 6) (fld w 0 1))
      else if w / 2 % 64 = 8 then some (.sandn (fld w 19 6) (fld w 13 6) (fld w 7 6) (fld w 0 1))
      else if w / 2 % 64 = 9 then some (.sshl (fld w 19 6) (fld w 13 6) (fld w 7 6) (fld w 0 1))
      else if w / 2 % 64 = 10 then some (.sshr (fld w 19 6) (fld w 13 6) (fld w 7 6) (fld w 0 1))
      else if w / 2 % 64 = 11 then some (.ssra (fld w 19 6) (fld w 13 6) (fld w 7 6) (fld w 0 1))
      else if w / 2 % 64 = 12 then some (.smin (fld w 19 6) (fld w 13 6) (fld w 7 6) (fld w 0 1))
      else if w / 2 % 64 = 13 then some (.smax (fld w 19 6) (fld w 13 6) (fld w 7 6) (fld w 0 1))
      else if w / 2 % 64 = 14 then some (.sminu (fld w 19 6) (fld w 13 6) (fld w 7 6) (fld w 0 1))
      else if w / 2 % 64 = 15 then some (.smaxu (fld w 19 6) (fld w 13 6) (fld w 7 6) (fld w 0 1))
      else if w / 2 % 4096 = 16 then some (.spopc (fld w 19 6) (fld w 13 6) (fld w 0 1))
      else if w / 2 % 4096 = 17 then some (.sclz (fld w 19 6) (fld w 13 6) (fld w 0 1))
      else if w / 2 % 4096 = 18 then some (.smov (fld w 19 6) (fld w 13 6) (fld w 0 1))
      else if w / 2 % 64 = 19 then some (.sbfx (fld w 19 6) (fld w 13 6) (fld w 7 6) (fld w 0 1))
      else none
  | 65 => some (.saddi (fld w 19 6) (fld w 13 6) (fld w 0 13))
  | 66 => some (.sandi (fld w 19 6) (fld w 13 6) (fld w 0 13))
  | 67 => some (.sori (fld w 19 6) (fld w 13 6) (fld w 0 13))
  | 68 => some (.sxori (fld w 19 6) (fld w 13 6) (fld w 0 13))
  | 69 => if w / 64 % 128 = 0 then some (.sshli (fld w 19 6) (fld w 13 6) (fld w 0 6)) else none
  | 70 => if w / 128 % 64 = 0 then some (.sshri (fld w 19 6) (fld w 13 6) (fld w 6 1) (fld w 0 6)) else none
  | 71 => some (.sli (fld w 19 6) (fld w 0 19))
  | 72 => some (.slui (fld w 19 6) (fld w 0 19))
  | 73 => if w % 128 = 0 ∧ w / 524288 % 64 = 0 then some (.scmp (fld w 13 6) (fld w 7 6))
      else if w % 2 = 1 ∧ w / 524288 % 64 = 0 then some (.scmpi (fld w 13 6) (fld w 1 12))
      else none
  | 74 => if w % 2 = 0 then some (.ssel (fld w 19 6) (fld w 13 6) (fld w 7 6) (fld w 1 6)) else none
  | 75 => if w % 2 = 0 ∧ w / 8192 % 64 = 0 then some (.sget (fld w 19 6) (fld w 1 12))
      else if w % 2 = 1 ∧ w / 524288 % 64 = 0 then some (.sset (fld w 13 6) (fld w 1 12))
      else none
  | 76 => if w / 32 % 4 = 0 then some (.sdiv (fld w 19 6) (fld w 13 6) (fld w 7 6) (fld w 1 4) (fld w 0 1))
      else if w / 32 % 4 = 1 then some (.sdivu (fld w 19 6) (fld w 13 6) (fld w 7 6) (fld w 1 4) (fld w 0 1))
      else if w / 32 % 4 = 2 then some (.srem (fld w 19 6) (fld w 13 6) (fld w 7 6) (fld w 1 4) (fld w 0 1))
      else if w / 32 % 4 = 3 then some (.sremu (fld w 19 6) (fld w 13 6) (fld w 7 6) (fld w 1 4) (fld w 0 1))
      else none
  | 80 => some (.br (fld w 20 5) (fld w 0 20))
  | 81 => some (.brm (fld w 23 2) (fld w 20 3) (fld w 0 20))
  | 82 => if w / 1048576 % 32 = 0 then some (.call (fld w 0 20))
      else if w / 64 % 524288 = 16384 then some (.bri (fld w 0 6))
      else if w / 64 % 524288 = 32768 then some (.calli (fld w 0 6))
      else if w % 33554432 = 3145728 then some .ret
      else none
  | 83 => if w / 1048576 % 32 = 0 then some (.mark (fld w 0 20))
      else if w % 33554432 = 1048576 then some .join
      else none
  | 84 => if w / 8388608 % 4 = 0 then some (.split (fld w 20 3) (fld w 0 20))
      else if w % 33554432 = 8388608 then some .regang
      else none
  | 85 => if w / 1048576 % 32 = 0 then some (.ihead (fld w 0 20))
      else if w % 1048576 = 0 ∧ w / 8388608 % 4 = 1 then some (.idone (fld w 20 3))
      else none
  | 86 => if w / 16 % 2097152 = 0 then some (.barsync (fld w 0 4))
      else if w / 16 % 2097152 = 65536 then some (.bararr (fld w 0 4))
      else if w / 16 % 2097152 = 131072 then some (.barwait (fld w 0 4))
      else if w % 33554432 = 3145728 then some .yield
      else if w / 128 % 262144 = 32768 then some (.waitSb (fld w 0 7))
      else if w % 33554432 = 4325376 then some .waitDet
      else if w / 16 % 2097152 = 278528 then some (.waitOpc (fld w 0 4))
      else if w / 16 % 2097152 = 286720 then some (.waitMat (fld w 0 4))
      else if w / 16 % 2097152 = 294912 then some (.waitBatch (fld w 0 4))
      else if w % 33554432 = 5242880 then some .exit
      else if w / 524288 % 64 = 12 then some (.setfmt (fld w 0 19))
      else if w / 64 % 524288 = 106496 then some (.setfmtScalar (fld w 0 6))
      else if w % 33554432 = 7340032 then some .nop
      else none
  | 87 => if w % 8192 = 0 then some (.launch (fld w 19 6) (fld w 13 6))
      else if w % 8192 = 2 then some (.lwait (fld w 19 6) (fld w 13 6))
      else none
  | 88 => if w / 65536 % 512 = 0 then some (.trap (fld w 0 16))
      else if w / 65536 % 512 = 8 then some (.brk (fld w 0 16))
      else if w / 4 % 8388608 = 262144 then some (.tret (fld w 0 2))
      else if w / 2 % 16777216 = 786432 then some (.eret (fld w 0 1))
      else if w % 256 = 0 ∧ w / 524288 % 64 = 4 then some (.ewin (fld w 17 2) (fld w 10 7) (fld w 8 2))
      else if w % 33554432 = 2621440 then some .fbar
      else none
  | 90 => if w / 64 % 4 = 3 then some (.vldPr (fld w 18 7) (fld w 11 7) (fld w 8 3) (fld w 2 4) (fld w 0 2)) else some (.vld (fld w 18 7) (fld w 11 7) (fld w 8 3) (fld w 6 2) (fld w 2 4) (fld w 0 2))
  | 91 => some (.vst (fld w 18 7) (fld w 11 7) (fld w 8 3) (fld w 6 2) (fld w 2 4) (fld w 0 2))
  | 92 => some (.vlda (fld w 18 7) (fld w 11 7) (fld w 8 3) (fld w 6 2) (fld w 2 4) (fld w 0 2))
  | 93 => some (.vstl (fld w 18 7) (fld w 11 7) (fld w 8 3) (fld w 6 2) (fld w 2 4) (fld w 0 2))
  | 94 => some (.sld (fld w 19 6) (fld w 13 6) (fld w 1 12) (fld w 0 1))
  | 95 => some (.sst (fld w 19 6) (fld w 13 6) (fld w 1 12) (fld w 0 1))
  | 96 => if w / 2 % 4096 = 0 ∧ w / 524288 % 64 = 0 then some (.pref (fld w 13 6) (fld w 0 1))
      else if w % 8192 = 2 then some (.clock (fld w 19 6) (fld w 13 6))
      else if w % 8192 = 4 ∧ w / 524288 % 64 = 0 then some (.cunlk (fld w 13 6))
      else if w % 8192 = 6 ∧ w / 524288 % 64 = 0 then some (.cinv (fld w 13 6))
      else if w % 8192 = 8 ∧ w / 524288 % 64 = 0 then some (.cwb (fld w 13 6))
      else none
  | 97 => some (.vatom (fld w 18 7) (fld w 11 7) (fld w 4 7) (fld w 0 4))
  | 98 => some (.vatomAr (fld w 18 7) (fld w 11 7) (fld w 4 7) (fld w 0 4))
  | 99 => some (.vatomW (fld w 18 7) (fld w 11 7) (fld w 4 7) (fld w 0 4))
  | 100 => some (.satom (fld w 19 6) (fld w 13 6) (fld w 7 6) (fld w 3 4) (fld w 1 2) (fld w 0 1))
  | 101 => if w % 4 = 0 ∧ w / 16 % 2097152 = 0 then some (.fence (fld w 2 2))
      else if w % 4 = 0 ∧ w / 16 % 2097152 = 1 then some (.fenceAcq (fld w 2 2))
      else if w % 4 = 0 ∧ w / 16 % 2097152 = 2 then some (.fenceRel (fld w 2 2))
      else if w % 33554432 = 48 then some .fenceLt
      else if w % 4 = 0 ∧ w / 16 % 2097152 = 4 then some (.fenceHv (fld w 2 2))
      else if w % 33554432 = 80 then some .mofence
      else none
  | 102 => if w / 32 % 2 = 0 ∧ w / 65536 % 4 = 0 then some (.mma (fld w 18 7) (fld w 11 5) (fld w 6 5) (fld w 4 1) (fld w 0 4))
      else if w / 32 % 2 = 1 then some (.mmaR (fld w 18 7) (fld w 11 7) (fld w 6 5) (fld w 4 1) (fld w 0 4))
      else none
  | 103 => if w / 32 % 2 = 0 ∧ w / 65536 % 4 = 0 then some (.mms (fld w 18 7) (fld w 11 5) (fld w 6 5) (fld w 4 1) (fld w 0 4))
      else if w / 32 % 2 = 1 then some (.mmsR (fld w 18 7) (fld w 11 7) (fld w 6 5) (fld w 4 1) (fld w 0 4))
      else none
  | 104 => if w / 16 % 16 = 0 ∧ w / 262144 % 128 = 0 then some (.wbload (fld w 13 5) (fld w 8 5) (fld w 0 4))
      else if w / 16 % 16 = 1 ∧ w / 262144 % 128 = 0 then some (.spload (fld w 13 5) (fld w 8 5) (fld w 0 4))
      else if w / 16 % 16 = 2 ∧ w / 262144 % 128 = 0 then some (.cbload (fld w 13 5) (fld w 8 5) (fld w 0 4))
      else if w / 16 % 16 = 3 ∧ w / 262144 % 128 = 0 then some (.zpload (fld w 13 5) (fld w 8 5) (fld w 0 4))
      else if w / 16 % 2097152 = 4 then some (.mzero (fld w 0 4))
      else none
  | 105 => if w % 2 = 0 then some (.cpy (fld w 20 5) (fld w 15 5) (fld w 10 5) (fld w 7 3) (fld w 6 1) (fld w 5 1) (fld w 4 1) (fld w 3 1) (fld w 2 1) (fld w 1 1)) else none
  | 106 => if w % 33554432 = 0 then some .cseal
      else if w / 1048576 % 32 = 1 then some (.cyield (fld w 16 4) (fld w 0 16))
      else if w / 64 % 524288 = 32768 then some (.sqinit (fld w 0 6))
      else if w / 4096 % 8192 = 768 then some (.sqwait (fld w 6 6) (fld w 0 6))
      else if w / 4096 % 8192 = 1024 then some (.sqrel (fld w 6 6) (fld w 0 6))
      else none
  | 107 => if w % 33554432 = 0 then some .pdone
      else if w % 8192 = 2 ∧ w / 524288 % 64 = 0 then some (.pwait (fld w 13 6))
      else if w % 8192 = 4 then some (.pfin (fld w 19 6) (fld w 13 6))
      else none
  | 108 => some (.ldp (fld w 18 7) (fld w 11 7) (fld w 6 5) (fld w 2 4) (fld w 0 2))
  | 109 => if w % 128 = 0 then some (.fretype (fld w 19 6) (fld w 13 6) (fld w 7 6))
      else if w % 8192 = 2 then some (.finfo (fld w 19 6) (fld w 13 6))
      else if w % 128 = 4 then some (.fharvest (fld w 19 6) (fld w 13 6) (fld w 7 6))
      else if w % 8192 = 6 then some (.fresume (fld w 19 6) (fld w 13 6))
      else none
  | 127 => if w / 16 % 16 = 0 ∧ w / 16777216 % 2 = 0 then some (.clauseHeader (fld w 20 4) (fld w 12 8) (fld w 11 1) (fld w 8 3) (fld w 0 4)) else none
  | _ => none

/-- The opcodes of R30 that hold instructions, and the clause header marker 0x7F. -/
def opListed (op : Nat) : Bool :=
  (1 ≤ op && op ≤ 0x1D) || (0x20 ≤ op && op ≤ 0x2C) || (0x30 ≤ op && op ≤ 0x39) || (0x40 ≤ op && op ≤ 0x4C)
    || (0x50 ≤ op && op ≤ 0x58) || (0x5A ≤ op && op ≤ 0x6D) || op == 0x7F

/-- A word of the code stream as an instruction, or the name of what is wrong with it. -/
def decodeWord (w : W32) : Except DecodeError Instr :=
  let op := w.toNat / 33554432 % 128
  match decodeRow w.toNat with
  | some i => if i.wellFormed then .ok i else .error .badField
  | none =>
    if 0x6E ≤ op ∧ op ≤ 0x7E then .error .reservedSpace
    else if opListed op then .error .badSelector
    else .error .unlistedOpcode

/-- The decoder: the first word of little-endian bytes (R2, R16) and the bytes after it. -/
def decode : List Byte → Except DecodeError (Instr × List Byte)
  | b0 :: b1 :: b2 :: b3 :: rest =>
    match decodeWord (BitVec.ofNat 32 (b0.toNat + b1.toNat * 2 ^ 8 + b2.toNat * 2 ^ 16 + b3.toNat * 2 ^ 24)) with
    | .ok i => .ok (i, rest)
    | .error e => .error e
  | _ => .error .truncated

/-- The word of an instruction as a number (R28, R29); none for a step that no word encodes. -/
def encodeNat : Instr → Option Nat
  | .clauseHeader batch sbwait yld cls count => some (0xfe000000 + batch.toNat * 1048576 + sbwait.toNat * 4096 + yld.toNat * 2048 + cls.toNat * 256 + count.toNat)
  | .vadd vd va vb m ty => some (0x2000000 + vd.toNat * 262144 + va.toNat * 2048 + vb.toNat * 16 + m.toNat * 4 + ty.toNat)
  | .vsub vd va vb m ty => some (0x4000000 + vd.toNat * 262144 + va.toNat * 2048 + vb.toNat * 16 + m.toNat * 4 + ty.toNat)
  | .vmul vd va vb m ty => some (0x6000000 + vd.toNat * 262144 + va.toNat * 2048 + vb.toNat * 16 + m.toNat * 4 + ty.toNat)
  | .vmulh vd va vb m ty => some (0x8000000 + vd.toNat * 262144 + va.toNat * 2048 + vb.toNat * 16 + m.toNat * 4 + ty.toNat)
  | .vmad vd va vb m ty => some (0xa000000 + vd.toNat * 262144 + va.toNat * 2048 + vb.toNat * 16 + m.toNat * 4 + ty.toNat)
  | .vand vd va vb m => some (0xc000000 + vd.toNat * 262144 + va.toNat * 2048 + vb.toNat * 16 + m.toNat * 4)
  | .vor vd va vb m => some (0xe000000 + vd.toNat * 262144 + va.toNat * 2048 + vb.toNat * 16 + m.toNat * 4)
  | .vxor vd va vb m => some (0x10000000 + vd.toNat * 262144 + va.toNat * 2048 + vb.toNat * 16 + m.toNat * 4)
  | .vandn vd va vb m => some (0x12000000 + vd.toNat * 262144 + va.toNat * 2048 + vb.toNat * 16 + m.toNat * 4)
  | .vshl vd va vb m => some (0x14000000 + vd.toNat * 262144 + va.toNat * 2048 + vb.toNat * 16 + m.toNat * 4)
  | .vshr vd va vb m ty => some (0x16000000 + vd.toNat * 262144 + va.toNat * 2048 + vb.toNat * 16 + m.toNat * 4 + ty.toNat)
  | .vmin vd va vb m ty => some (0x18000000 + vd.toNat * 262144 + va.toNat * 2048 + vb.toNat * 16 + m.toNat * 4 + ty.toNat)
  | .vmax vd va vb m ty => some (0x1a000000 + vd.toNat * 262144 + va.toNat * 2048 + vb.toNat * 16 + m.toNat * 4 + ty.toNat)
  | .vabsd vd va vb m ty => some (0x1c000000 + vd.toNat * 262144 + va.toNat * 2048 + vb.toNat * 16 + m.toNat * 4 + ty.toNat)
  | .vaddc vd va vb mc => some (0x1e000000 + vd.toNat * 262144 + va.toNat * 2048 + vb.toNat * 16 + mc.toNat * 4)
  | .vsel vd va vb ms => some (0x20000000 + vd.toNat * 262144 + va.toNat * 2048 + vb.toNat * 16 + ms.toNat * 4)
  | .vbfx vd va vb m ty => some (0x22000000 + vd.toNat * 262144 + va.toNat * 2048 + vb.toNat * 16 + m.toNat * 4 + ty.toNat)
  | .vbfi vd va vb m => some (0x24000000 + vd.toNat * 262144 + va.toNat * 2048 + vb.toNat * 16 + m.toNat * 4)
  | .vpopc vd va m => some (0x26000000 + vd.toNat * 262144 + va.toNat * 2048 + m.toNat * 4)
  | .vclz vd va m => some (0x26000001 + vd.toNat * 262144 + va.toNat * 2048 + m.toNat * 4)
  | .vbrev vd va m => some (0x26000002 + vd.toNat * 262144 + va.toNat * 2048 + m.toNat * 4)
  | .vneg vd va m => some (0x26000003 + vd.toNat * 262144 + va.toNat * 2048 + m.toNat * 4)
  | .vdp4 vd va vb m ty => some (0x28000000 + vd.toNat * 262144 + va.toNat * 2048 + vb.toNat * 16 + m.toNat * 4 + ty.toNat)
  | .vclmul vd va vb m ty => some (0x2a000000 + vd.toNat * 262144 + va.toNat * 2048 + vb.toNat * 16 + m.toNat * 4 + ty.toNat)
  | .vmov vd va m => some (0x2c000000 + vd.toNat * 262144 + va.toNat * 2048 + m.toNat * 4)
  | .vaddi vd va imm m ty => some (0x2e000000 + vd.toNat * 262144 + va.toNat * 2048 + imm.toNat * 16 + m.toNat * 4 + ty.toNat)
  | .vshli vd va imm m => some (0x30000000 + vd.toNat * 262144 + va.toNat * 2048 + imm.toNat * 16 + m.toNat * 4)
  | .vshri vd va imm m ty => some (0x32000000 + vd.toNat * 262144 + va.toNat * 2048 + imm.toNat * 16 + m.toNat * 4 + ty.toNat)
  | .vandi vd va imm m => some (0x34000000 + vd.toNat * 262144 + va.toNat * 2048 + imm.toNat * 16 + m.toNat * 4)
  | .vmuli vd va imm m ty => some (0x3a000000 + vd.toNat * 262144 + va.toNat * 2048 + imm.toNat * 16 + m.toNat * 4 + ty.toNat)
  | .vli vd imm m => some (0x36000000 + vd.toNat * 262144 + imm.toNat * 16 + m.toNat * 4)
  | .vcmpi cnd md va imm m ty => some (0x38000000 + cnd.toNat * 2097152 + md.toNat * 262144 + va.toNat * 2048 + imm.toNat * 16 + m.toNat * 4 + ty.toNat)
  | .vcmp cnd md va vb m ty => some (0x58000000 + cnd.toNat * 2097152 + md.toNat * 262144 + va.toNat * 2048 + vb.toNat * 16 + m.toNat * 4 + ty.toNat)
  | .vfcmp cnd md va vb m ty => some (0x56000000 + cnd.toNat * 2097152 + md.toNat * 262144 + va.toNat * 2048 + vb.toNat * 16 + m.toNat * 4 + ty.toNat)
  | .vfadd vd va vb m ty => some (0x40000000 + vd.toNat * 262144 + va.toNat * 2048 + vb.toNat * 16 + m.toNat * 4 + ty.toNat)
  | .vfsub vd va vb m ty => some (0x42000000 + vd.toNat * 262144 + va.toNat * 2048 + vb.toNat * 16 + m.toNat * 4 + ty.toNat)
  | .vfmul vd va vb m ty => some (0x44000000 + vd.toNat * 262144 + va.toNat * 2048 + vb.toNat * 16 + m.toNat * 4 + ty.toNat)
  | .vfma vd va vb m ty => some (0x46000000 + vd.toNat * 262144 + va.toNat * 2048 + vb.toNat * 16 + m.toNat * 4 + ty.toNat)
  | .vfms vd va vb m ty => some (0x48000000 + vd.toNat * 262144 + va.toNat * 2048 + vb.toNat * 16 + m.toNat * 4 + ty.toNat)
  | .vfnma vd va vb m ty => some (0x4a000000 + vd.toNat * 262144 + va.toNat * 2048 + vb.toNat * 16 + m.toNat * 4 + ty.toNat)
  | .vfmin vd va vb m ty => some (0x4c000000 + vd.toNat * 262144 + va.toNat * 2048 + vb.toNat * 16 + m.toNat * 4 + ty.toNat)
  | .vfmax vd va vb m ty => some (0x4e000000 + vd.toNat * 262144 + va.toNat * 2048 + vb.toNat * 16 + m.toNat * 4 + ty.toNat)
  | .vfrcp vd va m ty => some (0x50000000 + vd.toNat * 262144 + va.toNat * 2048 + m.toNat * 4 + ty.toNat)
  | .vfrsq vd va m ty => some (0x50000010 + vd.toNat * 262144 + va.toNat * 2048 + m.toNat * 4 + ty.toNat)
  | .vfsqrt vd va m ty => some (0x50000020 + vd.toNat * 262144 + va.toNat * 2048 + m.toNat * 4 + ty.toNat)
  | .vfexp2 vd va m ty => some (0x50000030 + vd.toNat * 262144 + va.toNat * 2048 + m.toNat * 4 + ty.toNat)
  | .vflog2 vd va m ty => some (0x50000040 + vd.toNat * 262144 + va.toNat * 2048 + m.toNat * 4 + ty.toNat)
  | .vfsin vd va m ty => some (0x50000050 + vd.toNat * 262144 + va.toNat * 2048 + m.toNat * 4 + ty.toNat)
  | .vfcos vd va m ty => some (0x50000060 + vd.toNat * 262144 + va.toNat * 2048 + m.toNat * 4 + ty.toNat)
  | .vfabs vd va m ty => some (0x50000070 + vd.toNat * 262144 + va.toNat * 2048 + m.toNat * 4 + ty.toNat)
  | .vfneg vd va m ty => some (0x50000080 + vd.toNat * 262144 + va.toNat * 2048 + m.toNat * 4 + ty.toNat)
  | .vfrndN vd va m ty => some (0x50000090 + vd.toNat * 262144 + va.toNat * 2048 + m.toNat * 4 + ty.toNat)
  | .vfrndZ vd va m ty => some (0x500000a0 + vd.toNat * 262144 + va.toNat * 2048 + m.toNat * 4 + ty.toNat)
  | .vfrndD vd va m ty => some (0x500000b0 + vd.toNat * 262144 + va.toNat * 2048 + m.toNat * 4 + ty.toNat)
  | .vfrndU vd va m ty => some (0x500000c0 + vd.toNat * 262144 + va.toNat * 2048 + m.toNat * 4 + ty.toNat)
  | .vffrc vd va m ty => some (0x500000d0 + vd.toNat * 262144 + va.toNat * 2048 + m.toNat * 4 + ty.toNat)
  | .vfclass vd va m ty => some (0x500000e0 + vd.toNat * 262144 + va.toNat * 2048 + m.toNat * 4 + ty.toNat)
  | .vfdiv vd va vb m f64 det => some (0x52000000 + vd.toNat * 262144 + va.toNat * 2048 + vb.toNat * 16 + m.toNat * 4 + f64.toNat * 2 + det.toNat)
  | .vfscale vd va vb m ty => some (0x54000000 + vd.toNat * 262144 + va.toNat * 2048 + vb.toNat * 16 + m.toNat * 4 + ty.toNat)
  | .vcvt vd va code m rnd => some (0x60000000 + vd.toNat * 262144 + va.toNat * 2048 + code.toNat * 16 + m.toNat * 4 + rnd.toNat)
  | .vshfl vd va rep vx m ty => some (0x62000000 + vd.toNat * 262144 + va.toNat * 2048 + rep.toNat * 1024 + vx.toNat * 16 + m.toNat * 4 + ty.toNat)
  | .vshfli vd va rep num m ty => some (0x64000000 + vd.toNat * 262144 + va.toNat * 2048 + rep.toNat * 1024 + num.toNat * 16 + m.toNat * 4 + ty.toNat)
  | .vvote sd va m ty => some (0x66000000 + sd.toNat * 262144 + va.toNat * 2048 + m.toNat * 4 + ty.toNat)
  | .vfold sd va op m => some (0x68000000 + sd.toNat * 262144 + va.toNat * 2048 + op.toNat * 16 + m.toNat * 4)
  | .vscan vd va m ty => some (0x6a000000 + vd.toNat * 262144 + va.toNat * 2048 + m.toNat * 4 + ty.toNat)
  | .vbcast vd ss m => some (0x6c000000 + vd.toNat * 262144 + ss.toNat * 2048 + m.toNat * 4)
  | .vspec vd va m => some (0x6c000001 + vd.toNat * 262144 + va.toNat * 2048 + m.toNat * 4)
  | .vgetl sd va byS ln => some (0x6e000000 + sd.toNat * 262144 + va.toNat * 2048 + byS.toNat * 1024 + ln.toNat * 16)
  | .vputl vd ss byS ln => some (0x6e000001 + vd.toNat * 262144 + ss.toNat * 2048 + byS.toNat * 1024 + ln.toNat * 16)
  | .mand md ma mb => some (0x70000000 + md.toNat * 262144 + ma.toNat * 32768 + mb.toNat * 4096)
  | .mor md ma mb => some (0x70200000 + md.toNat * 262144 + ma.toNat * 32768 + mb.toNat * 4096)
  | .mxor md ma mb => some (0x70400000 + md.toNat * 262144 + ma.toNat * 32768 + mb.toNat * 4096)
  | .mandn md ma mb => some (0x70600000 + md.toNat * 262144 + ma.toNat * 32768 + mb.toNat * 4096)
  | .mnot md ma => some (0x70800000 + md.toNat * 262144 + ma.toNat * 32768)
  | .mmov md ma => some (0x70a00000 + md.toNat * 262144 + ma.toNat * 32768)
  | .mget mn sn => some (0x72000000 + mn.toNat * 262144 + sn.toNat * 4096)
  | .mset mn sn => some (0x72200000 + mn.toNat * 262144 + sn.toNat * 4096)
  | .mpop mn sn => some (0x72400000 + mn.toNat * 262144 + sn.toNat * 4096)
  | .mffs mn sn => some (0x72600000 + mn.toNat * 262144 + sn.toNat * 4096)
  | .sadd sd sa sb wd => some (0x80000000 + sd.toNat * 524288 + sa.toNat * 8192 + sb.toNat * 128 + wd.toNat)
  | .ssub sd sa sb wd => some (0x80000002 + sd.toNat * 524288 + sa.toNat * 8192 + sb.toNat * 128 + wd.toNat)
  | .smul sd sa sb wd => some (0x80000004 + sd.toNat * 524288 + sa.toNat * 8192 + sb.toNat * 128 + wd.toNat)
  | .smulh sd sa sb wd => some (0x80000006 + sd.toNat * 524288 + sa.toNat * 8192 + sb.toNat * 128 + wd.toNat)
  | .smulhu sd sa sb wd => some (0x80000008 + sd.toNat * 524288 + sa.toNat * 8192 + sb.toNat * 128 + wd.toNat)
  | .sand sd sa sb wd => some (0x8000000a + sd.toNat * 524288 + sa.toNat * 8192 + sb.toNat * 128 + wd.toNat)
  | .sor sd sa sb wd => some (0x8000000c + sd.toNat * 524288 + sa.toNat * 8192 + sb.toNat * 128 + wd.toNat)
  | .sxor sd sa sb wd => some (0x8000000e + sd.toNat * 524288 + sa.toNat * 8192 + sb.toNat * 128 + wd.toNat)
  | .sandn sd sa sb wd => some (0x80000010 + sd.toNat * 524288 + sa.toNat * 8192 + sb.toNat * 128 + wd.toNat)
  | .sshl sd sa sb wd => some (0x80000012 + sd.toNat * 524288 + sa.toNat * 8192 + sb.toNat * 128 + wd.toNat)
  | .sshr sd sa sb wd => some (0x80000014 + sd.toNat * 524288 + sa.toNat * 8192 + sb.toNat * 128 + wd.toNat)
  | .ssra sd sa sb wd => some (0x80000016 + sd.toNat * 524288 + sa.toNat * 8192 + sb.toNat * 128 + wd.toNat)
  | .smin sd sa sb wd => some (0x80000018 + sd.toNat * 524288 + sa.toNat * 8192 + sb.toNat * 128 + wd.toNat)
  | .smax sd sa sb wd => some (0x8000001a + sd.toNat * 524288 + sa.toNat * 8192 + sb.toNat * 128 + wd.toNat)
  | .sminu sd sa sb wd => some (0x8000001c + sd.toNat * 524288 + sa.toNat * 8192 + sb.toNat * 128 + wd.toNat)
  | .smaxu sd sa sb wd => some (0x8000001e + sd.toNat * 524288 + sa.toNat * 8192 + sb.toNat * 128 + wd.toNat)
  | .spopc sd sa wd => some (0x80000020 + sd.toNat * 524288 + sa.toNat * 8192 + wd.toNat)
  | .sclz sd sa wd => some (0x80000022 + sd.toNat * 524288 + sa.toNat * 8192 + wd.toNat)
  | .smov sd sa wd => some (0x80000024 + sd.toNat * 524288 + sa.toNat * 8192 + wd.toNat)
  | .sbfx sd sa sb wd => some (0x80000026 + sd.toNat * 524288 + sa.toNat * 8192 + sb.toNat * 128 + wd.toNat)
  | .saddi sd sa imm => some (0x82000000 + sd.toNat * 524288 + sa.toNat * 8192 + imm.toNat)
  | .sandi sd sa imm => some (0x84000000 + sd.toNat * 524288 + sa.toNat * 8192 + imm.toNat)
  | .sori sd sa imm => some (0x86000000 + sd.toNat * 524288 + sa.toNat * 8192 + imm.toNat)
  | .sxori sd sa imm => some (0x88000000 + sd.toNat * 524288 + sa.toNat * 8192 + imm.toNat)
  | .sshli sd sa num => some (0x8a000000 + sd.toNat * 524288 + sa.toNat * 8192 + num.toNat)
  | .sshri sd sa arith num => some (0x8c000000 + sd.toNat * 524288 + sa.toNat * 8192 + arith.toNat * 64 + num.toNat)
  | .sli sd imm => some (0x8e000000 + sd.toNat * 524288 + imm.toNat)
  | .slui sd imm => some (0x90000000 + sd.toNat * 524288 + imm.toNat)
  | .scmp sa sb => some (0x92000000 + sa.toNat * 8192 + sb.toNat * 128)
  | .scmpi sa imm => some (0x92000001 + sa.toNat * 8192 + imm.toNat * 2)
  | .ssel sd sa sb cnd => some (0x94000000 + sd.toNat * 524288 + sa.toNat * 8192 + sb.toNat * 128 + cnd.toNat * 2)
  | .sget sd num => some (0x96000000 + sd.toNat * 524288 + num.toNat * 2)
  | .sset sa num => some (0x96000001 + sa.toNat * 8192 + num.toNat * 2)
  | .sdiv sd sa sb la wd => some (0x98000000 + sd.toNat * 524288 + sa.toNat * 8192 + sb.toNat * 128 + la.toNat * 2 + wd.toNat)
  | .sdivu sd sa sb la wd => some (0x98000020 + sd.toNat * 524288 + sa.toNat * 8192 + sb.toNat * 128 + la.toNat * 2 + wd.toNat)
  | .srem sd sa sb la wd => some (0x98000040 + sd.toNat * 524288 + sa.toNat * 8192 + sb.toNat * 128 + la.toNat * 2 + wd.toNat)
  | .sremu sd sa sb la wd => some (0x98000060 + sd.toNat * 524288 + sa.toNat * 8192 + sb.toNat * 128 + la.toNat * 2 + wd.toNat)
  | .br cnd off => some (0xa0000000 + cnd.toNat * 1048576 + off.toNat)
  | .brm test m off => some (0xa2000000 + test.toNat * 8388608 + m.toNat * 1048576 + off.toNat)
  | .call off => some (0xa4000000 + off.toNat)
  | .bri ss => some (0xa4100000 + ss.toNat)
  | .calli ss => some (0xa4200000 + ss.toNat)
  | .ret => some 0xa4300000
  | .mark off => some (0xa6000000 + off.toNat)
  | .join => some 0xa6100000
  | .split m off => some (0xa8000000 + m.toNat * 1048576 + off.toNat)
  | .regang => some 0xa8800000
  | .ihead off => some (0xaa000000 + off.toNat)
  | .idone m => some (0xaa800000 + m.toNat * 1048576)
  | .barsync bar => some (0xac000000 + bar.toNat)
  | .bararr bar => some (0xac100000 + bar.toNat)
  | .barwait bar => some (0xac200000 + bar.toNat)
  | .yield => some 0xac300000
  | .waitSb slots => some (0xac400000 + slots.toNat)
  | .waitDet => some 0xac420000
  | .waitOpc num => some (0xac440000 + num.toNat)
  | .waitMat num => some (0xac460000 + num.toNat)
  | .waitBatch num => some (0xac480000 + num.toNat)
  | .exit => some 0xac500000
  | .setfmt imm => some (0xac600000 + imm.toNat)
  | .setfmtScalar ss => some (0xac680000 + ss.toNat)
  | .nop => some 0xac700000
  | .launch sd sa => some (0xae000000 + sd.toNat * 524288 + sa.toNat * 8192)
  | .lwait sd sa => some (0xae000002 + sd.toNat * 524288 + sa.toNat * 8192)
  | .trap code => some (0xb0000000 + code.toNat)
  | .brk code => some (0xb0080000 + code.toNat)
  | .tret form => some (0xb0100000 + form.toNat)
  | .eret retry => some (0xb0180000 + retry.toNat)
  | .ewin win num kind => some (0xb0200000 + win.toNat * 131072 + num.toNat * 1024 + kind.toNat * 256)
  | .fbar => some 0xb0280000
  | .vld vd va sz sp la m => some (0xb4000000 + vd.toNat * 262144 + va.toNat * 2048 + sz.toNat * 256 + sp.toNat * 64 + la.toNat * 4 + m.toNat)
  | .vldPr vd va sz la m => some (0xb40000c0 + vd.toNat * 262144 + va.toNat * 2048 + sz.toNat * 256 + la.toNat * 4 + m.toNat)
  | .vst vs va sz sp la m => some (0xb6000000 + vs.toNat * 262144 + va.toNat * 2048 + sz.toNat * 256 + sp.toNat * 64 + la.toNat * 4 + m.toNat)
  | .vlda vd va sz scope la m => some (0xb8000000 + vd.toNat * 262144 + va.toNat * 2048 + sz.toNat * 256 + scope.toNat * 64 + la.toNat * 4 + m.toNat)
  | .vstl vs va sz scope la m => some (0xba000000 + vs.toNat * 262144 + va.toNat * 2048 + sz.toNat * 256 + scope.toNat * 64 + la.toNat * 4 + m.toNat)
  | .sld sd sa off dw => some (0xbc000000 + sd.toNat * 524288 + sa.toNat * 8192 + off.toNat * 2 + dw.toNat)
  | .sst sd sa off dw => some (0xbe000000 + sd.toNat * 524288 + sa.toNat * 8192 + off.toNat * 2 + dw.toNat)
  | .pref sa l2only => some (0xc0000000 + sa.toNat * 8192 + l2only.toNat)
  | .clock sd sa => some (0xc0000002 + sd.toNat * 524288 + sa.toNat * 8192)
  | .cunlk sa => some (0xc0000004 + sa.toNat * 8192)
  | .cinv sa => some (0xc0000006 + sa.toNat * 8192)
  | .cwb sa => some (0xc0000008 + sa.toNat * 8192)
  | .vatom vd va vb op => some (0xc2000000 + vd.toNat * 262144 + va.toNat * 2048 + vb.toNat * 16 + op.toNat)
  | .vatomAr vd va vb op => some (0xc4000000 + vd.toNat * 262144 + va.toNat * 2048 + vb.toNat * 16 + op.toNat)
  | .vatomW vd va vb op => some (0xc6000000 + vd.toNat * 262144 + va.toNat * 2048 + vb.toNat * 16 + op.toNat)
  | .satom sd sa sb op ord dw => some (0xc8000000 + sd.toNat * 524288 + sa.toNat * 8192 + sb.toNat * 128 + op.toNat * 8 + ord.toNat * 2 + dw.toNat)
  | .fence scope => some (0xca000000 + scope.toNat * 4)
  | .fenceAcq scope => some (0xca000010 + scope.toNat * 4)
  | .fenceRel scope => some (0xca000020 + scope.toNat * 4)
  | .fenceLt => some 0xca000030
  | .fenceHv scope => some (0xca000040 + scope.toNat * 4)
  | .mofence => some 0xca000050
  | .mma vc sA sB zero la => some (0xcc000000 + vc.toNat * 262144 + sA.toNat * 2048 + sB.toNat * 64 + zero.toNat * 16 + la.toNat)
  | .mmaR vc va sB zero la => some (0xcc000020 + vc.toNat * 262144 + va.toNat * 2048 + sB.toNat * 64 + zero.toNat * 16 + la.toNat)
  | .mms vc sA sB zero la => some (0xce000000 + vc.toNat * 262144 + sA.toNat * 2048 + sB.toNat * 64 + zero.toNat * 16 + la.toNat)
  | .mmsR vc va sB zero la => some (0xce000020 + vc.toNat * 262144 + va.toNat * 2048 + sB.toNat * 64 + zero.toNat * 16 + la.toNat)
  | .wbload sa sb la => some (0xd0000000 + sa.toNat * 8192 + sb.toNat * 256 + la.toNat)
  | .spload sa sb la => some (0xd0000010 + sa.toNat * 8192 + sb.toNat * 256 + la.toNat)
  | .cbload sa sb la => some (0xd0000020 + sa.toNat * 8192 + sb.toNat * 256 + la.toNat)
  | .zpload sa sb la => some (0xd0000030 + sa.toNat * 8192 + sb.toNat * 256 + la.toNat)
  | .mzero la => some (0xd0000040 + la.toNat)
  | .cpy sD sS sN z mc ver step seq nt zf => some (0xd2000000 + sD.toNat * 1048576 + sS.toNat * 32768 + sN.toNat * 1024 + z.toNat * 128 + mc.toNat * 64 + ver.toNat * 32 + step.toNat * 16 + seq.toNat * 8 + nt.toNat * 4 + zf.toNat * 2)
  | .cseal => some 0xd4000000
  | .cyield num off => some (0xd4100000 + num.toNat * 65536 + off.toNat)
  | .sqinit ss => some (0xd4200000 + ss.toNat)
  | .sqwait ss sn => some (0xd4300000 + ss.toNat * 64 + sn.toNat)
  | .sqrel ss sn => some (0xd4400000 + ss.toNat * 64 + sn.toNat)
  | .pdone => some 0xd6000000
  | .pwait sa => some (0xd6000002 + sa.toNat * 8192)
  | .pfin sd sa => some (0xd6000004 + sd.toNat * 524288 + sa.toNat * 8192)
  | .ldp vd va ss la m => some (0xd8000000 + vd.toNat * 262144 + va.toNat * 2048 + ss.toNat * 64 + la.toNat * 4 + m.toNat)
  | .fretype sd sa sb => some (0xda000000 + sd.toNat * 524288 + sa.toNat * 8192 + sb.toNat * 128)
  | .finfo sd sa => some (0xda000002 + sd.toNat * 524288 + sa.toNat * 8192)
  | .fharvest sd sa sb => some (0xda000004 + sd.toNat * 524288 + sa.toNat * 8192 + sb.toNat * 128)
  | .fresume sd sa => some (0xda000006 + sd.toNat * 524288 + sa.toNat * 8192)
  | _ => none

/-- The word of an instruction (R28, R29); none for a step that no word encodes. -/
def encode (i : Instr) : Option W32 := (encodeNat i).map (BitVec.ofNat 32)

/-- The four bytes of a word as the hardware stores them: little-endian (R2). -/
def wordBytes (w : W32) : List Byte :=
  [BitVec.ofNat 8 w.toNat, BitVec.ofNat 8 (w.toNat / 2 ^ 8), BitVec.ofNat 8 (w.toNat / 2 ^ 16), BitVec.ofNat 8 (w.toNat / 2 ^ 24)]

/-- The instruction that the decoder reads from the instruction whose bits are `w` (every instruction is one 32-bit word, R16). -/
def decodeTableWord (nbits w : Nat) : Option Instr :=
  match decode (wordBytes (BitVec.ofNat 32 (w % 2 ^ nbits))) with
  | .ok (i, _) => some i
  | .error _ => none

end Sys2Proof
end

