-- ==== Sys2Proof/Machine/State.lean ====
section
/-! DEFINITION. Machine/State.lean: everything the manual gives the machine to hold, as plain data, and the machine after reset.
Sparse arrays are lists of (key, value) pairs in one canonical form: keys strictly rising, no value equal to the default.
References (a launch, team, group, copy) are numbers that are never used twice. -/

namespace Sys2Proof.Machine

/-- A sparse array: (key, value) pairs, keys strictly rising, none holding the default value of its use. -/
abbrev Tbl (α : Type) := List (Nat × α)

/-- Bytes by address; an unlisted address reads 0 (DESIGN CHOICE, assumption 8). -/
abbrev Memory := List Host.Cell

/-! ## Instructions in flight -/

/-- Where one lane's (or the group's) access lands once the range map has placed it (R295, R163). -/
inductive Target where
  /-- A physical offset of the team's scratchpad (R163). -/
  | spad (off : Nat)
  /-- A VA in an ordinary segment and its TIA (R295). -/
  | glob (va tia : Nat)
  /-- An offset in the tenant's aperture (R266). -/
  | aperture (va off : Nat)
  /-- A TIA carried to another package (R389). -/
  | fabric (va pkg tia : Nat)
  /-- A TIA of a host allotment (R312). -/
  | host (va tia : Nat)
  /-- The matrix state of the partition (R149): array and byte offset. -/
  | matrix (arr off : Nat)
  deriving DecidableEq, Repr

/-- One lane's access of an instruction in flight: its size in bytes, the words it stores or operates with, the segment that it lies in
(R172), the first register of the destination that it fills, and whether it is the lane's last one: a .B128 access to an uncacheable
segment is two halves (R180). -/
structure LaneAcc where
  lane : Nat
  target : Target
  size : Nat
  data : List W32
  seg : Nat
  reg : Nat
  last : Bool
  deriving DecidableEq, Repr

/-- A trap as it will be reported (R343, R344). -/
structure TrapRec where
  cause : Nat
  pc : W64
  addr : W64
  detail : W64
  /-- The quad-set that issued the reported instruction (R347). -/
  tag : Nat
  /-- Nothing of the instruction took effect (R343 "at issue"), so `.next` goes on at pc + 4. -/
  atIssue : Bool
  deriving DecidableEq, Repr

/-- A SHADOW trap that waits (R379), and the flight that it waits for; none while the quad-set has yet to issue its instruction. -/
structure ShadowTrap where
  trap : TrapRec
  src : Option Nat
  deriving DecidableEq, Repr

/-- A translation failure in a demand range (R307, R309): first failing byte, its TIA, the walk's reason and level. -/
structure Demand where
  va : Nat
  tia : Nat
  reason : Nat
  level : Nat
  write : Bool
  deriving DecidableEq, Repr

/-- Which register file a destination in flight lies in (R23). -/
inductive RegFile where
  | lane | scalar | mask
  deriving DecidableEq, Repr

/-- Registers that an instruction in flight will write (R23); `hit` marks lanes (bit 0 for a scalar) that another write has reached. -/
structure Busy where
  fid : Nat
  file : RegFile
  first : Nat
  count : Nat
  lanes : W64
  hit : W64
  deriving DecidableEq, Repr

/-- A long-latency instruction that has issued and not completed (R22). -/
structure Flight where
  fid : Nat
  instr : Instr
  pc : W64
  tag : Nat
  quads : W16
  /-- EXEC at issue (R8, R181). -/
  exec : W64
  /-- FMT at issue (R43). -/
  fmt : W64
  /-- Lookahead L; 15 is detached (R22). -/
  look : Nat
  /-- Instructions of the group issued since (R22). -/
  after : Nat
  /-- Scoreboard slot 1 to 7 (R20), 0 for none. -/
  slot : Nat
  accs : List LaneAcc
  /-- Lanes completed; bit 0 for an instruction without lanes (R345). -/
  done : W64
  /-- Scalar operands, read at issue. -/
  opnds : List W64
  /-- Lane registers as at issue: the accumulators and A rows of a matrix operation (R236), division operands. -/
  snap : Tbl W32
  /-- Destination: its file, the first register and how many (R147: a handler window may stand for a mask). -/
  file : RegFile
  dst : Nat
  ndst : Nat
  /-- Matrix operations: operands consumed (R231). -/
  consumed : Bool
  /-- Rows of A whose registers were written before the operands were consumed (R232). -/
  spoiled : W64
  /-- Lanes that have failed and are missing from its completion mask (R179). -/
  failed : W64
  /-- Why it failed, when it has, and the lowest lane that did so: the entry of the replay list is reported with this (R179, R345). -/
  trap : Option TrapRec
  trapLane : Nat
  /-- The demand failure that decides its park, when no lane traps, and its lane (R307, R345). -/
  demand : Option Demand
  demandLane : Nat
  /-- WAITLIM in clocks when it issued, and the clocks that it has waited on another party (R286, R350). -/
  limit : Nat
  waited : Nat
  /-- It is an entry of a replay list that is performed again, after those before it (R345); and what of its destination another write had
  reached before it failed (R23). -/
  again : Bool
  hits : List Busy
  deriving DecidableEq, Repr

/-! ## Groups -/

/-- What a held quad-set waits for; the effects before the wait have been made (R349). -/
inductive HoldKind where
  /-- A JOIN or a REGANG at the quad-set's address (R101, R127). -/
  | join
  | regang
  /-- BARSYNC or BARWAIT: the generation that must change (R110). -/
  | barrier (bar gen : Nat)
  /-- A second arrival of these quads within one generation (R110). -/
  | rearrive (bar gen : Nat) (again : W16)
  /-- Waits until nothing that the group issued before the mark is in flight (R132, R140, R152, R191). -/
  | drain (mark : Nat)
  /-- A condition of the instruction itself, looked at again when it issues again. -/
  | cond
  /-- A parked CYIELD: target and n (R259). -/
  | cyield (target : W64) (n : Nat)
  /-- LWAIT on a handle (R135). -/
  | lwait (handle : Nat)
  /-- SQWAIT: stage and sequence (R263). -/
  | seq (stage n : Nat)
  /-- SQREL waiting for its fill (R263). -/
  | seqRel (stage n : Nat)
  /-- The armed table is full for this copy (R264). -/
  | armed (job : Nat)
  /-- The copy unit's queue is full for this copy (R249). -/
  | copyq (job : Nat)
  /-- UNF must fall to this (R257). -/
  | seal
  /-- PDONE for a step at which the quads have arrived (R283). -/
  | pdone (step : Nat)
  /-- PWAIT (R283). -/
  | pwait (v : Nat)
  deriving DecidableEq, Repr

/-- A held quad-set: what for, whether WAITLIM bounds the wait, the limit it started with, the clocks counted (R15, R122, R350), and the
scalar operands that its instruction read as it issued, by number (R115). -/
structure Hold where
  kind : HoldKind
  bounded : Bool
  limit : Nat
  count : Nat
  opnds : List (Nat × W64)
  deriving DecidableEq, Repr

/-- A clause as fetched whole (R16): its header's address and its words, the header first. -/
structure Clause where
  hdr : W64
  words : List W32
  deriving DecidableEq, Repr

/-- A quad-set (R96): its set tag, quads, program counter, FMT, clause, and what holds it. -/
structure QSet where
  tag : Nat
  quads : W16
  pc : W64
  fmt : W64
  clause : Option Clause
  hold : Option Hold
  deriving DecidableEq, Repr

/-- A reconvergence entry (R100). -/
structure RecEntry where
  rejoin : W64
  quads : W16
  fmt : W64
  arrived : W16
  deriving DecidableEq, Repr

/-- A return-stack entry (R104). -/
structure RetEntry where
  addr : W64
  quads : W16
  deriving DecidableEq, Repr

/-- Entry state of the emulation handler (R142 to R144). -/
structure EmuEntry where
  ecause : W64
  eword : W64
  epc : W64
  emask : W64
  w0 : W64
  w1 : W64
  w2 : W64
  w3 : W64
  deriving DecidableEq, Repr

/-- The pc and FMT that a handler entry saves (R140, R347). -/
structure SavedPc where
  pc : W64
  fmt : W64
  clause : Option Clause
  deriving DecidableEq, Repr

/-- Emulation state of a group (R140, R151): level, entering quad-set, visible entry registers, level-1 save bank, saved pcs. -/
structure Emu where
  level : Nat
  tag : Nat
  cur : EmuEntry
  bank : EmuEntry
  save1 : SavedPc
  save2 : SavedPc
  deriving DecidableEq, Repr

/-- What trap mode keeps (R347). -/
structure TrapSave where
  tag : Nat
  saved : SavedPc
  hold : Option Hold
  atIssue : Bool
  /-- The replay list as saved, in program order, and which entry was reported, by its flight. -/
  replay : List Flight
  reported : Option Nat
  deriving DecidableEq, Repr

/-- Trap registers, trap mode and replay list of a group (R344 to R348). -/
structure TrapSt where
  tcause : W64
  tpc : W64
  taddr : W64
  tdetail : W64
  mode : Option TrapSave
  /-- A trap at issue that waits for the group to drain. -/
  pend : Option TrapRec
  /-- SHADOW traps that wait for it (R379), the earliest first. -/
  shadows : List ShadowTrap
  /-- The replay list, in program order (R345). -/
  replay : List Flight
  /-- Parked on a fault record (R346). -/
  parked : Bool
  deriving DecidableEq, Repr

/-- A sealed batch that is not finished (R256). -/
structure Batch where
  num : Nat
  jobs : List Nat
  deriving DecidableEq, Repr

/-- Copy state of a group (R256). -/
structure BatchSt where
  openJobs : List Nat
  openHas : Bool
  openFail : Bool
  next : BitVec 4
  sealed : List Batch
  reason : BitVec 4
  armf : Bool
  fail : W16
  deriving DecidableEq, Repr

/-- Whether a group runs (R337). -/
inductive GRun where
  | run | halted | saved | retired
  deriving DecidableEq, Repr

/-- Register files of a group (R25). Lane registers lie under 64·number + lane, h0 to h3 being numbers 128 to 131 (R146). Scalars:
0 to 63 are s0 to s63, 64 to 71 and 72 to 79 the shadow banks t0 to t7 of handler levels 1 and 2 (R146), 80 to 87 the trap bank (R348). -/
structure Regs where
  lanes : Tbl W32
  scal : Tbl W64
  masks : Tbl W64
  items : Tbl W32
  live : W64
  dead : W64
  cc : BitVec 4
  fpstat : BitVec 5
  waitlim : W32
  opc : W64
  deriving DecidableEq, Repr

/-- A group context (R6, R354). -/
structure Group where
  ref : Nat
  team : Nat
  /-- Index in the team; group 0 is the leader (R6). -/
  gix : Nat
  /-- %gid, the index within the launch (R27). -/
  gid : Nat
  part : Nat
  width : Nat
  nregs : Nat
  emurow : Bool
  regs : Regs
  qsets : List QSet
  nextTag : Nat
  rstack : List RecEntry
  retstack : List RetEntry
  flights : List Flight
  busy : List Busy
  trap : TrapSt
  emu : Emu
  batch : BatchSt
  run : GRun
  preq : Bool
  pleft : Nat
  /-- Clocks ready without issuing (R114), and the quad that issued last (R113). -/
  ready : Nat
  lastQuad : Nat
  /-- Stores of flights below this id stand before the group's last FENCE.LT (R193). -/
  ltMark : Nat
  deriving DecidableEq, Repr

/-! ## Teams -/

/-- A team barrier (R108). -/
structure Barrier where
  count : Nat
  gen : Nat
  arrived : W32
  quads : Tbl W16
  /-- Last-arrival generation by group. -/
  last : Tbl W16
  /-- By group, what had issued when its quads last arrived: earlier stores and atomics complete before it counts (R111, R210). -/
  marks : Tbl Nat
  deriving DecidableEq, Repr

/-- State of a stage slot (R261). -/
inductive SlotState where
  | free | filling | filled | failed
  deriving DecidableEq, Repr

/-- A stage slot (R261). -/
structure Slot where
  state : SlotState
  seq : Nat
  reason : Nat
  /-- Released before L reached it (R263). -/
  released : Bool
  deriving DecidableEq, Repr

/-- A sequence stage (R260). -/
structure Stage where
  depth : Nat
  slotBytes : Nat
  base : Nat
  low : Nat
  slots : List Slot
  /-- Fills held ahead of the window, oldest first, with their sequence (R262). -/
  held : List (FillSrc × Nat)
  deriving DecidableEq, Repr

/-- The pacer of a paced team (R274). -/
structure Pacer where
  index : Nat
  window : Nat
  up : List Nat
  down : List Nat
  sbslot : Nat
  sbbase : Nat
  step : W32
  fin : W32
  /-- Copies of FIN by pace index, held as the number of steps finished so that 0 is "none" (R277). -/
  copies : Tbl Nat
  /-- Arrival mask, one bit per group (R274). -/
  arrived : W32
  /-- Quads arrived at STEP, by group. -/
  quads : Tbl W16
  /-- Done-step record by group (R274): how many steps the group has finished. -/
  doneSteps : Tbl Nat
  /-- Step-buffer bytes, by scratchpad offset, that were written while STEP was not their slot's step (R280). -/
  loose : Tbl Nat
  deriving DecidableEq, Repr

/-- A table set of a partition (R226, R227, R228). -/
structure TableSet where
  weights : Memory
  side : Memory
  code : Memory
  zero : Memory
  deriving DecidableEq, Repr

/-- Team states (R337). -/
inductive TeamState where
  | running | halted | saved | ending | ended
  deriving DecidableEq, Repr

/-- What a team ended with, as its completion record carries it: a trap's cause (R150, R343), or the cause of a word that is not an
instruction (R140, R142). -/
inductive EndCause where
  | none
  | trap (c : Nat)
  | word (c : Nat)
  deriving DecidableEq, Repr

/-- What of a halted team is spilled (R353). -/
structure Spilled where
  groups : List Nat
  blocks : List Nat
  tables : List Nat
  deriving DecidableEq, Repr

/-- A team (R6, R337, R354). -/
structure Team where
  ref : Nat
  launch : Nat
  idx : Nat
  core : Nat
  state : TeamState
  spadBytes : Nat
  /-- The 4 KiB-aligned place of the allocation in the core's array (R163). -/
  spadBase : Nat
  spad : Memory
  tags : Tbl (BitVec 3)
  bars : Tbl Barrier
  stages : Tbl Stage
  pacer : Option Pacer
  tables : Tbl TableSet
  status : Nat
  cause : EndCause
  dead : Nat
  spilled : Spilled
  /-- The scheduler has asked the team to halt (R352). -/
  asked : Bool
  /-- Once the last group of a paced team has exited: its WAITLIM in clocks, and the clocks waited (R290). -/
  endLimit : Nat
  endWait : Nat
  /-- Words of its saved scratchpad and tables that were not readable when they were saved, by unit (2, 9) and, for the scratchpad, offset
  (R373, R374). -/
  lost : List (Nat × Nat)
  deriving DecidableEq, Repr

/-! ## Launches -/

/-- A kernel header as copied when the launch was taken in (R38). -/
structure Kernel where
  isa : Nat
  compat16 : Bool
  emurow : Bool
  paced : Bool
  nregs : Nat
  spadBytes : Nat
  width : Nat
  groups : Nat
  yieldBound : Nat
  leaseOff : Nat
  first : Nat
  deriving DecidableEq, Repr

/-- A lease entry (R303). -/
structure Lease where
  demand : Bool
  rw : Bool
  base : Nat
  len : Nat
  deriving DecidableEq, Repr

/-- A pace table entry (R272). -/
structure PaceEntry where
  sbslot : Nat
  sbbase : Nat
  window : Nat
  up : List Nat
  down : List Nat
  deriving DecidableEq, Repr

/-- Launch states (R336); `posted` is a device-side launch that waits to be taken in (R334). -/
inductive LaunchState where
  | posted | queued | placing | running | draining | complete
  deriving DecidableEq, Repr

/-- A launch (R6, R331, R336). -/
structure Launch where
  ref : Nat
  handle : Nat
  tid : Nat
  cid : Nat
  depth : Nat
  parent : Option Nat
  die : Nat
  state : LaunchState
  /-- The record's eight words, copied (R331). -/
  record : List W64
  ranges : List (Nat × Nat)
  kernel : Kernel
  leases : List Lease
  pace : List PaceEntry
  /-- %feat as in force when the first team was placed (R143). -/
  feat : W64
  depOk : Bool
  leaseOk : Bool
  /-- A residency record is outstanding (R305). -/
  waiting : Bool
  nextTeam : Nat
  ended : Nat
  status : Nat
  dead : Nat
  pins : List Nat
  /-- Items handed out (R341). -/
  cursor : Nat
  /-- Groups numbered so far, for %gid. -/
  groups : Nat
  deriving DecidableEq, Repr

/-! ## Cores, caches and memory -/

/-- An L1 line (R165). -/
structure L1Line where
  gline : Nat
  valid : BitVec 32
  dirty : BitVec 128
  wp : Bool
  nt : Bool
  lock : BitVec 4
  /-- The machine frame that its bytes belong to, as L2 stamped the line (R301, R310, R376). -/
  stamp : Nat
  data : BitVec 1024
  deriving DecidableEq, Repr

/-- An L2 line (R170), with the frame stamp of R301 and the withheld marks of R373. -/
structure L2Line where
  gline : Nat
  data : BitVec 1024
  dirty : BitVec 128
  wp : Bool
  /-- Marked for replacement first (R173). -/
  nt : Bool
  stamp : Nat
  withheld : BitVec 4
  deriving DecidableEq, Repr

/-- An L1 instruction cache line (R176), with the machine frame it came from (R325). -/
structure ICLine where
  cid : Nat
  vline : Nat
  frame : Nat
  data : BitVec 1024
  deriving DecidableEq, Repr

/-- A line of a die's shared instruction level, tagged by machine address (R160, R176). -/
structure SILine where
  die : Nat
  mline : Nat
  data : BitVec 1024
  deriving DecidableEq, Repr

/-- Debug control of a core (R359): STATE is 0 running, 1 halting, 2 suspended. -/
structure Debug where
  halt : Bool
  brkhalt : Bool
  state : Nat
  deriving DecidableEq, Repr

/-- A core (R4, R12). Lines are held most recently used first. -/
structure Core where
  clk : W64
  /-- By 2·partition + port (0 the lane port, 1 the other), the gangs that the port carries: in the present clock, then in those that
  follow. A gang is a list of groups, each with its quads there (R7, R97, R113). -/
  ports : Tbl (List (List (Nat × W16)))
  /-- By partition, the groups that have issued in the present clock: each port's instruction comes from another group (R113). -/
  issued : Tbl (List Nat)
  l1 : List L1Line
  ic : List ICLine
  /-- Owner of each partition's table set, as team reference + 1 (R228). -/
  owner : Tbl Nat
  dbg : Debug
  reported : Bool
  hot : Bool
  temp : Nat
  droop : Nat
  /-- Droop events counted since the last report (R399). -/
  droops : Nat
  deriving DecidableEq, Repr

/-- A frame-TLB entry (R301); `home` is the line whose home slice holds it (R299). -/
structure TlbEntry where
  home : Nat
  tid : Nat
  page : Nat
  frame : Nat
  kind : Nat
  w : Bool
  nc : Bool
  host : Bool
  deriving DecidableEq, Repr

/-- An allotment entry that a slice's frame-TLB keeps for the walk's own use (R301). -/
structure AllotEntry where
  home : Nat
  tid : Nat
  tan : Nat
  word : W32
  deriving DecidableEq, Repr

/-- A frame descriptor (R313). -/
structure Frame where
  ftype : Nat
  owner : Nat
  use : Nat
  pin : Nat
  dirty : Bool
  damaged : Bool
  retyping : Bool
  gen : W16
  otfn : Nat
  deriving DecidableEq, Repr

/-- An admitted entry whose shootdown is not done (R319). -/
structure Admission where
  adm : Nat
  tid : Nat
  frame : Nat
  index : Nat
  old : W64
  new : W64
  /-- Cached pages that the old entry governed when the new one was written. -/
  pages : List Nat
  /-- The page whose translation the admitted store used; none for the ADMIT command. -/
  via : Option Nat
  /-- The storing group and flight, none for the ADMIT command; the lane whose store it is. -/
  src : Option (Nat × Nat)
  lane : Nat
  /-- The frame that the old entry named, whose count falls with the acknowledgement (R319). -/
  gone : Option Nat
  deriving DecidableEq, Repr

/-! ## Copies and block transfers -/

/-- One side of a copy (R246). -/
inductive Side where
  | glob (va : Nat)
  | own (off : Nat)
  | remote (team off : Nat)
  deriving DecidableEq, Repr

/-- Where a copy stands. -/
inductive Phase where
  /-- Not taken yet: the queue or the armed table is full (R249, R264). -/
  | offered
  /-- Held for its step in the armed table (R264). -/
  | armed
  /-- To be presented to its stage (R262). -/
  | present
  /-- Held ahead of its stage's window (R262). -/
  | held
  /-- Moving its chunks (R250). -/
  | moving
  /-- Its remaining chunks wait on a fault record (R265). -/
  | waiting (token : Nat)
  /-- Every chunk written, or failed with a reason (R252); completion to come. -/
  | ended (reason : Nat)
  deriving DecidableEq, Repr

/-- A copy in a copy unit (R249, R264). -/
structure Copy where
  job : Nat
  tid : Nat
  cid : Nat
  launch : Nat
  team : Nat
  grp : Nat
  core : Nat
  z : Nat
  ver : Bool
  step : Bool
  seq : Bool
  mc : W16
  multi : Bool
  nt : Bool
  zf : Bool
  src : Side
  dst : Side
  rows : Nat
  drow : Nat
  srow : Nat
  sstride : Nat
  dstride : Nat
  ext : W64
  phase : Phase
  /-- Slot of its stage once accepted (R262). -/
  slot : Option Nat
  /-- Chunks still to write, as (row, first byte, bytes). -/
  chunks : List (Nat × Nat × Nat)
  /-- WAITLIM of the issuing group in clocks, and the clocks that a held fill has waited (R252 WINDOW, R262). -/
  limit : Nat
  waited : Nat
  /-- Live words of the context's range map when the CPY issued (R122). -/
  segs : Tbl W64
  /-- First failure, 0 for none (R252). -/
  reason : Nat
  /-- The 64-byte lines of a global source that have been read, each whole and once, by address (R250). -/
  lines : List (Nat × List Byte)
  deriving DecidableEq, Repr

/-- A block-transfer channel's binding (R267). -/
structure Binding where
  word0 : W64
  word1 : W64
  word2 : W64
  deriving DecidableEq, Repr

/-- A chain of templates that a channel runs (R268, R269): parameter offset, the template and how many were begun, and once the template is
read its pattern, source, destination, next template and the lines that are left. -/
structure Chain where
  poff : Nat
  idx : Nat
  begun : Nat
  loaded : Bool
  pattern : Option W64
  src : Nat
  dst : Nat
  next : Nat
  lines : List (Nat × Nat)
  deriving DecidableEq, Repr

/-- A block-transfer channel (R266). -/
structure Channel where
  issued : W64
  finished : W64
  queue : List W64
  busy : Bool
  chain : Option Chain
  /-- Reason and template index of the chain that has run and not completed (R269). -/
  result : Option (Nat × Nat)
  /-- The binding as it stood when the channel took its present doorbell (R384). -/
  bind : Binding
  deriving DecidableEq, Repr

/-! ## Tenants -/

/-- A context (R387): live and staged range map words by 4·segment + word, and its registers. -/
structure Ctx where
  segs : Tbl W64
  stage : Tbl W64
  err : Bool
  rt : Bool
  waitlim : W32
  lockq : Nat
  eha : W64
  trh : W64
  ems : W64
  deriving DecidableEq, Repr

/-- A host launch ring (R333). -/
structure Ring where
  cid : Nat
  rbase : Nat
  err : Bool
  lsize : Nat
  head : W16
  tail : W16
  deriving DecidableEq, Repr

/-- What a fault record will resume (R309, R330). -/
inductive RecordOf where
  | group (grp : Nat)
  | copy (job : Nat)
  | load (grp : Nat)
  | launch (launch : Nat)
  deriving DecidableEq, Repr

/-- An outstanding fault record (R309). -/
structure FaultRec where
  token : Nat
  seq : Nat
  what : RecordOf
  words : List W64
  /-- Accepted into its slot and written. -/
  written : Bool
  deriving DecidableEq, Repr

/-- What a responder can do (R393): CERT_CAP, CHAL_CAP, MEAS_CAP and whether with signatures, and any session capability. -/
structure SpdmCaps where
  cert : Bool
  chal : Bool
  meas : Bool
  measSigned : Bool
  session : Bool
  deriving DecidableEq, Repr

/-- The hash algorithms and the signature algorithms of the responder (R393). -/
inductive SpdmHash where
  | sha3_256
  deriving DecidableEq, Repr
inductive SpdmSig where
  | mlDsa44
  deriving DecidableEq, Repr

/-- An SPDM answer (R393 to R395): the versions offered; the capabilities; base hash, measurement hash and the signature algorithm agreed on;
the digest of slot 0's certificate chain; that chain; the digest, the nonce and the signature of a challenge; the measurement blocks by index,
the nonce, and the signature where it was asked for; the errors. -/
inductive SpdmAnswer where
  | none
  | version (versions : List (Nat × Nat))
  | capabilities (caps : SpdmCaps)
  | algorithms (base meas : SpdmHash) (sig : Option SpdmSig)
  | digests (d : BitVec 256)
  | certificate (chain : List Byte)
  | challengeAuth (certificate nonce : BitVec 256) (sig : List Byte)
  | measurements (blocks : List (Nat × List Byte)) (nonce : BitVec 256) (sig : Option (List Byte))
  | unsupported
  | unexpected
  | invalid
  deriving DecidableEq, Repr

/-- A responder's mailbox (R393, R395): how far the order of requests has come, the algorithm chosen, the transcript. -/
structure Spdm where
  order : Nat
  mlDsa : Bool
  transcript : List Byte
  answer : SpdmAnswer
  deriving DecidableEq, Repr

/-- A tenancy (R360, R361, R369, R384). -/
structure Tenant where
  live : Bool
  ctxen : BitVec 4
  l2cap : Nat
  feat : W64
  rv : Bool
  rerr : Bool
  root : Nat
  abase : W64
  alen : Nat
  quota : Nat
  held : Nat
  corr : W64
  uncorr : W64
  lanedead : W64
  shretry : W64
  forcedh : W64
  sliceovr : W64
  recallovr : W64
  faultq : W64
  nextRec : Nat
  recs : List FaultRec
  hwbase : W64
  fcarg0 : W64
  fcarg1 : W64
  fcarg2 : W64
  fcop : Nat
  fcerr : Bool
  fcres : W64
  /-- Operands of an ADMIT command that waits for its entry's line (R319). -/
  fcwait : Option (W64 × W64 × W64)
  rings : Tbl Ring
  channels : Nat
  binds : Tbl Binding
  chans : Tbl Channel
  msix : Tbl W64
  ctxs : Tbl Ctx
  hostBase : Nat
  hostCount : Nat
  spdm : Spdm
  deriving DecidableEq, Repr

/-! ## The Lodge, links and power -/

/-- Boot status (R391). -/
inductive Boot where
  | off | ok | failed
  deriving DecidableEq, Repr

/-- The layout journal record (R365). -/
structure Journal where
  seq : W32
  done : Bool
  bank : Tbl (W64 × W64 × W64)
  deriving DecidableEq, Repr

/-- An error log record (R382). -/
structure LogRec where
  cls : Nat
  unit : Nat
  tid : Nat
  cid : Nat
  action : BitVec 4
  count : BitVec 30
  place : Nat
  deadmask : W64
  lost : W32
  clk : W32
  deriving DecidableEq, Repr

/-- A slice of a paddock (R356): its tenancy, its length in ns (R357), and whether it is ending. -/
structure Slice where
  tid : Nat
  len : Nat
  ending : Bool
  deriving DecidableEq, Repr

/-- A link (R377): failures of the flit being sent, retrainings failed in a row. -/
structure Link where
  fails : Nat
  retraining : Bool
  retrains : Nat
  down : Bool
  deriving DecidableEq, Repr

/-- The image a drain leaves in flash (R354, R401): the registered teams with their groups, their copies and their contexts by CID, the
precious bytes by GIA; the image as flash holds it, and the digest of the closing record. -/
structure Flash where
  teams : List Team
  groups : List Group
  copies : List Copy
  ctxs : List (Nat × Ctx)
  bytes : Memory
  raw : List Byte
  digest : BitVec 256
  deriving DecidableEq, Repr

/-- What the part's fuses hold (R391, R392): the SHA3-256 digest of the signing key, and the fuse configuration with the security version. -/
structure Fuses where
  keyDigest : BitVec 256
  config : List Byte
  deriving DecidableEq, Repr

/-- The Lodge (R12): package settings, layout, boot, measurements, log, power. -/
structure Lodge where
  thot : Nat
  hyst : Nat
  dlim : Nat
  pdeadline : Nat
  lidle : Nat
  rdl : Nat
  bank0 : Tbl (W64 × W64 × W64)
  bank1 : Tbl (W64 × W64 × W64)
  active : Bool
  gen : W32
  refused : Bool
  journal : Option Journal
  boot : Boot
  meas : Tbl (BitVec 256)
  /-- The Lodge's own clock count (R382). -/
  clk : W64
  log : List LogRec
  lost : W32
  loans : Tbl Nat
  recalls : List Nat
  /-- Recalled paddocks whose recall has passed RDL and been counted (R368). -/
  late : List Nat
  /-- By paddock, the Lodge clocks since an eligible launch last needed it (R366). -/
  idle : Tbl Nat
  slices : Tbl Slice
  pin : BitVec 4
  sideband : BitVec 4
  stage : Nat
  drain : Bool
  pwrfail : Bool
  /-- SYS frames, as runs of machine frames, and DBASE, where the descriptor array lies in them (R313). -/
  sys : List (Nat × Nat)
  dbase : Nat
  regions : List (Nat × Nat × Nat)
  flash : Option Flash
  /-- At power-up the flash held an image whose digest is right, and the physical function driver has been offered it (R401). -/
  offered : Bool
  fuses : Fuses
  spdm : Spdm
  deriving DecidableEq, Repr

/-- The quad-set that issues next (R113). -/
structure Focus where
  grp : Nat
  tag : Nat
  deriving DecidableEq, Repr

/-- What the device has last answered to the host (R383 to R385): Unsupported Request, the data of a read, Completer Abort. A write that is
carried out has no answer. -/
inductive HostReply where
  | none
  | unsupported
  | data (bytes : List Byte)
  | abort
  deriving DecidableEq, Repr

/-- The machine. `agenda`, `focus`, `sel`, `free`, `next` and `tick` are the model's own (DESIGN CHOICE, assumption 9): the steps already
chosen from outside, the quad-sets chosen to issue, the partition looked at last, the free values used, the next reference, and the steps
made. -/
structure State where
  agenda : List Instr
  focus : List Focus
  sel : Nat
  free : Nat
  next : Nat
  tick : Nat
  launches : List Launch
  teams : List Team
  groups : List Group
  copies : List Copy
  finMsgs : List (Nat × Nat × Nat)
  cores : Tbl Core
  tenants : Tbl Tenant
  frames : Tbl Frame
  dram : Memory
  hostMem : Memory
  l2 : List L2Line
  sil : List SILine
  tlb : List TlbEntry
  atlb : List AllotEntry
  adms : List Admission
  bad : List (Nat × Nat)
  imports : Tbl Nat
  fabricOut : List (Nat × Nat × List Byte)
  irqs : List (Nat × Nat)
  hostReply : HostReply
  links : Tbl Link
  lodge : Lodge
  deriving DecidableEq, Repr

/-! ## Reset values of the parts -/

/-- A core after package reset: no report made yet (R339), %clk 0 (DESIGN CHOICE, assumption 10), caches empty. -/
def Core.reset : Core :=
  ⟨0, [], [], [], [], [], ⟨false, false, 0⟩, false, false, 0, 0, 0⟩

/-- A frame descriptor that no grant has set (R313; DESIGN CHOICE, assumption 69). -/
def Frame.reset : Frame := ⟨0, 0, 0, 0, false, false, false, 0, 0⟩

/-- A context descriptor before its driver writes it: every field 0 (R387). -/
def Ctx.reset : Ctx := ⟨[], [], false, false, 0, 0, 0, 0, 0⟩

/-- A responder before its first request (R395). -/
def Spdm.reset : Spdm := ⟨0, false, [], .none⟩

/-- A launch ring before its driver binds it (R333). -/
def Ring.reset : Ring := ⟨0, 0, false, 0, 0, 0⟩

/-- A channel (R266) and its binding (R267) before use. -/
def Binding.reset : Binding := ⟨0, 0, 0⟩
def Channel.reset : Channel := ⟨0, 0, [], false, none, none, Binding.reset⟩

/-- A tenant without a tenancy: every register of its function 0 (R296, R308, R333, R369, R384 to R387;
DESIGN CHOICE, assumption 70, for those that the Lodge sets). -/
def Tenant.reset : Tenant where
  live := false
  ctxen := 0
  l2cap := 0
  feat := 0
  rv := false
  rerr := false
  root := 0
  abase := 0
  alen := 0
  quota := 0
  held := 0
  corr := 0
  uncorr := 0
  lanedead := 0
  shretry := 0
  forcedh := 0
  sliceovr := 0
  recallovr := 0
  faultq := 0
  nextRec := 0
  recs := []
  hwbase := 0
  fcarg0 := 0
  fcarg1 := 0
  fcarg2 := 0
  fcop := 0
  fcerr := false
  fcres := 0
  fcwait := none
  rings := []
  channels := 0
  binds := []
  chans := []
  msix := []
  ctxs := []
  hostBase := 0
  hostCount := 0
  spdm := Spdm.reset

/-- A link up and idle (R377). -/
def Link.reset : Link := ⟨0, false, 0, false⟩

/-- The Lodge after package reset, before any firmware stage has run: defaults of R339, R352, R366, banks and FLIP cleared (R363),
measurements cleared (R392), power inputs at level 0 (DESIGN CHOICE, assumption 11), fuses blank (DESIGN CHOICE, assumption 127). -/
def Lodge.reset : Lodge where
  thot := 95
  hyst := 6
  dlim := 64
  pdeadline := Config.pdeadlineDefault
  lidle := 20
  rdl := 100
  bank0 := []
  bank1 := []
  active := false
  gen := 0
  refused := false
  journal := none
  boot := .off
  meas := []
  clk := 0
  log := []
  lost := 0
  loans := []
  recalls := []
  late := []
  idle := []
  slices := []
  pin := 0
  sideband := 0
  stage := 0
  drain := false
  pwrfail := false
  sys := []
  dbase := 0
  regions := []
  flash := none
  offered := false
  fuses := ⟨0, []⟩
  spdm := Spdm.reset

/-- The package after reset (R391): no tenancy, no launch, nothing listed in memory. -/
def State.reset : State where
  agenda := []
  focus := []
  sel := 0
  free := 0
  next := 1
  tick := 0
  launches := []
  teams := []
  groups := []
  copies := []
  finMsgs := []
  cores := []
  tenants := []
  frames := []
  dram := []
  hostMem := []
  l2 := []
  sil := []
  tlb := []
  atlb := []
  adms := []
  bad := []
  imports := []
  fabricOut := []
  irqs := []
  hostReply := .none
  links := []
  lodge := Lodge.reset

/-- Why the machine stops. -/
inductive Fault where
  /-- Raised by every instruction word when no quad-set of a placed group issues it: the manual lets an instruction issue from a
  quad-set only (R96, R98). Safe: the model stops where nothing could issue. -/
  | noIssuer
  deriving DecidableEq, Repr

/-- Why the model gives no meaning. -/
inductive Refusal where
  /-- Raised by an arm of `exec` whose instruction has no meaning yet. Safe: the model stops. -/
  | notModelled (mnemonic : String)
  deriving DecidableEq, Repr

end Sys2Proof.Machine
end

