-- ==== Sys2Proof/Machine/Arrays.lean ====
section
/-! DEFINITION. Machine/Arrays.lean: sparse arrays in canonical form, little-endian bytes, 64-bit masks, and the lookups and updates of
the parts of `State` by their references. -/

namespace Sys2Proof.Machine

/-! ## Sparse arrays -/

/-- The value under key `k`; `d` where none is listed. -/
def tget {α : Type} (d : α) : Tbl α → Nat → α
  | [], _ => d
  | (j, v) :: t, k => if j = k then v else tget d t k

/-- The array without key `k`. -/
def terase {α : Type} (t : Tbl α) (k : Nat) : Tbl α := t.filter fun e => e.1 ≠ k

/-- The array with `v` under `k`, keys staying in rising order. -/
def tput {α : Type} : Tbl α → Nat → α → Tbl α
  | [], k, v => [(k, v)]
  | (j, u) :: t, k, v => if k < j then (k, v) :: (j, u) :: t else if k = j then (k, v) :: t else (j, u) :: tput t k v

/-- The array with `v` under `k`; the default `d` is not listed. -/
def tset {α : Type} [DecidableEq α] (d : α) (t : Tbl α) (k : Nat) (v : α) : Tbl α :=
  if v = d then terase t k else tput t k v

/-- Keys strictly rising, all above `lo` where one is given. -/
def trising {α : Type} (lo : Option Nat) : Tbl α → Bool
  | [] => true
  | (k, _) :: t => (match lo with | none => true | some l => decide (l < k)) && trising (some k) t

/-- The canonical form of a sparse array with default `d`. -/
def twf {α : Type} [DecidableEq α] (d : α) (t : Tbl α) : Bool := trising none t && t.all fun e => decide (e.2 ≠ d)

/-! ## Memory -/

/-- What an address that memory does not list reads as (DESIGN CHOICE, assumption 8). -/
def Memory.unlisted : Byte := 0

/-- The byte at an address. -/
def Memory.get (m : Memory) (a : Nat) : Byte := tget Memory.unlisted m a

/-- Memory with one byte written. -/
def Memory.set (m : Memory) (a : Nat) (b : Byte) : Memory := tset Memory.unlisted m a b

/-- The canonical form of memory. -/
def Memory.wf (m : Memory) : Bool := twf Memory.unlisted m

/-- `n` bytes from address `a` up. -/
def Memory.read (m : Memory) (a n : Nat) : List Byte := (List.range n).map fun i => m.get (a + i)

/-- Memory with bytes written from address `a` up. -/
def Memory.write (m : Memory) (a : Nat) : List Byte → Memory
  | [] => m
  | b :: bs => Memory.write (m.set a b) (a + 1) bs

/-- The number that little-endian bytes hold (R2). -/
def leNat : List Byte → Nat
  | [] => 0
  | b :: bs => b.toNat + 256 * leNat bs

/-- The low `n` bytes of a number, low byte first (R2). -/
def leBytes : Nat → Nat → List Byte
  | 0, _ => []
  | n + 1, v => BitVec.ofNat 8 v :: leBytes n (v / 256)

/-! ## Masks -/

/-- The 64-bit mask whose bit `i` is `f i`. -/
def maskOf (f : Nat → Bool) : W64 :=
  (List.range 64).foldl (fun m i => if f i then m ||| (1#64 <<< i) else m) 0#64

/-- The lanes of a set of quads: quad q holds lanes 4q to 4q+3 (R6). -/
def quadLanes (q : W16) : W64 := maskOf fun l => q.getLsbD (l / 4)

/-- Lanes below a group's width. -/
def widthLanes (w : Nat) : W64 := maskOf fun l => decide (l < w)

/-- Bits set in a mask. -/
def popCount (m : W64) : Nat := (List.range 64).countP fun i => bit m i

/-- The numbers of the bits set, ascending. -/
def bitList (m : W64) : List Nat := (List.range 64).filter fun i => bit m i

/-- Quads of a mask that has a lane of `m`. -/
def quadsWith (q : W16) (m : W64) : W16 :=
  (List.range 16).foldl (fun a i => if q.getLsbD i && decide (m.toNat / 16 ^ i % 16 ≠ 0) then a ||| (1#16 <<< i) else a) 0#16

/-! ## Parts of the machine by reference -/

def State.group? (s : State) (r : Nat) : Option Group := s.groups.find? fun g => g.ref = r
def State.team? (s : State) (r : Nat) : Option Team := s.teams.find? fun t => t.ref = r
def State.launch? (s : State) (r : Nat) : Option Launch := s.launches.find? fun l => l.ref = r
def State.copy? (s : State) (j : Nat) : Option Copy := s.copies.find? fun c => c.job = j
def State.coreOf (s : State) (c : Nat) : Core := tget Core.reset s.cores c
def State.tenant (s : State) (t : Nat) : Tenant := tget Tenant.reset s.tenants t
/-- A virtual function is enabled (R383, R391): its tenant has a tenancy, and no failed boot check has left function 0 alone. -/
def State.fnOn (s : State) (t : Nat) : Bool := (s.tenant t).live && s.lodge.boot != .failed
/-- SYS frames (R313): the Lodge's own, that no tenant mapping names. -/
def State.isSys (s : State) (f : Nat) : Bool := s.lodge.sys.any fun r => decide (r.1 ≤ f) && decide (f < r.1 + r.2)
def State.frame (s : State) (f : Nat) : Frame :=
  let d := tget Frame.reset s.frames f
  if s.isSys f then { d with ftype := 7 } else d

/-- A context of a tenant: CID is 4·TID + index (R360). -/
def State.ctx (s : State) (cid : Nat) : Ctx := tget Ctx.reset (s.tenant (cid / 4)).ctxs (cid % 4)

def State.modGroup (s : State) (r : Nat) (f : Group → Group) : State :=
  { s with groups := s.groups.map fun g => if g.ref = r then f g else g }
def State.modTeam (s : State) (r : Nat) (f : Team → Team) : State :=
  { s with teams := s.teams.map fun t => if t.ref = r then f t else t }
def State.modLaunch (s : State) (r : Nat) (f : Launch → Launch) : State :=
  { s with launches := s.launches.map fun l => if l.ref = r then f l else l }
def State.modCopy (s : State) (j : Nat) (f : Copy → Copy) : State :=
  { s with copies := s.copies.map fun c => if c.job = j then f c else c }
def State.modCore (s : State) (c : Nat) (f : Core → Core) : State :=
  { s with cores := tset Core.reset s.cores c (f (s.coreOf c)) }
def State.modTenant (s : State) (t : Nat) (f : Tenant → Tenant) : State :=
  { s with tenants := tset Tenant.reset s.tenants t (f (s.tenant t)) }
def State.modFrame (s : State) (n : Nat) (f : Frame → Frame) : State :=
  { s with frames := tset Frame.reset s.frames n (f (s.frame n)) }
def State.modCtx (s : State) (cid : Nat) (f : Ctx → Ctx) : State :=
  s.modTenant (cid / 4) fun t => { t with ctxs := tset Ctx.reset t.ctxs (cid % 4) (f (s.ctx cid)) }
def State.modLodge (s : State) (f : Lodge → Lodge) : State := { s with lodge := f s.lodge }

/-- A change of one quad-set of a group, by its set tag. -/
def Group.modQ (g : Group) (tag : Nat) (f : QSet → QSet) : Group :=
  { g with qsets := g.qsets.map fun q => if q.tag = tag then f q else q }

/-- A quad-set of a group. -/
def Group.q? (g : Group) (tag : Nat) : Option QSet := g.qsets.find? fun q => q.tag = tag

/-- Die of a core (R4). -/
def dieOf (core : Nat) : Nat := core / Config.coresPerDie

/-- Paddock of a core (R4). -/
def paddockOf (core : Nat) : Nat := core / Config.coresPerPaddock

/-- A reference that nothing else has had. -/
def State.fresh (s : State) : State := { s with next := s.next + 1 }

end Sys2Proof.Machine
end

