-- ==== Sys2Proof/Machine/Path.lean ====
section
/-! DEFINITION. Machine/Path.lean: the address path of R13: leases (R303, R304), range maps (R293 to R295), the walk (R299 to R301),
the caches (R165 to R174), DRAM and host memory behind them, and instruction fetch (R176). -/

namespace Sys2Proof.Machine

/-! ## The Lodge's error log (R382, R403) -/

/-- A counter of R369 after n more events. -/
def bump (c : W64) (n : Nat) : W64 := c + BitVec.ofNat 64 n

/-- WHERE of a scratchpad word and of a matrix table word (R382): die, core within the die, partition, and the word's place. -/
def whereSpad (core off : Nat) : Nat := core / 48 * 2 ^ 62 + core % 48 * 2 ^ 56 + off / 8 * 8
def whereTable (core part arr off : Nat) : Nat :=
  core / 48 * 2 ^ 62 + core % 48 * 2 ^ 56 + part * 2 ^ 54 + arr * 2 ^ 28 + off / 8 * 8

/-- The 32 bytes of a log record as its four words (R382). -/
def LogRec.words (r : LogRec) : List W64 :=
  [BitVec.ofNat 64 (r.cls % 256 * 2 ^ 56 + r.unit % 256 * 2 ^ 48 + r.tid % 64 * 2 ^ 42 + r.cid % 256 * 2 ^ 34 + r.action.toNat * 2 ^ 30
      + r.count.toNat),
    BitVec.ofNat 64 r.place, r.deadmask, BitVec.ofNat 64 (r.lost.toNat * 2 ^ 32 + r.clk.toNat)]

/-- A record enters the Lodge's log (R382): a full ring loses its oldest record, which LOST counts (DEDUCED, assumption 68). -/
def State.logErr (s : State) (cls unit tid cid : Nat) (action : BitVec 4) (place : Nat) (lanes : W64) : State :=
  s.modLodge fun d =>
    let full := decide (Config.logMax ≤ d.log.length)
    let lost := if full then d.lost + 1 else d.lost
    { d with lost := lost, log := (if full then d.log.drop 1 else d.log)
        ++ [⟨cls, unit, tid, cid, action, 1, place, lanes, lost, d.clk.setWidth 32⟩] }

/-- Unit number by which the model calls an access that meets a DAMAGED frame (R376): it is no unit of R371, and no record carries it
(DESIGN CHOICE, assumption 108). -/
def damagedUnit : Nat := 14

/-- A record that an occurrence joins: one of the same class, unit and place; for a DAMAGED frame, the one that says its data was lost; for
an access that a link which is down cuts off, the record of that link's end (R382, R403). -/
def LogRec.takes (r : LogRec) (cls unit place : Nat) : Bool :=
  if unit = damagedUnit then r.action.getLsbD 2 && r.place / 65536 = place / 65536
  else if unit = 12 ∨ unit = 13 then r.cls = 4 && r.unit = unit
  else r.cls = cls && r.unit = unit && r.place = place

/-- One more occurrence joins the latest record that takes it, where there is one (R382, R403). -/
def logJoin (cls unit place : Nat) (action : BitVec 4) (lanes : W64) : List LogRec → List LogRec
  | [] => []
  | r :: rs =>
    if r.takes cls unit place ∧ rs.all (fun k => !k.takes cls unit place) then
      { r with count := r.count + 1, action := r.action ||| action, deadmask := r.deadmask ||| lanes } :: rs
    else r :: logJoin cls unit place action lanes rs

/-- A requester meets an unrepaired word or a DAMAGED frame again: the occurrence joins the log record of its first detection, and UNCORR
does not count (R403). ACTION bits: 0 lanes killed, 1 group killed, 2 frame damaged, 3 copy or transfer failed (R382) (DEDUCED, assumption 74). -/
def State.detected (s : State) (unit place : Nat) (action : BitVec 4) (lanes : W64) : State :=
  s.modLodge fun d => { d with log := logJoin 2 unit place action lanes d.log }

/-- An uncorrectable error detected for the first time (R403): UNCORR of the tenant that it is attributed to, and a log record. -/
def State.newError (s : State) (unit place tid cid : Nat) (action : BitVec 4) (lanes : W64) : State :=
  (if tid = 0 then s else s.modTenant tid fun t => { t with uncorr := bump t.uncorr 1 }).logErr 2 unit tid cid action place lanes

/-! ## Range map (R293 to R295) -/

/-- Live word j of segment i of a context's range map. -/
def Ctx.seg (c : Ctx) (i j : Nat) : W64 := tget 0 c.segs (4 * i + j)

/-- KIND of a segment word3: 0 ordinary, 1 scratchpad window, 2 aperture, 3 fabric window, 4 host window (R293). -/
def segKind (w3 : W64) : Nat := bits w3 10 8

/-- The lowest-numbered valid segment that holds a VA (R295). -/
def Ctx.segOf (c : Ctx) (va : Nat) : Option Nat :=
  (List.range 16).find? fun i =>
    bit (c.seg i 3) 63 && decide (bits (c.seg i 0) 47 16 ≤ va / 65536) && decide (va / 65536 ≤ bits (c.seg i 1) 47 16)

/-- TIA of a VA through segment i: VA − BASE + OFFSET (R295). -/
def Ctx.tia (c : Ctx) (i va : Nat) : Nat := va - bits (c.seg i 0) 47 16 * 65536 + bits (c.seg i 2) 47 16 * 65536

/-- Offset of a VA from its segment's base. -/
def Ctx.segOff (c : Ctx) (i va : Nat) : Nat := va - bits (c.seg i 0) 47 16 * 65536

/-! ## Leases (R303, R304) -/

/-- Some lease entry covers the byte; for a write, one with RW set (R304). -/
def leaseByte (ls : List Lease) (write : Bool) (a : Nat) : Bool :=
  ls.any fun e => decide (e.base ≤ a) && decide (a < e.base + e.len) && (!write || e.rw)

/-- Every byte of an access lies in some entry (R304). -/
def leaseOk (ls : List Lease) (write : Bool) (a n : Nat) : Bool := (List.range n).all fun i => leaseByte ls write (a + i)

/-- The byte is covered by a demand entry (R307). -/
def leaseDemand (ls : List Lease) (a : Nat) : Bool :=
  ls.any fun e => e.demand && decide (e.base ≤ a) && decide (a < e.base + e.len)

/-! ## The walk (R297 to R301) -/

/-- What a completed walk yields: machine frame (or host frame), KIND, W, NC, HOST (R301). -/
structure Leaf where
  frame : Nat
  kind : Nat
  w : Bool
  nc : Bool
  host : Bool
  deriving DecidableEq, Repr

/-- How a translation ends without a leaf: a reason of R299 with its level, or an abort (R373) of a unit and place (R382). -/
inductive WalkErr where
  | fail (reason level : Nat)
  | abort (unit place : Nat)
  deriving DecidableEq, Repr

/-- Address of the 32-byte DRAM word that holds a machine address (R371). -/
def dramWord (a : Nat) : Nat := a / 32 * 32

/-- The DRAM word at a machine address fails its check (R373). -/
def State.dramBad (s : State) (a : Nat) : Bool := s.bad.contains (10, dramWord a)

/-- Why a read of the DRAM word at a machine address aborts: its frame is DAMAGED (R376), or the word fails its check (R373). -/
def State.dramFails (s : State) (a : Nat) : Option WalkErr :=
  if (s.frame (a / 65536)).damaged then some (.abort damagedUnit (a / 65536 * 65536))
  else if s.dramBad a then some (.abort 10 (dramWord a)) else none

/-- Machine address of a tenant's allotment array entry (R297). -/
def Tenant.allotAddr (t : Tenant) (tan : Nat) : Nat := t.abase.toNat + 4 * tan

/-- The allotment array's entry for a TAN, as DRAM holds it (R297). -/
def State.allotRead (s : State) (tid tan : Nat) : Except WalkErr W32 :=
  let a := (s.tenant tid).allotAddr tan
  match s.dramFails a with
  | some e => .error e
  | none => .ok (BitVec.ofNat 32 (leNat (s.dram.read a 4)))

/-- Entry of the array as the Lodge writes it: V, HOST, MAN (R297). -/
def allotEntry (host : Bool) (man : Nat) : W32 := BitVec.ofNat 32 (2 ^ 31 + (if host then 2 ^ 30 else 0) + man)

/-- V, HOST and MAN of an entry. -/
def allotV (e : W32) : Bool := e.getLsbD 31
def allotHost (e : W32) : Bool := e.getLsbD 30
def allotMan (e : W32) : Nat := e.toNat % 131072

/-- What an allotment entry gives for a TFN: machine frame or host frame, and HOST (R297). -/
def allotFrame (e : W32) (tfn : Nat) : Option (Nat × Bool) :=
  if allotV e then some (allotMan e * 32 + tfn % 32, allotHost e) else none

/-- What the tenant's allotment array gives for a TFN, none where its number is at or beyond ALEN or the entry is not valid (R297). -/
def State.allotted (s : State) (tid tfn : Nat) : Except WalkErr (Option (Nat × Bool)) :=
  if (s.tenant tid).alen ≤ tfn / 32 then .ok none else (s.allotRead tid (tfn / 32)).map fun e => allotFrame e tfn

/-- The 8 bytes of a table entry, from the one copy that walks, admissions and loads use (R316). -/
def State.pte (s : State) (frame idx : Nat) : W64 := BitVec.ofNat 64 (leNat (s.dram.read (frame * 65536 + 8 * idx) 8))

/-- V, KIND, TFN of an entry (R298). -/
def pteV (e : W64) : Bool := bit e 0
def pteKind (e : W64) : Nat := bits e 2 1
def pteTfn (e : W64) : Nat := bits e 33 12

/-- Index of a TIA at a table level (R14). -/
def tiaIndex (level tia : Nat) : Nat :=
  if level = 3 then tia / 2 ^ 42 % 64 else if level = 2 then tia / 2 ^ 29 % 8192 else tia / 2 ^ 16 % 8192

/-- Two lines have one home slice (R170). -/
def sameSlice (g h : Nat) : Bool := g = h || Config.l2Slice g % Config.l2Slices = Config.l2Slice h % Config.l2Slices

/-- Two lines lie in one set of it. -/
def sameSet (g h : Nat) : Bool :=
  sameSlice g h && (g = h || Config.l2Set g % Config.l2Sets = Config.l2Set h % Config.l2Sets)

/-- The allotment entry of a TAN as a walk at a line's home slice reads it: one that the slice keeps, else the array's (R301). -/
def State.allotAt (s : State) (gline tid tan : Nat) : Except WalkErr W32 :=
  match s.atlb.find? fun e => e.tid = tid ∧ e.tan = tan ∧ sameSlice e.home gline with
  | some e => .ok e.word
  | none => s.allotRead tid tan

/-- mach(t) of R299 in a walk at a line's home slice; a host granule at or beyond the function's host region count fails alike (R388). -/
def State.machAt (s : State) (gline tid tfn level : Nat) : Except WalkErr (Nat × Bool) :=
  if (s.tenant tid).alen ≤ tfn / 32 then .error (.fail 2 level) else
  match s.allotAt gline tid (tfn / 32) with
  | .error e => .error e
  | .ok e =>
    match (allotFrame e tfn).filter fun f => !f.2 || decide (f.1 / 32 < (s.tenant tid).hostCount) with
    | none => .error (.fail 2 level)
    | some f => .ok f

/-- The walk below the table at TFN `tfn`, the levels still to read given highest first: the leaf, and the TFNs that the walk passed
through. A failed check of an entry or a DAMAGED frame on the way ends it with an abort (R373, R376). -/
def State.walkFrom (s : State) (gline tid tia : Nat) : List Nat → Nat → Except WalkErr (List Nat × Leaf)
  | [], _ => .error (.fail 3 0)
  | lv :: rest, tfn =>
    match s.machAt gline tid tfn lv with
    | .error e => .error e
    | .ok (_, true) => .error (.fail 3 lv)
    | .ok (f, false) =>
      match s.dramFails (f * 65536 + 8 * tiaIndex lv tia) with
      | some e => .error e
      | none =>
        let e := s.pte f (tiaIndex lv tia)
        if !pteV e then .error (.fail 1 lv)
        else if (lv ≠ 1 ∧ pteKind e ≠ 2) ∨ (lv = 1 ∧ pteKind e = 2) then .error (.fail 3 lv)
        else match rest with
          | [] =>
            match s.machAt gline tid (pteTfn e) lv with
            | .error e => .error e
            | .ok (g, h) =>
              if !h ∧ (s.frame g).damaged then .error (.abort damagedUnit (g * 65536))
              else .ok ([tfn, pteTfn e], ⟨g, pteKind e, bit e 3, bit e 4, h⟩)
          | _ => (s.walkFrom gline tid tia rest (pteTfn e)).map fun r => (tfn :: r.1, r.2)

/-- The walk of R299 from the tenant's ROOT, at the home slice of a line (DEDUCED, assumption 27). -/
def State.walk (s : State) (gline tid tia : Nat) : Except WalkErr (List Nat × Leaf) :=
  if !(s.tenant tid).rv then .error (.fail 1 3) else s.walkFrom gline tid tia [3, 2, 1] (s.tenant tid).root

/-- A list without its last n members that satisfy a test. -/
def dropLastOf {α : Type} (n : Nat) (p : α → Bool) (l : List α) : List α :=
  (List.range n).foldl (fun l _ => (l.reverse.eraseP p).reverse) l

/-- A slice's frame-TLB keeps its number of entries (R301): the oldest allotment entries leave first, then the oldest page entries (DESIGN
CHOICE, assumption 29). -/
def State.tlbFit (s : State) (gline : Nat) : State :=
  if s.tlb.length + s.atlb.length ≤ Config.tlbMax then s else
  let n := s.tlb.countP fun e => sameSlice e.home gline
  let k := s.atlb.countP fun e => sameSlice e.home gline
  let excess := n + k - Config.tlbMax
  { s with
    atlb := dropLastOf excess (fun e => sameSlice e.home gline) s.atlb
    tlb := dropLastOf (excess - k) (fun e => sameSlice e.home gline) s.tlb }

/-- A walk's success enters the slice's frame-TLB, with the allotment entries that it read (R301). -/
def State.tlbPut (s : State) (gline tid tia : Nat) (tfns : List Nat) (l : Leaf) : State :=
  let kept (tan : Nat) : Bool := s.atlb.any fun e => e.tid = tid && e.tan = tan && sameSlice e.home gline
  let new := (tfns.map (· / 32)).eraseDups.filterMap fun tan =>
    if kept tan then none else match s.allotRead tid tan with | .ok w => some (⟨gline, tid, tan, w⟩ : AllotEntry) | .error _ => none
  { s with
    tlb := ⟨gline, tid, tia / 65536, l.frame, l.kind, l.w, l.nc, l.host⟩ :: s.tlb
    atlb := new ++ s.atlb }.tlbFit gline

/-- GIA of a tenant's TIA: TID ∥ TIA (R4). -/
def gia (tid tia : Nat) : Nat := tid * 2 ^ 48 + tia

/-- Tenant and line-aligned TIA of a GIA line. -/
def glineTid (gline : Nat) : Nat := gline / 2 ^ 41
def glineTia (gline : Nat) : Nat := gline % 2 ^ 41 * 128

/-- Translation through the frame-TLB of the line's home slice (R301): a hit, or a walk whose success is cached; a walk that fails is
not. -/
def State.translate (s : State) (tid tia : Nat) : State × Except WalkErr Leaf :=
  let g := gia tid tia / 128
  match s.tlb.find? fun e => e.tid = tid ∧ e.page = tia / 65536 ∧ sameSlice e.home g with
  | some e =>
    if !e.host ∧ (s.frame e.frame).damaged then (s, .error (.abort damagedUnit (e.frame * 65536)))
    else (s, .ok ⟨e.frame, e.kind, e.w, e.nc, e.host⟩)
  | none =>
    match s.walk g tid tia with
    | .ok (tfns, l) => (s.tlbPut g tid tia tfns l, .ok l)
    | .error e => (s, .error e)

/-! ## DRAM and L2 (R170 to R173, R373, R402) -/

/-- Byte i of a 128-byte line. -/
def lineByte (d : BitVec 1024) (i : Nat) : Byte := d.extractLsb' (8 * i) 8

/-- A line from a function of its bytes. -/
def lineOf (f : Nat → Byte) : BitVec 1024 := BitVec.ofNat 1024 (leNat ((List.range 128).map f))

/-- A mask over the 128 bytes of a line. -/
def mask128 (f : Nat → Bool) : BitVec 128 := (List.range 128).foldl (fun m i => if f i then m ||| (1#128 <<< i) else m) 0#128

/-- A mask over the 32 words of a line. -/
def mask32 (f : Nat → Bool) : BitVec 32 := (List.range 32).foldl (fun m i => if f i then m ||| (1#32 <<< i) else m) 0#32

/-- A mask over the four 32-byte words of a line. -/
def mask4 (f : Nat → Bool) : BitVec 4 := (List.range 4).foldl (fun m w => if f w then m ||| (1#4 <<< w) else m) 0#4

/-- Drop what every cache of the package holds of a frame, without writing it back: the data was lost (R376). -/
def State.dropFrame (s : State) (f : Nat) : State :=
  { s with
    cores := s.cores.map fun (c, k) =>
      (c, { k with l1 := k.l1.filter fun l => l.stamp ≠ f, ic := k.ic.filter fun l => l.frame ≠ f })
    l2 := s.l2.filter fun l => l.stamp ≠ f
    sil := s.sil.filter fun l => l.mline / 512 ≠ f
    tlb := s.tlb.filter fun e => e.frame ≠ f ∨ e.host }

/-- A frame becomes DAMAGED: from then on every access to any byte of it aborts (R376). -/
def State.damage (s : State) (f : Nat) : State := (s.modFrame f fun d => { d with damaged := true }).dropFrame f

/-- One 32-byte word of a write-back into DRAM (R376, R402): a mask that covers it whole repairs it; a partial mask on a word that
fails its check loses the data, which the word's log record says (R382). -/
def State.dramPut (s : State) (a : Nat) (bytes : List (Option Byte)) : State :=
  if bytes.all (·.isNone) then s
  else if bytes.all (·.isSome) then
    { s with dram := s.dram.write a (bytes.map (·.getD 0)), bad := s.bad.filter (· ≠ (10, a)) }
  else if s.dramBad a then (s.detected 10 a 4 0).damage (a / 65536)
  else { s with dram := (bytes.zipIdx).foldl (fun m (b, i) => match b with | some v => m.set (a + i) v | none => m) s.dram }

/-- Machine address of a line in a frame. -/
def lineAddr (frame gline : Nat) : Nat := frame * 65536 + glineTia gline % 65536

/-- An L2 line's dirty bytes written to DRAM at the frame of its stamp (R167, R301). -/
def State.l2Clean (s : State) (l : L2Line) : State :=
  (List.range 4).foldl (fun s w => s.dramPut (lineAddr l.stamp l.gline + 32 * w)
    ((List.range 32).map fun i => if l.dirty.getLsbD (32 * w + i) then some (lineByte l.data (32 * w + i)) else none)) s

/-- The L2 line with an address. -/
def State.l2? (s : State) (gline : Nat) : Option L2Line := s.l2.find? fun l => l.gline = gline

/-- An L2 line written back and dropped. -/
def State.l2Drop (s : State) (gline : Nat) : State :=
  match s.l2? gline with
  | none => s
  | some l => let s := s.l2Clean l; { s with l2 := s.l2.filter fun k => k.gline ≠ gline }

/-- The L2 with a line in place of the one with its address, most recently used. -/
def State.l2Put (s : State) (l : L2Line) : State := { s with l2 := l :: s.l2.filter fun k => k.gline ≠ l.gline }

/-- The line that replacement takes among some, most recently used first: streaming lines first, then the least recently used (R171, R173). -/
def l2Oldest (ls : List L2Line) : Option Nat := ((ls.filter (·.nt)).getLast?.orElse fun _ => ls.getLast?).map (·.gline)

/-- Below its set's number of ways, or without the line that replacement takes from the set, whose ever it is (R171). -/
def State.l2SetRoom (s : State) (gline : Nat) : State :=
  if s.l2.length < Config.l2Ways then s else
  let set := s.l2.filter fun l => sameSet l.gline gline
  if set.length < Config.l2Ways then s else match l2Oldest set with | some v => s.l2Drop v | none => s

/-- Room in its set for one more line of a tenant (R171): a tenant at its cap in the slice replaces a line of its own there, one of the
same set where it has one, and below the cap the least recently used line of a full set goes, whose ever it is (DESIGN CHOICE,
assumption 29, for the geometry). -/
def State.l2Room (s : State) (gline : Nat) : State :=
  let cap := (s.tenant (glineTid gline)).l2cap * Config.l2CapLines
  let mine := s.l2.filter fun l => glineTid l.gline = glineTid gline && sameSlice l.gline gline
  if cap ≤ s.l2.length ∧ cap ≤ mine.length then
    match (l2Oldest (mine.filter fun l => sameSet l.gline gline)).orElse fun _ => l2Oldest mine with
    | some v => (s.l2Drop v).l2SetRoom gline
    | none => s.l2SetRoom gline
  else s.l2SetRoom gline

/-- Room for a line that comes to its home slice; a tenant with a cap of 0 caches nothing in L2, and its lines leave only as they are
replaced (R171, R361). -/
def State.l2Space (s : State) (gline : Nat) : State :=
  if (s.l2? gline).isSome ∨ (s.tenant (glineTid gline)).l2cap = 0 then s else s.l2Room gline

/-- A line that comes to its home slice stays there, but for a tenant with a cap of 0 (R171). -/
def State.l2Keep (s : State) (l : L2Line) : State :=
  if (s.l2? l.gline).isSome ∨ (s.tenant (glineTid l.gline)).l2cap ≠ 0 then s.l2Put l else s

/-- Where the bytes of a missing line are. -/
inductive Home where
  /-- A line of an ordinary page, in L2 unless the tenant's cap keeps it out. -/
  | line (l : L2Line)
  /-- An uncached page of DRAM: NC (R172) or a V mapping (R316). -/
  | uncached (leaf : Leaf)
  /-- Host memory (R312). -/
  | host (leaf : Leaf)
  deriving DecidableEq, Repr

/-- A 128-byte line read from DRAM, each 32-byte word that fails its check withheld (R373). -/
def State.dramLine (s : State) (gline frame : Nat) (nt : Bool) : L2Line where
  gline := gline
  data := lineOf fun i => s.dram.get (lineAddr frame gline + i)
  dirty := 0
  wp := false
  nt := nt
  stamp := frame
  withheld := mask4 fun w => s.dramBad (lineAddr frame gline + 32 * w)

/-- Links by number: 0 to 3 are the die-to-die links, 4 the host link, 5 to 22 the fabric ports (R4, R377). -/
def hostLink : Nat := 4
def fabricPorts : List Nat := (List.range 18).map (· + 5)
def State.linkDown (s : State) (i : Nat) : Bool := (tget Link.reset s.links i).down

/-- An access over the fabric comes to nothing: no port reaches the target (R377, R390; every port reaches every package, DESIGN CHOICE,
assumption 72), or the target package has no import entry for it:
PERM with reason 4 whatever the lease, so it is not a failure that a demand range waits on (R389). -/
def State.fabricErr (s : State) : Option WalkErr :=
  if fabricPorts.all fun p => s.linkDown p then some (.abort 13 0)
  else if Config.fabricServes s.free then none else some (.fail 3 0)

/-- A withheld word of an L2 line read from DRAM again (R373): repaired, it is taken; otherwise the mark stays. -/
def State.l2Refresh (s : State) (l : L2Line) : L2Line :=
  if l.withheld = 0 then l else
  let base := lineAddr l.stamp l.gline
  let ok (w : Nat) : Bool := l.withheld.getLsbD w && !s.dramBad (base + 32 * w)
  { l with
    data := lineOf fun i => if ok (i / 32) && !l.dirty.getLsbD i then s.dram.get (base + i) else lineByte l.data i
    withheld := mask4 fun w => l.withheld.getLsbD w && !ok w }

/-- The home of a line: an L2 hit is served without translation (R13); a miss walks, and fills L2 unless the page is uncached. `nt`
marks a line that comes in for replacement first (R173). Making room may lose the line's own frame (R376). -/
def State.home (s : State) (gline : Nat) (hostSeg : Bool) (nt : Bool := false) : State × Except WalkErr Home :=
  match (if hostSeg then none else s.l2? gline) with
  | some l => (s.l2Put (s.l2Refresh l), .ok (.line (s.l2Refresh l)))
  | none =>
    match s.translate (glineTid gline) (glineTia gline) with
    | (s, .error e) => (s, .error e)
    | (s, .ok leaf) =>
      if leaf.host ≠ hostSeg then (s, .error (.fail 3 1))
      else if leaf.host then (s, if s.linkDown hostLink then .error (.abort 12 0) else .ok (.host leaf))
      else if leaf.nc ∨ leaf.kind = 3 then (s, .ok (.uncached leaf))
      else
        let s := s.l2Space gline
        if (s.frame leaf.frame).damaged then (s, .error (.abort damagedUnit (leaf.frame * 65536)))
        else (s.l2Keep (s.dramLine gline leaf.frame nt), .ok (.line (s.dramLine gline leaf.frame nt)))

/-- Host address of a byte of a tenant's host region: granule MAN of the region, frame index and offset (R312, R388). -/
def State.hostAddr (s : State) (tid frame off : Nat) : Nat := (s.tenant tid).hostBase * 2 ^ 21 + frame * 65536 + off

/-- `n` bytes at offset `off` of a line's home; an abort names the failing word. -/
def State.homeRead (s : State) (h : Home) (gline off n : Nat) : Except WalkErr (List Byte) :=
  match h with
  | .line l =>
    match (List.range n).find? fun i => l.withheld.getLsbD ((off + i) / 32) with
    | some i => .error (.abort 10 (dramWord (lineAddr l.stamp gline + off + i)))
    | none => .ok ((List.range n).map fun i => lineByte l.data (off + i))
  | .uncached leaf =>
    let a := lineAddr leaf.frame gline + off
    match (List.range n).find? fun i => s.dramBad (a + i) with
    | some i => .error (.abort 10 (dramWord (a + i)))
    | none => .ok (s.dram.read a n)
  | .host leaf => .ok (s.hostMem.read (s.hostAddr (glineTid gline) leaf.frame (glineTia gline % 65536 + off)) n)

/-- Bytes written to an L2 line under a mask: the bytes become dirty, and a withheld word that is covered whole is repaired (R373). -/
def l2Merge (l : L2Line) (f : Nat → Option Byte) : L2Line :=
  { l with
    data := lineOf fun i => (f i).getD (lineByte l.data i)
    dirty := l.dirty ||| mask128 fun i => (f i).isSome
    withheld := mask4 fun w => l.withheld.getLsbD w && !((List.range 32).all fun i => (f (32 * w + i)).isSome) }

/-! ## Write permission (R166, R310) -/

/-- A leaf grants stores and atomics of a D page: W set (R300). -/
def Leaf.writable (l : Leaf) : Bool := l.kind = 0 && l.w

/-- A frame of the tenant becomes dirty (R310, R313). -/
def State.dirtyFrame (s : State) (f : Nat) : State := s.modFrame f fun d => { d with dirty := true }

/-- An L2 line gains write permission: one translation, the leaf must grant the store, the stamp is taken and the frame becomes
dirty (R13, R300, R301, R310). A line that has it already needs none. -/
def State.l2Write (s : State) (gline : Nat) (hostSeg : Bool) (nt : Bool := false) : State × Except WalkErr Home :=
  match s.home gline hostSeg nt with
  | (s, .error e) => (s, .error e)
  | (s, .ok (.line l)) =>
    if l.wp then (s, .ok (.line l)) else
    match s.translate (glineTid gline) (glineTia gline) with
    | (s, .error e) => (s, .error e)
    | (s, .ok leaf) =>
      if leaf.host then (s, .error (.fail 3 1))
      else if leaf.kind = 3 then (s, .ok (.uncached leaf))
      else if !leaf.writable then (s, .error (.fail 4 1))
      else if leaf.nc then (s.dirtyFrame leaf.frame, .ok (.uncached leaf))
      else
        let l := { l with wp := true, stamp := leaf.frame }
        ((if (s.l2? gline).isSome then s.l2Put l else s).dirtyFrame leaf.frame, .ok (.line l))
  | (s, .ok (.uncached leaf)) =>
    if leaf.kind = 3 then (s, .ok (.uncached leaf))
    else if leaf.writable then (s.dirtyFrame leaf.frame, .ok (.uncached leaf))
    else (s, .error (.fail 4 1))
  | (s, .ok (.host leaf)) => if leaf.writable then (s, .ok (.host leaf)) else (s, .error (.fail 4 1))

/-- Bytes written at a line's home: L2, or DRAM for a line that its tenant's cap keeps out of L2 (R171), an uncached page, host memory. A
partial write of an uncached DRAM word that fails its check is not made (R402). -/
def State.homeWrite (s : State) (h : Home) (gline : Nat) (f : Nat → Option Byte) : State × Except WalkErr Unit :=
  match h with
  | .line l => (if (s.l2? gline).isSome then s.l2Put (l2Merge l f) else s.l2Clean (l2Merge l f), .ok ())
  | .uncached leaf =>
    let base := lineAddr leaf.frame gline
    let some' (w : Nat) : Bool := (List.range 32).any fun i => (f (32 * w + i)).isSome
    let whole (w : Nat) : Bool := (List.range 32).all fun i => (f (32 * w + i)).isSome
    match (List.range 4).find? fun w => s.dramBad (base + 32 * w) && some' w && !whole w with
    | some w => (s, .error (.abort 10 (base + 32 * w)))
    | none => ((List.range 4).foldl (fun s w => s.dramPut (base + 32 * w) ((List.range 32).map fun i => f (32 * w + i))) s, .ok ())
  | .host leaf =>
    let base := s.hostAddr (glineTid gline) leaf.frame (glineTia gline % 65536)
    ({ s with hostMem := (List.range 128).foldl (fun m i => match f i with | some v => m.set (base + i) v | none => m) s.hostMem },
      .ok ())

/-! ## L1 (R165 to R169) -/

/-- The L1 line with an address. -/
def Core.l1? (c : Core) (gline : Nat) : Option L1Line := c.l1.find? fun l => l.gline = gline

/-- The L1 with a line in its place, most recently used. -/
def Core.l1Put (c : Core) (l : L1Line) : Core := { c with l1 := l :: c.l1.filter fun k => k.gline ≠ l.gline }

/-- A change of one line of a core's L1. -/
def State.modLine (s : State) (core gline : Nat) (f : L1Line → L1Line) : State :=
  s.modCore core fun c => { c with l1 := c.l1.map fun k => if k.gline = gline then f k else k }

/-- The DIRTY bytes of an L1 line written at its home slice, under their mask (R167). The slice is tagged by GIA, and nothing is translated
(R187): where L2 does not hold the line, it comes from the frame of the L1 line's stamp (DEDUCED, assumption 107). -/
def State.l2Take (s : State) (l : L1Line) : State :=
  let f : Nat → Option Byte := fun i => if l.dirty.getLsbD i then some (lineByte l.data i) else none
  match s.l2? l.gline with
  | some k => s.l2Put (l2Merge (s.l2Refresh k) f)
  | none =>
    let s := s.l2Space l.gline
    if (s.frame l.stamp).damaged then s else
    let k := l2Merge { s.dramLine l.gline l.stamp l.nt with wp := true } f
    if (s.tenant (glineTid l.gline)).l2cap = 0 then s.l2Clean k else s.l2Put k

/-- The DIRTY bytes of a line of a core's L1 written to L2 under their mask (R167); the line stays, clean. -/
def State.l1Clean (s : State) (core gline : Nat) : State :=
  match (s.coreOf core).l1? gline with
  | none => s
  | some l => if l.dirty = 0 then s else (s.modLine core gline fun k => { k with dirty := 0 }).l2Take l

/-- A line of a core's L1 written back and invalidated. -/
def State.l1Drop (s : State) (core gline : Nat) : State :=
  (s.l1Clean core gline).modCore core fun c => { c with l1 := c.l1.filter fun k => k.gline ≠ gline }

/-- A 4 KiB unit of the core's array is part of a team's allocation (R163), and of the part that is not spilled (R353). -/
def Team.spansUnit (t : Team) (u : Nat) : Bool :=
  decide (t.spadBase / 4096 ≤ u) && decide (u < t.spadBase / 4096 + (t.spadBytes + 4095) / 4096)
def Team.holdsUnit (t : Team) (u : Nat) : Bool := t.spansUnit u && !t.spilled.blocks.contains (u / 16)

/-- Blocks of the core's array that serve as scratchpad: up to the last that an allocation on the core reaches, halted teams included, so a
block in a gap below it is no L1 (DEDUCED, assumption 12); at most 12, blocks 0 to 3 being always L1 (R162). -/
def State.spadBlocks (s : State) (core : Nat) : Nat :=
  let ts := s.teams.filter fun t => t.core = core ∧ t.state ≠ .ended ∧ t.state ≠ .saved
  (List.range 12).foldl (fun n b => if ts.any fun t => (List.range 16).any fun i => t.spansUnit (16 * b + i) then b + 1 else n) 0

/-- Ways of each of the 128 L1 sets: four for each 64 KiB block that is not scratchpad (R162, R175; PRESUMED, assumption 12). -/
def State.l1Ways (s : State) (core : Nat) : Nat := 4 * (16 - s.spadBlocks core)

/-- The line chosen for replacement in a set: streaming lines first, then the least recently used, never a locked one (R167). -/
def Core.l1Victim (c : Core) (set : Nat) : Option Nat :=
  let ls := c.l1.filter fun l => l.gline % 128 = set ∧ l.lock = 0
  ((ls.filter (·.nt)).getLast?.orElse fun _ => ls.getLast?).map (·.gline)

/-- Room for one more line in its set (R167). -/
def State.l1Room (s : State) (core gline : Nat) : State :=
  if ((s.coreOf core).l1.filter fun l => l.gline % 128 = gline % 128).length < s.l1Ways core then s else
  match (s.coreOf core).l1Victim (gline % 128) with
  | some v => s.l1Drop core v
  | none => s

/-- A merging fill (R166): only bytes whose DIRTY bit is clear are written, and every word that is delivered becomes VALID. -/
def l1Merge (l : L1Line) (home : L2Line) : L1Line :=
  { l with
    stamp := home.stamp
    data := lineOf fun i => if l.dirty.getLsbD i || home.withheld.getLsbD (i / 32) then lineByte l.data i else lineByte home.data i
    valid := mask32 fun w => l.valid.getLsbD w || !home.withheld.getLsbD (w / 8) }

/-- An L1 line just allocated. -/
def L1Line.empty (gline : Nat) (nt : Bool) : L1Line := ⟨gline, 0, 0, false, nt, 0, 0, 0⟩

/-- Room in a core's L1 for a line that it does not hold. -/
def State.l1Space (s : State) (core gline : Nat) : State :=
  if ((s.coreOf core).l1? gline).isSome then s else s.l1Room core gline

/-- A line filled into a core's L1 from its L2 home (R166), unless the room made for it has lost its frame (R376). -/
def State.l1FillFrom (s : State) (core gline : Nat) (nt : Bool) (h : L2Line) : State :=
  let s := s.l1Space core gline
  if (s.frame h.stamp).damaged then s else
  s.modCore core fun c => c.l1Put (l1Merge ((c.l1? gline).getD (L1Line.empty gline nt)) h)

/-- Every word that bytes off to off+n−1 of a line touch is VALID. -/
def L1Line.has (l : L1Line) (off n : Nat) : Bool := (List.range n).all fun i => l.valid.getLsbD ((off + i) / 4)

/-- `n` bytes of ordinary global data as a load on a core reads them (R166). `fromL2`: an acquire at dev or sys scope never reads L1
(R169), and the core's own dirty bytes of the line go to L2 first. -/
def State.loadLine (s : State) (core gline off n : Nat) (nt fromL2 : Bool) : State × Except WalkErr (List Byte) :=
  match (if fromL2 then none else ((s.coreOf core).l1? gline).filter fun l => l.has off n) with
  | some l => (s.modCore core fun c => c.l1Put l, .ok ((List.range n).map fun i => lineByte l.data (off + i)))
  | none =>
    let s := if fromL2 then s.l1Clean core gline else s
    match s.home gline false nt with
    | (s, .error e) => (s, .error e)
    | (s, .ok (.line l)) =>
      if fromL2 then (s, s.homeRead (.line l) gline off n) else
      let s := s.l1FillFrom core gline nt l
      if (s.frame l.stamp).damaged then (s, .error (.abort damagedUnit (l.stamp * 65536))) else
      let own : Option L1Line := (s.coreOf core).l1? gline
      match (List.range n).find? fun i => !own.any fun k => k.valid.getLsbD ((off + i) / 4) with
      | some i => (s, .error (.abort 10 (dramWord (lineAddr l.stamp gline + off + i))))
      | none => (s, .ok ((List.range n).map fun i => lineByte ((own.map (·.data)).getD 0) (off + i)))
    | (s, .ok h) => (s, s.homeRead h gline off n)

/-- What became of a store on its way. -/
inductive StoreTo where
  | done
  /-- The leaf is a V mapping: the store goes to admission (R316). -/
  | admission (leaf : Leaf)
  deriving DecidableEq, Repr

/-- A line of L1 after bytes have been stored into it (R166). -/
def L1Line.stored (l : L1Line) (f : Nat → Option Byte) : L1Line :=
  let d := l.dirty ||| mask128 fun i => (f i).isSome
  { l with
    wp := true, dirty := d, data := lineOf fun i => (f i).getD (lineByte l.data i),
    valid := mask32 fun w => l.valid.getLsbD w || ((List.range 4).all fun i => d.getLsbD (4 * w + i)) }

/-- Bytes stored into ordinary global data from a core: WP is obtained first, then the bytes are written in L1 (R166). -/
def State.storeLine (s : State) (core gline off : Nat) (bytes : List Byte) (nt : Bool) : State × Except WalkErr StoreTo :=
  let f : Nat → Option Byte := fun i => if off ≤ i then bytes[i - off]? else none
  match ((s.coreOf core).l1? gline).filter (·.wp) with
  | some l => (s.modCore core fun c => c.l1Put (l.stored f), .ok .done)
  | none =>
    match s.l2Write gline false nt with
    | (s, .error e) => (s, .error e)
    | (s, .ok (.line l)) =>
      let s := s.l1Space core gline
      if (s.frame l.stamp).damaged then (s, .error (.abort damagedUnit (l.stamp * 65536))) else
      (s.modCore core fun c => c.l1Put { ((c.l1? gline).getD (L1Line.empty gline nt)).stored f with stamp := l.stamp }, .ok .done)
    | (s, .ok (.uncached leaf)) =>
      if leaf.kind = 3 then (s, .ok (.admission leaf)) else
      match s.homeWrite (.uncached leaf) gline f with
      | (s, .error e) => (s, .error e)
      | (s, .ok _) => (s, .ok .done)
    | (s, .ok (.host leaf)) => ((s.homeWrite (.host leaf) gline f).1, .ok .done)

/-- The release action at dev or sys scope: every DIRTY byte of the tenant's lines in the core's L1 is written back (R169) (DEDUCED,
assumption 76). -/
def State.releaseL1 (s : State) (core tid : Nat) : State :=
  (((s.coreOf core).l1.filter fun l => glineTid l.gline = tid).map (·.gline)).foldl (fun s g => s.l1Clean core g) s

/-- A line after an acquire: VALID stays only on words whose bytes are DIRTY (R169). -/
def L1Line.acquired (l : L1Line) : L1Line :=
  { l with valid := mask32 fun w => l.valid.getLsbD w && ((List.range 4).all fun i => l.dirty.getLsbD (4 * w + i)) }

/-- The acquire action at dev or sys scope: VALID is cleared on every word of the tenant's lines in the core's L1 whose bytes are not
DIRTY (R169). -/
def State.acquireL1 (s : State) (core tid : Nat) : State :=
  s.modCore core fun c => { c with l1 := c.l1.map fun l => if glineTid l.gline = tid then l.acquired else l }

/-- A probe load through a fabric window that the other package's import table refuses fails its translation (R174, R389). -/
def State.fabricRefused (s : State) : Bool :=
  match s.fabricErr with
  | some (.fail _ _) => true
  | _ => false

/-- A probe load finds no mapping that it may read at a line that is in neither L1 nor L2 (R174, R184, R307): a walk that fails, a leaf
of a kind other than D, an allotment whose HOST does not match the segment (R300) (DEDUCED, assumption 77). -/
def State.probeFails (s : State) (core tid tia n : Nat) (hostSeg : Bool) : Bool :=
  let gline := gia tid tia / 128
  let hit := !hostSeg && ((((s.coreOf core).l1? gline).any fun l => l.has (tia % 128) n) || (s.l2? gline).isSome)
  !hit && match (s.translate tid tia).2 with
    | .ok leaf => leaf.kind ≠ 0 || leaf.host != hostSeg
    | .error (.fail _ _) => true
    | .error (.abort _ _) => false

/-! ## What a tenant's memory holds -/

/-- The byte that a load on a core would read at a tenant's TIA, looked at without changing anything: L1, where it is valid or dirty, then
L2, then DRAM or host memory through the walk; none where no leaf can be reached or the word is withheld (R373). -/
def State.peek (s : State) (core tid tia : Nat) : Option Byte :=
  let gline := gia tid tia / 128
  let off := tia % 128
  match ((s.coreOf core).l1? gline).filter fun l => l.has off 1 || l.dirty.getLsbD off with
  | some l => some (lineByte l.data off)
  | none =>
    match s.l2? gline with
    | some l => if (s.l2Refresh l).withheld.getLsbD (off / 32) then none else some (lineByte (s.l2Refresh l).data off)
    | none =>
      match (s.translate tid tia).2 with
      | .ok leaf => some (if leaf.host then s.hostMem.get (s.hostAddr tid leaf.frame (tia % 65536))
          else s.dram.get (leaf.frame * 65536 + tia % 65536))
      | .error _ => none

/-- `n` bytes at dev scope, as an agent outside the cores reads them (the scheduler, the frame engine, the host window): L2 or
beyond, no L1. -/
def State.devRead (s : State) (tid tia n : Nat) (hostSeg : Bool) : State × Except WalkErr (List Byte) :=
  (List.range n).foldl (fun (acc : State × Except WalkErr (List Byte)) i =>
    match acc with
    | (s, .error e) => (s, .error e)
    | (s, .ok bs) =>
      let a := gia tid (tia + i)
      match s.home (a / 128) hostSeg with
      | (s, .error e) => (s, .error e)
      | (s, .ok h) =>
        match s.homeRead h (a / 128) (a % 128) 1 with
        | .error e => (s, .error e)
        | .ok b => (s, .ok (bs ++ b))) (s, .ok [])

/-- Bytes written at dev scope by an agent outside the cores, under byte enables, one line at a time. -/
def State.devWrite (s : State) (tid tia : Nat) (bytes : List (Option Byte)) (hostSeg : Bool) : State × Except WalkErr Unit :=
  (List.range ((tia % 128 + bytes.length + 127) / 128)).foldl (fun (acc : State × Except WalkErr Unit) k =>
    match acc with
    | (s, .error e) => (s, .error e)
    | (s, .ok _) =>
      let g := gia tid tia / 128 + k
      match s.l2Write g hostSeg with
      | (s, .error e) => (s, .error e)
      | (s, .ok (.uncached leaf)) =>
        if leaf.kind = 3 then (s, .error (.fail 4 1)) else
        s.homeWrite (.uncached leaf) g fun i => if tia % 128 ≤ 128 * k + i then (bytes[128 * k + i - tia % 128]?).join else none
      | (s, .ok h) => s.homeWrite h g fun i => if tia % 128 ≤ 128 * k + i then (bytes[128 * k + i - tia % 128]?).join else none)
    (s, .ok ())

/-! ## Instruction fetch (R176) -/

/-- Why a fetch is refused: PERM with this reason (R176, R178): 1 no segment, 2 no execute permission, 4 translation; or an abort. -/
inductive FetchErr where
  | perm (reason : Nat)
  | abort (unit place : Nat)
  deriving DecidableEq, Repr

/-- What a translation error makes of a fetch. -/
def WalkErr.fetch : WalkErr → FetchErr
  | .abort u p => .abort u p
  | .fail _ _ => .perm 4

/-- A line enters a core's instruction cache, most recently used; the least recently used of a full cache leaves (DESIGN CHOICE, assumption 109:
R176 names replacement and no policy). -/
def Core.icPut (c : Core) (l : ICLine) : Core :=
  { c with ic := (l :: c.ic.filter fun k => k.cid ≠ l.cid ∨ k.vline ≠ l.vline).take Config.icLines }

/-- A line enters a die's shared instruction level, with the same replacement (DESIGN CHOICE, assumption 109). -/
def State.silPut (s : State) (l : SILine) : State :=
  let sil := s.sil.filter fun k => k.die ≠ l.die ∨ k.mline ≠ l.mline
  { s with sil := l :: if sil.length < Config.silLines then sil
      else dropLastOf ((sil.countP fun k => k.die = l.die) + 1 - Config.silLines) (fun k => k.die = l.die) sil }

/-- The 128-byte line of code at a context's VA: the core's instruction cache, the die's shared level by machine address, the line's
home L2 slice (R176). A line with words withheld is cached in neither level, and serves only a word that was delivered (R373). A
DAMAGED frame is not fetched from (R376). -/
def State.fetchLine (s : State) (core cid va : Nat) : State × Except FetchErr (BitVec 1024) :=
  match (s.coreOf core).ic.find? fun l => l.cid = cid ∧ l.vline = va / 128 with
  | some l =>
    if (s.frame l.frame).damaged then (s, .error (.abort damagedUnit (l.frame * 65536)))
    else (s.modCore core fun k => k.icPut l, .ok l.data)
  | none =>
    let c := s.ctx cid
    match (if va < 2 ^ 48 then c.segOf va else none) with
    | none => (s, .error (.perm 1))
    | some i =>
      if segKind (c.seg i 3) ≠ 0 ∨ !bit (c.seg i 3) 2 then (s, .error (.perm 2)) else
      let tia := c.tia i va / 128 * 128
      match s.translate (cid / 4) tia with
      | (s, .error e) => (s, .error e.fetch)
      | (s, .ok leaf) =>
        if leaf.kind ≠ 1 ∨ leaf.host then (s, .error (.perm 4)) else
        let m := (leaf.frame * 65536 + tia % 65536) / 128
        let keep (s : State) (d : BitVec 1024) : State := s.modCore core fun k => k.icPut ⟨cid, va / 128, leaf.frame, d⟩
        match s.sil.find? fun l => l.die = dieOf core ∧ l.mline = m with
        | some l => (keep (s.silPut l) l.data, .ok l.data)
        | none =>
          match s.home (gia (cid / 4) tia / 128) false with
          | (s, .error e) => (s, .error e.fetch)
          | (s, .ok h) =>
            match s.homeRead h (gia (cid / 4) tia / 128) 0 128 with
            | .ok bs =>
              let d := lineOf fun i => bs[i]?.getD 0
              (keep (s.silPut ⟨dieOf core, m, d⟩) d, .ok d)
            | .error _ =>
              match s.homeRead h (gia (cid / 4) tia / 128) (va % 128 / 4 * 4) 4 with
              | .ok bs => (s, .ok (lineOf fun i => if va % 128 / 4 = i / 4 then bs[i % 4]?.getD 0 else 0))
              | .error e => (s, .error e.fetch)

/-- The code word at a context's VA (R16: words are little-endian, R2). -/
def State.fetchWord (s : State) (core cid va : Nat) : State × Except FetchErr W32 :=
  match s.fetchLine core cid va with
  | (s, .error e) => (s, .error e)
  | (s, .ok d) => (s, .ok (d.extractLsb' (8 * (va % 128)) 32))

/-- A word is a clause header: [31:25] = 0x7F (R17). -/
def isHeader (w : W32) : Bool := w.toNat / 33554432 = 127

/-- A code address stands at a clause header (R21): a multiple of 4, below 2⁴⁸, whose word is a header. An address whose word cannot be
fetched is not refused here; its fetch raises PERM (R176) (DEDUCED, assumption 23). -/
def State.headerAt (s : State) (core cid : Nat) (va : W64) : Bool :=
  decide (va.toNat % 4 = 0 ∧ va.toNat < 2 ^ 48) &&
    match (s.fetchWord core cid va.toNat).2 with
    | .ok w => isHeader w
    | .error _ => true

end Sys2Proof.Machine
end

