-- ==== Sys2Proof/Machine/Ops.lean ====
section
/-! DEFINITION. Machine/Ops.lean: the named operations over registers and groups, the common frame of an issue, and the taking of an
exception: the trap (R343 to R349) and the emulation entry (R140 to R154), each with its return. Memory's own operations are in
Machine/Arrays.lean and Machine/Path.lean. -/

namespace Sys2Proof.Machine

/-! ## Registers (R23, R25, R26) -/

/-- A free value: the `k`-th of the free values that the present issue may need (DESIGN CHOICE, assumption 1). -/
def freeVal (free k : Nat) : W64 := Config.freeWord (free * 65536 + k)

/-- Register n of a file is the destination of an instruction in flight, in lane l (bit 0 for a scalar) (R23) (DEDUCED, assumption 25). m0,
which takes no write, is none (R26). -/
def Group.isBusy (g : Group) (file : RegFile) (n l : Nat) : Bool :=
  (file ≠ .mask || n ≠ 0) && g.busy.any fun b => b.file = file && decide (b.first ≤ n) && decide (n < b.first + b.count) && bit b.lanes l

/-- Another write reaches registers in flight: their final value is undefined (R23). -/
def Group.hitBusy (g : Group) (file : RegFile) (n l : Nat) : Group :=
  if g.isBusy file n l then
    { g with busy := g.busy.map fun b =>
        if b.file = file && decide (b.first ≤ n) && decide (n < b.first + b.count) && bit b.lanes l
        then { b with hit := b.hit ||| (1#64 <<< l) } else b }
  else g

/-- Lane l of lane register r, as it is stored. -/
def Group.lane (g : Group) (r l : Nat) : W32 := tget 0 g.regs.lanes (64 * r + l)

/-- Scalar n; s0 reads as 0 (R25). -/
def Group.scal (g : Group) (n : Nat) : W64 := if n = 0 then 0 else tget 0 g.regs.scal n

/-- Mask n; m0 reads as all ones (R25). -/
def Group.mask (g : Group) (n : Nat) : W64 := if n = 0 then BitVec.allOnes 64 else tget 0 g.regs.masks n

/-- Lane l of lane register r as an instruction that issues reads it: undefined while it is a destination in flight (R23). -/
def Group.rdLane (g : Group) (free r l : Nat) : W32 :=
  if g.isBusy .lane r l then (freeVal free (64 * r + l)).setWidth 32 else g.lane r l

/-- Scalar n as an instruction that issues reads it (R23). -/
def Group.rdScal (g : Group) (free n : Nat) : W64 := if g.isBusy .scalar n 0 then freeVal free (16384 + n) else g.scal n

/-- Mask n as an instruction that issues reads it (R23). -/
def Group.rdMask (g : Group) (free n : Nat) : W64 :=
  maskOf fun l => if g.isBusy .mask n l then bit (freeVal free (32768 + n)) l else bit (g.mask n) l

/-- A register-form matrix operation that has not consumed its operands takes lane l of register r as part of an A row (R232). -/
def Flight.rowHas (f : Flight) (r l : Nat) : Bool :=
  !f.consumed && bit f.exec l && match f.instr, f.opnds with
    | .mmaR .., [_, first, count] | .mmsR .., [_, first, count] => decide (first.toNat ≤ r) && decide (r < first.toNat + count.toNat)
    | _, _ => false

/-- A write of lane l of register r makes such a row undefined (R232). -/
def Group.spoilRow (g : Group) (r l : Nat) : Group :=
  if g.flights.any fun f => f.rowHas r l then
    { g with flights := g.flights.map fun f => if f.rowHas r l then { f with spoiled := f.spoiled ||| (1#64 <<< l) } else f }
  else g

/-- A write of one lane of a lane register; a dead lane is never written (R10). -/
def Group.wrLane (g : Group) (r l : Nat) (v : W32) : Group :=
  if bit g.regs.dead l then g
  else { (g.hitBusy .lane r l).spoilRow r l with regs := { g.regs with lanes := tset 0 g.regs.lanes (64 * r + l) v } }

/-- A write of a scalar; a write to s0 is discarded (R25). -/
def Group.wrScal (g : Group) (n : Nat) (v : W64) : Group :=
  if n = 0 then g else { g.hitBusy .scalar n 0 with regs := { g.regs with scal := tset 0 g.regs.scal n v } }

/-- A write of one bit of a mask; m0 is never written (R26). -/
def Group.wrMaskBit (g : Group) (n l : Nat) (b : Bool) : Group :=
  if n = 0 then g else
  { g.hitBusy .mask n l with regs := { g.regs with
      masks := tset 0 g.regs.masks n (maskOf fun i => if i = l then b else bit (g.mask n) i) } }

/-- The bits of `lanes` of a mask written from `v`, the others unchanged. -/
def Group.wrMask (g : Group) (n : Nat) (lanes v : W64) : Group :=
  if n = 0 then g else
  let g := (bitList lanes).foldl (fun g l => g.hitBusy .mask n l) g
  { g with regs := { g.regs with
      masks := tset 0 g.regs.masks n (maskOf fun i => if bit lanes i then bit v i else bit (g.mask n) i) } }

/-- Lanes written one after another, each from a value formed beforehand. -/
def Group.wrLanes (g : Group) (lanes : W64) (f : Group → Nat → Group) : Group := (bitList lanes).foldl f g

/-! ## Names of operands (R146, R147) -/

/-- The handler level whose register names apply: 0 outside the handler, and in trap mode (DEDUCED, assumption 13). -/
def Group.hlevel (g : Group) : Nat := if g.trap.mode.isSome then 0 else g.emu.level

/-- Where a named operand is held. -/
inductive Loc where
  /-- A lane register; 128 to 131 are h0 to h3. -/
  | lane (r : Nat)
  | scal (n : Nat)
  | mask (n : Nat)
  | imm (v : W32)
  /-- Reads 0 and takes no write. -/
  | zero
  deriving DecidableEq, Repr

/-- The scalar that a scalar number names (R25, R146, R348): 56 to 63 are the trap bank in trap mode and t0 to t7 in handler mode. -/
def Group.scalNo (g : Group) (n : Nat) : Nat :=
  if n < 56 then n else if g.trap.mode.isSome then n + 24 else
  match g.emu.level with | 0 => n | 1 => n + 8 | _ => n + 16

/-- Operand descriptor i of a level's entry state. -/
def EmuEntry.w (e : EmuEntry) (i : Nat) : W64 := match i with | 0 => e.w0 | 1 => e.w1 | 2 => e.w2 | _ => e.w3

/-- The entry state of a level, while it is open (R140, R154). -/
def Emu.entryAt (e : Emu) (level : Nat) : EmuEntry := if level < e.level then e.bank else e.cur

/-- What a write of a descriptor stores: the fields of R144, and KIND 7 for 4 to 6. -/
def descStored (v : W64) : W64 :=
  let v := v &&& 0xFFFFFFFF00001F7F
  if 4 ≤ bits v 10 8 then v ||| 0x700 else v

/-- KIND, NUM, HM, DST, IMM of a descriptor (R144). -/
def descKind (d : W64) : Nat := bits d 10 8
def descNum (d : W64) : Nat := bits d 6 0
def descHm (d : W64) : Bool := bit d 12
def descImm (d : W64) : W32 := BitVec.ofNat 32 (bits d 63 32)

/-- A lane register of the group: at or above the declared count it reads 0 and takes no write (R147). -/
def Group.regLoc (g : Group) (r : Nat) : Loc := if r < g.nregs then .lane r else .zero

/-- The `count` registers that lane number `n` names at handler level `level`, aligned to `align`; none where the name is undefined
(R26, R146, R147). What a descriptor names that no word can encode: HM at level 1 has no level below it and names the group's own
registers (DESIGN CHOICE, assumption 100), a scalar number is taken modulo 64 and a mask number modulo 8, also where a group of registers
runs past the last (DESIGN CHOICE, assumption 101), and an immediate that stands for a pair, quad or octet gives IMM in every register (DESIGN CHOICE, assumption 102). -/
def Group.spanAt (g : Group) (count align : Nat) : Nat → Nat → Option (List Loc)
  | 0, n => if n % align = 0 ∧ n + count ≤ g.nregs then some ((List.range count).map fun i => .lane (n + i)) else none
  | level + 1, n =>
    if n < 0x78 then
      if n % align = 0 ∧ n + count ≤ g.nregs ∧ n + count ≤ 0x78 then some ((List.range count).map fun i => .lane (n + i)) else none
    else if n < 0x7C then
      if g.emurow ∧ (n - 0x78) % align = 0 ∧ n - 0x78 + count ≤ 4 then some ((List.range count).map fun i => .lane (128 + (n - 0x78) + i))
      else none
    else
      let d := (g.emu.entryAt (level + 1)).w (n - 0x7C)
      match descKind d with
      | 0 =>
        if descHm d ∧ 0x78 ≤ descNum d ∧ 0 < level then g.spanAt count align level (descNum d)
        else if descNum d % align = 0 then some ((List.range count).map fun i => g.regLoc (descNum d + i)) else none
      | 1 =>
        if descNum d % align ≠ 0 then none else
        some ((List.range count).map fun i =>
          let n := (descNum d + i) % 64
          .scal (if descHm d ∧ 56 ≤ n then n + 8 * level else n))
      | 2 => if descNum d % align ≠ 0 then none else some ((List.range count).map fun i => .mask ((descNum d + i) % 8))
      | 3 => some ((List.range count).map fun _ => .imm (descImm d))
      | _ => some ((List.range count).map fun _ => .zero)

/-- The registers that a lane operand names. -/
def Group.span (g : Group) (count align n : Nat) : Option (List Loc) := g.spanAt count align g.hlevel n

/-- Lane l of an operand as a source (R147). -/
def Group.rdLoc (g : Group) (free : Nat) (o : Loc) (l : Nat) : W32 :=
  match o with
  | .lane r => g.rdLane free r l
  | .scal n => (g.rdScal free n).setWidth 32
  | .mask n => if bit (g.rdMask free n) l then 1 else 0
  | .imm v => v
  | .zero => 0

/-- Lane l of an operand as a destination (R147). -/
def Group.wrLoc (g : Group) (o : Loc) (l : Nat) (v : W32) : Group :=
  match o with
  | .lane r => g.wrLane r l v
  | .mask n => g.wrMaskBit n l (v ≠ 0)
  | .scal _ => g
  | .imm _ => g
  | .zero => g

/-! ## The issuing quad-set -/

/-- The word at a quad-set's pc, where its clause is buffered. -/
def QSet.word? (q : QSet) : Option W32 :=
  match q.clause with
  | some c => c.words[(q.pc - c.hdr).toNat / 4]?
  | none => none

/-- The instruction at a quad-set's pc. -/
def QSet.instr? (q : QSet) : Option Instr :=
  match q.word? with
  | none => none
  | some w => match decodeWord w with | .ok i => some i | .error _ => none

/-- Scalar operands of the instructions that issue and then wait: they are read once, at the issue (R115). -/
def heldScalars : Instr → List Nat
  | .launch _ sa | .lwait _ sa | .finfo _ sa | .fresume _ sa => [sa.toNat]
  | .pwait sa | .sqinit sa => [sa.toNat]
  | .sqwait ss sn | .sqrel ss sn => [ss.toNat, sn.toNat]
  | .fretype _ sa sb | .fharvest _ sa sb => [sa.toNat, sb.toNat]
  | _ => []

/-- What issues: a quad-set, its group, team and launch, and the free values at hand. -/
structure Iss where
  g : Group
  q : QSet
  t : Team
  l : Launch
  free : Nat
  deriving DecidableEq, Repr

/-- The team and launch of a group. -/
def State.homeOf (s : State) (g : Group) : Option (Team × Launch) :=
  match s.team? g.team with
  | none => none
  | some t => match s.launch? t.launch with | none => none | some l => some (t, l)

/-- A quad-set with its group, team and launch. -/
def State.issAt (s : State) (grp tag : Nat) : Option Iss :=
  match s.group? grp with
  | none => none
  | some g =>
    match g.q? tag, s.homeOf g with
    | some q, some (t, l) => some ⟨g, q, t, l, s.free⟩
    | _, _ => none

/-- The quad-set chosen to issue next (R113). -/
def State.iss (s : State) : Option Iss :=
  match s.focus with
  | [] => none
  | f :: _ => s.issAt f.grp f.tag

/-- Lanes of mask n that the issuing quad-set has and that are not dead. -/
def Iss.masked (x : Iss) (n : Nat) : W64 := x.g.rdMask x.free n &&& ~~~x.g.regs.dead &&& quadLanes x.q.quads

/-- EXEC of R8 under mask n for the issuing quad-set: what a control instruction goes by at every handler level (R99, R148). -/
def Iss.exec0 (x : Iss) (n : Nat) : W64 := x.g.regs.live &&& widthLanes x.g.width &&& x.masked n

/-- EXEC of a lane instruction under mask n: that of R8, and in handler mode the one formed from %emask (R148). -/
def Iss.exec (x : Iss) (n : Nat) : W64 := if x.g.hlevel = 0 then x.exec0 n else x.g.emu.cur.emask &&& x.masked n

/-- Lanes below the width of the issuing quad-set (R94: the set B). -/
def Iss.lanes (x : Iss) : W64 := widthLanes x.g.width &&& quadLanes x.q.quads

/-- A scalar operand as it is read at issue: an instruction that has issued and been held keeps what it read (R115). -/
def Iss.s (x : Iss) (n : Nat) : W64 :=
  match x.q.hold.bind fun h => h.opnds.find? fun e => e.1 = n with
  | some e => e.2
  | none => x.g.rdScal x.free (x.g.scalNo n)

/-- The scalar operands that the instruction at the pc keeps while it waits. -/
def Iss.kept (x : Iss) : List (Nat × W64) :=
  match x.q.instr? with
  | some i => (heldScalars i).map fun n => (n, x.s n)
  | none => []

/-- Lane l of the i-th register of a lane operand, as it is read at issue. -/
def Iss.v (x : Iss) (o : List Loc) (i l : Nat) : W32 := x.g.rdLoc x.free (o.getD i .zero) l

/-- The registers of a lane operand of `count` registers; an undefined name has been refused before (R36). -/
def Iss.op (x : Iss) (count n : Nat) : List Loc := (x.g.span count count n).getD []

/-- The quad-set may run beside a handler (R105, R140, R347): in trap mode and in the emulation handler only the one that entered. A set
that SPLIT makes inside the handler waits for level 0 as the others do (DESIGN CHOICE, assumption 105). -/
def Iss.mayRun (x : Iss) : Bool :=
  match x.g.trap.mode with
  | some t => x.q.tag = t.tag
  | none => x.g.emu.level = 0 || x.q.tag = x.g.emu.tag

/-! ## Going on -/

/-- A quad-set after its instruction: the next word, in the same clause or at the header that follows it (R21). -/
def QSet.advance (q : QSet) : QSet :=
  let pc := q.pc + 4
  { q with
    pc := pc
    hold := none
    clause := match q.clause with
      | some c => if pc - c.hdr < BitVec.ofNat 64 (4 * c.words.length) then some c else none
      | none => none }

/-- A quad-set sent to a clause header, the rest of its clause abandoned (R21). -/
def QSet.goto (q : QSet) (pc : W64) : QSet := { q with pc := pc, hold := none, clause := none }

/-- The issuing quad-set goes on after its instruction. -/
def State.advance (s : State) (x : Iss) : State := s.modGroup x.g.ref fun g => g.modQ x.q.tag QSet.advance

/-- An instruction whose whole effect lies in its group. -/
def State.onGroup (s : State) (x : Iss) (f : Group → Group) : State :=
  s.modGroup x.g.ref fun g => (f g).modQ x.q.tag QSet.advance

/-- WAITLIM of a group in clocks: units of 1,024, 0 standing for 1 (R350) (DEDUCED, assumption 99). -/
def waitClocks (limit : W32) : Nat := (if limit = 0 then 1 else limit.toNat) * 1024

/-- The issuing quad-set is held. A wait in progress keeps its limit, its count and its operands (R115, R122, R350). -/
def State.hold (s : State) (x : Iss) (k : HoldKind) (bounded : Bool) : State :=
  s.modGroup x.g.ref fun g => g.modQ x.q.tag fun q => { q with
    hold := match q.hold with
      | some h => some { h with kind := k, bounded := bounded }
      | none => some ⟨k, bounded, waitClocks g.regs.waitlim, 0, x.kept⟩ }

/-! ## The end of a team -/

/-- Status codes of R135. -/
def stDone : Nat := 0
def stLease : Nat := 1
def stKernel : Nat := 2
def stFeature : Nat := 3
def stTrap : Nat := 4
def stMasked : Nat := 5

/-- A group that has retired: nothing of it issues any more (R337). -/
def Group.retired (g : Group) : Group :=
  { g with
    run := .retired, qsets := [], rstack := [], retstack := []
    trap := { g.trap with mode := none, pend := none, shadows := [], replay := [], parked := false }
    emu := { g.emu with level := 0 } }

/-- The team ends with a status, which its completion record keeps with the cause (R140, R150): every group retires; TEAM_END follows
once the team's copies and accesses are done (R337). -/
def State.endTeam (s : State) (team status : Nat) (cause : EndCause := .none) : State :=
  let s := s.modTeam team fun t =>
    if t.state = .ended ∨ t.state = .ending then t else { t with state := .ending, status := status, cause := cause }
  { s with groups := s.groups.map fun g => if g.team = team then g.retired else g }

/-! ## Taking a trap (R343 to R348) -/

/-- %tcause: PARTIAL, MORE and CAUSE (R344). -/
def tcauseWord (isPartial : Bool) (more cause : Nat) : W64 :=
  BitVec.ofNat 64 ((if isPartial then 32768 else 0) + more % 16 * 256 + cause % 256)

/-- Trap causes (R343). -/
def tcClause : Nat := 1
def tcTarget : Nat := 2
def tcUniform : Nat := 3
def tcAdmit : Nat := 4
def tcPerm : Nat := 5
def tcLayout : Nat := 6
def tcStale : Nat := 7
def tcStall : Nat := 8
def tcDivstack : Nat := 9
def tcEmuovf : Nat := 10
def tcBrk : Nat := 11
def tcTrap : Nat := 12
def tcMisalign : Nat := 13
def tcSparsemeta : Nat := 14
def tcShadow : Nat := 15

/-- %tdetail of PERM and MISALIGN: lane in [5:0], reason in [11:8] (R178). -/
def laneDetail (lane reason : Nat) : W64 := BitVec.ofNat 64 (lane % 64 + reason % 16 * 256)

/-- The lowest-numbered quad of a set. -/
def lowQuad (q : W16) : Nat := ((List.range 16).find? fun i => q.getLsbD i).getD 0

/-- Of a list of quad-sets, the one with the lowest-numbered quad. -/
def lowSet : List QSet → Option QSet
  | [] => none
  | q :: r => some (r.foldl (fun a b => if lowQuad b.quads < lowQuad a.quads then b else a) q)

/-- The quad-set that enters the trap handler: the one that issued the reported instruction (R347). Where it has left the group, as every
lane of it has died, the trap is not lost: the set with the lowest-numbered quad enters (DESIGN CHOICE, assumption 103). -/
def Group.entrant (g : Group) (tag : Nat) : Option QSet := (g.q? tag).orElse fun _ => lowSet g.qsets

/-- The group with the trap registers of one trap (R344) and the entering quad-set at the handler, in trap mode (R347). A set that has gone
on meanwhile, as the deaths that completed its REGANG let it, has nothing left for `.next` to pass over. -/
def Group.trapped (g : Group) (q : QSet) (r : TrapRec) (trh : W64) (reported : Option Nat) (isPartial : Bool) : Group :=
  let save : TrapSave := ⟨q.tag, ⟨q.pc, q.fmt, q.clause⟩, q.hold, r.atIssue && q.tag = r.tag && q.pc = r.pc, g.trap.replay, reported⟩
  let more := (g.trap.replay.filter fun f => some f.fid ≠ reported).length
  { g with trap := { g.trap with
      tcause := tcauseWord isPartial more r.cause, tpc := r.pc, taddr := r.addr, tdetail := r.detail
      mode := some save, pend := none, replay := [], parked := false } }.modQ q.tag (fun q => q.goto trh)

/-- A trap is entered (R347): without a handler the team ends with status TRAP, except that SHADOW is dropped (R343); in trap mode the
team ends; a handler address that is not a clause header ends the team (R122) (DEDUCED, assumption 89). -/
def State.enterTrap (s : State) (grp : Nat) (r : TrapRec) (reported : Option Flight) : State :=
  match s.group? grp with
  | none => s
  | some g =>
    match s.homeOf g, g.entrant r.tag with
    | some (t, l), some q =>
      let trh := (s.ctx l.cid).trh
      if trh = 0 ∧ r.cause = tcShadow then s
      else if trh = 0 ∨ g.trap.mode.isSome then s.endTeam g.team stTrap (.trap r.cause)
      else if !s.headerAt t.core l.cid trh then s.endTeam g.team stTrap (.trap r.cause)
      else s.modGroup grp fun g => g.trapped q r trh (reported.map (·.fid)) (reported.any fun f => f.done ≠ 0)
    | _, _ => s

/-- The issuing quad-set takes a trap at issue: at once when the group has nothing in flight and nothing before it to report, otherwise
once it has drained (R347, TRAP_ENTRY). Nothing of the instruction has taken effect (R343). -/
def State.raise (s : State) (x : Iss) (cause : Nat) (addr detail : W64) : State :=
  let r : TrapRec := ⟨cause, x.q.pc, addr, detail, x.q.tag, true⟩
  if x.g.trap.mode.isSome then s.endTeam x.g.team stTrap (.trap cause)
  else if x.g.flights = [] ∧ x.g.trap.replay = [] ∧ x.g.trap.shadows = [] then s.enterTrap x.g.ref r none
  else s.modGroup x.g.ref fun g => { g with trap := { g.trap with pend := some r } }

/-- A SHADOW trap waits for an instruction that the quad-set has yet to issue (R379). -/
def TrapSt.ahead (t : TrapSt) (q : QSet) : Bool := t.shadows.any fun k => k.src.isNone && k.trap.tag = q.tag

/-- A trap waits to be entered: no quad-set issues but one whose instruction a SHADOW trap waits for (R343, R347, R379). -/
def TrapSt.waits (t : TrapSt) : Bool := t.pend.isSome || (t.mode.isNone && !t.shadows.isEmpty)

/-- The instructions that execute in trap mode (R348); clause headers carry them. -/
def trapAllowed : Instr → Bool
  | .clauseHeader .. | .sadd .. | .ssub .. | .smul .. | .smulh .. | .smulhu .. | .sand .. | .sor .. | .sxor .. | .sandn .. | .sshl ..
  | .sshr .. | .ssra .. | .smin .. | .smax .. | .sminu .. | .smaxu .. | .spopc .. | .sclz .. | .smov .. | .sbfx .. | .saddi ..
  | .sandi .. | .sori .. | .sxori .. | .sshli .. | .sshri .. | .sli .. | .slui .. | .scmp .. | .scmpi .. | .ssel .. | .sget ..
  | .sset .. | .sdiv .. | .sdivu .. | .srem .. | .sremu .. | .br .. | .brm .. | .call .. | .bri .. | .calli .. | .ret | .nop | .exit
  | .sld .. | .sst .. | .satom .. | .fence .. | .fenceAcq .. | .fenceRel .. | .fenceLt | .fenceHv .. | .mofence | .pref .. | .clock ..
  | .cunlk .. | .cinv .. | .cwb .. | .vgetl .. | .vputl .. | .mget .. | .mset .. | .mpop .. | .mffs .. | .tret .. | .fbar => true
  | _ => false

/-! ## Transfers (R21) -/

/-- The issuing quad-set jumps to a clause header; any other target raises TARGET with %taddr the target (R21, R126). -/
def State.jump (s : State) (x : Iss) (target : W64) : State :=
  if s.headerAt x.t.core x.l.cid target then s.modGroup x.g.ref fun g => g.modQ x.q.tag fun q => q.goto target
  else s.raise x tcTarget target 0

/-- Target of a branching word: PC + 4·sext(offset) (R21). -/
def branchTarget (x : Iss) {n : Nat} (off : BitVec n) : W64 := x.q.pc + (off.signExtend 64 <<< 2)

/-! ## Entering the emulation handler (R140 to R147, R154) -/

/-- Word formats (R28). -/
inductive Fmt where
  | lr | li | lk | lc | lm | lp | la | mk | mt | sr | si | sl | br | mx | ms | cp | sy
  deriving DecidableEq, Repr

/-- OP of a word (R28). -/
def wordOp (w : W32) : Nat := w.toNat / 33554432

/-- Bits [hi:lo] of a word. -/
def wbits (w : W32) (hi lo : Nat) : Nat := w.toNat / 2 ^ lo % 2 ^ (hi + 1 - lo)

/-- The format of an opcode (R30); one that is unlisted or reserved decodes as LR (R145). -/
def fmtOf (op : Nat) : Fmt :=
  if (0x17 ≤ op ∧ op ≤ 0x1A) ∨ op = 0x1D ∨ op = 0x32 then .li
  else if op = 0x1B then .lk
  else if op = 0x1C ∨ op = 0x2B ∨ op = 0x2C then .lc
  else if op = 0x38 then .mk
  else if op = 0x39 then .mt
  else if op = 0x40 ∨ (0x49 ≤ op ∧ op ≤ 0x4C) ∨ op = 0x57 ∨ op = 0x60 ∨ op = 0x64 ∨ op = 0x65 ∨ op = 0x6B ∨ op = 0x6D then .sr
  else if (0x41 ≤ op ∧ op ≤ 0x46) ∨ op = 0x5E ∨ op = 0x5F then .si
  else if op = 0x47 ∨ op = 0x48 then .sl
  else if (0x50 ≤ op ∧ op ≤ 0x56) ∨ op = 0x6A then .br
  else if op = 0x58 then .sy
  else if 0x5A ≤ op ∧ op ≤ 0x5D then .lm
  else if 0x61 ≤ op ∧ op ≤ 0x63 then .la
  else if op = 0x66 ∨ op = 0x67 then .mx
  else if op = 0x68 then .ms
  else if op = 0x69 then .cp
  else if op = 0x6C then .lp
  else .lr

/-- The word is one of the generation-2 encodings that the Stolvon dropped (R157) (DEDUCED, assumption 30). -/
def compatWord (w : W32) : Bool :=
  let op := wordOp w
  (op = 0x1E && wbits w 1 0 = 0) || (op = 0x1F && wbits w 1 0 = 0 && wbits w 10 6 = 0)
    || (op = 0x2D && wbits w 1 0 = 0 && wbits w 10 4 = 0)
    || (op = 0x3A && wbits w 1 0 = 0 && wbits w 10 4 = 0 && wbits w 24 24 = 0)
    || (op = 0x59 && wbits w 24 0 = 0)

/-- Cause codes of %ecause (R142). -/
def ecUndef : Nat := 1
def ecMasked : Nat := 2
def ecRsvd : Nat := 3
def ecCompat : Nat := 4

/-- The cause of a word that is not an instruction, in the order of R36. -/
def wordCause (gen : Nat) (w : W32) : Nat :=
  if 0x6E ≤ wordOp w ∧ wordOp w ≤ 0x7E then ecRsvd else if gen = 2 ∧ compatWord w then ecCompat else ecUndef

/-- The mask number that a word uses as its execution mask; 0 where its format has no m field or R65 names m0 (R140). -/
def wordMask (gen : Nat) (w : W32) : Nat :=
  let op := wordOp w
  if gen = 2 ∧ op = 0x59 ∧ compatWord w then 0 else
  match fmtOf op with
  | .lr =>
    if op = 0x0F ∨ op = 0x10 ∨ op = 0x37 ∨ (op = 0x31 ∧ wbits w 10 10 = 1) then 0 else wbits w 3 2
  | .li => if op = 0x32 ∧ wbits w 10 10 = 1 then 0 else wbits w 3 2
  | .lk | .lc => wbits w 3 2
  | .lm | .lp => wbits w 1 0
  | _ => 0

/-- An operand descriptor (R144). -/
def desc (imm : W32) (hm dst : Bool) (kind num : Nat) : W64 :=
  BitVec.ofNat 64 (imm.toNat * 2 ^ 32 + (if hm then 4096 else 0) + (if dst then 2048 else 0) + kind * 256 + num)

/-- Bits [hi:lo] of a word sign-extended to 32 bits. -/
def wsext (w : W32) (hi lo : Nat) : W32 :=
  let n := hi + 1 - lo
  let v := wbits w hi lo
  BitVec.ofNat 32 (if v < 2 ^ (n - 1) then v else 2 ^ 32 - 2 ^ n + v)

/-- The sub-operation of an SR word writes sd; an undefined selector counts as writing it (R145). -/
def srWrites (w : W32) : Bool :=
  let op := wordOp w
  let fn := wbits w 6 1
  if op = 0x49 then false
  else if op = 0x4B then wbits w 0 0 = 0
  else if op = 0x60 then fn = 1 || 4 < fn
  else if op = 0x65 then decide (5 < wbits w 6 4)
  else if op = 0x6B then fn = 2 || 2 < fn
  else true

/-- The sub-operation of an LR word writes lane vd: VVOTE, VFOLD and VGETL write the scalar in vd[23:18]; an undefined selector counts as
writing it (R29, R145). -/
def lrWrites (w : W32) : Bool :=
  let op := wordOp w
  if op = 0x33 then wbits w 1 0 = 3
  else if op = 0x34 then decide (9 < wbits w 10 4)
  else if op = 0x37 then wbits w 1 0 ≠ 0
  else true

/-- %w0 to %w3 of a word, by its format (R145); `hm` at level 2 (DEDUCED, assumption 79). -/
def descriptors (gen : Nat) (hm : Bool) (w : W32) : W64 × W64 × W64 × W64 :=
  let op := wordOp w
  let d (dst : Bool) (kind num : Nat) : W64 := desc 0 hm dst kind num
  let im (v : W32) : W64 := desc v hm false 3 0
  let no : W64 := desc 0 hm false 7 0
  let vd := wbits w 24 18
  let va := wbits w 17 11
  let vb := wbits w 10 4
  if gen = 2 ∧ compatWord w then
    if op = 0x1E then (d true 0 vd, d false 0 va, d false 0 vb, no)
    else if op = 0x1F then (d true 0 vd, d false 0 va, no, im (wsext w 10 4))
    else if op = 0x2D then (d true 0 vd, d false 0 va, no, no)
    else if op = 0x3A then (d true 1 (wbits w 23 18), d false 0 va, no, no)
    else (no, no, no, im (BitVec.ofNat 32 (wbits w 18 0)))
  else match fmtOf op with
  | .lr => (d (lrWrites w) 0 vd, d false 0 va, d false 0 vb, no)
  | .li => (d true 0 vd, d false 0 va, no, im (wsext w 10 4))
  | .lk => (d true 0 vd, no, no, im (wsext w 17 4))
  | .lc => (d true 2 (wbits w 20 18), d false 0 va, if op = 0x1C then no else d false 0 vb,
      if op = 0x1C then im (wsext w 10 4) else no)
  | .lm => (d (op = 0x5A || op = 0x5C) 0 vd, d false 0 va, no, no)
  | .lp => (d true 0 vd, d false 0 va, d false 1 (wbits w 10 6), no)
  | .la => (d (vd ≠ 127 || (op = 0x63 && decide (12 ≤ wbits w 3 0))) 0 vd, d false 0 va, d false 0 vb, no)
  | .mk => (d true 2 (wbits w 20 18), d false 2 (wbits w 17 15), d false 2 (wbits w 14 12), no)
  | .mt => (d (wbits w 24 21 = 1 || 3 < wbits w 24 21) 2 (wbits w 20 18),
      d (wbits w 24 21 = 0 || wbits w 24 21 = 2 || wbits w 24 21 = 3) 1 (wbits w 17 12), no, no)
  | .sr => (d (srWrites w) 1 (wbits w 24 19), d false 1 (wbits w 18 13), d false 1 (wbits w 12 7),
      im (BitVec.ofNat 32 (wbits w 6 0)))
  | .si => (d (op ≠ 0x5F) 1 (wbits w 24 19), d false 1 (wbits w 18 13), no, im (wsext w 12 0))
  | .sl => (d true 1 (wbits w 24 19), no, no, im (wsext w 18 0))
  | .br => (no, no, no, im (wsext w 19 0))
  | .mx => (d true 0 vd, d false (if wbits w 5 5 = 1 then 0 else 1) va, d false 1 (wbits w 10 6), im (BitVec.ofNat 32 (wbits w 5 0)))
  | .ms => (d (4 < wbits w 7 4) 0 vd, d false 1 (wbits w 17 13), d false 1 (wbits w 12 8), im (BitVec.ofNat 32 (wbits w 7 0)))
  | .cp => (d false 1 (wbits w 24 20), d false 1 (wbits w 19 15), d false 1 (wbits w 14 10), im (BitVec.ofNat 32 (wbits w 9 0)))
  | .sy => (no, no, no, im (BitVec.ofNat 32 (wbits w 18 0)))

/-- Features in force for a launch (R143): EN of a group, and FATAL where it is masked. -/
def featOn (feat : W64) (f : Nat) : Bool := bit feat f
def featFatal (feat : W64) (f : Nat) : Bool := bit feat (16 + f) && !bit feat f

/-- The group in handler mode one level up (R140). -/
def Group.emulating (g : Group) (q : QSet) (e : EmuEntry) (eha : W64) : Group :=
  let saved : SavedPc := ⟨q.pc, q.fmt, q.clause⟩
  let emu := g.emu
  let emu := if emu.level = 0 then { emu with level := 1, tag := q.tag, cur := e, save1 := saved }
    else { emu with level := 2, bank := emu.cur, cur := e, save2 := saved }
  { g with emu := emu }.modQ q.tag fun q => q.goto eha

/-- A word that is not an instruction enters the emulation handler (R140): the steps of the rule in their order. In trap mode it ends the
team (R348). -/
def State.enterEmu (s : State) (x : Iss) (w : W32) (cause fgrp : Nat) : State :=
  if x.g.trap.mode.isSome then s.endTeam x.g.team stTrap (.word cause)
  else if cause = ecMasked ∧ featFatal x.l.feat fgrp then s.endTeam x.g.team stMasked (.word cause)
  else if x.g.flights ≠ [] then s.hold x (.drain s.next) false
  else if x.g.emu.level = 2 then s.raise x tcEmuovf 0 (BitVec.ofNat 64 cause)
  else
    let eha := (s.ctx x.l.cid).eha
    if eha = 0 then s.endTeam x.g.team stTrap (.word cause)
    else if !s.headerAt x.t.core x.l.cid eha then s.endTeam x.g.team stTrap (.word cause)
    else
      let ds := descriptors x.l.kernel.isa (x.g.emu.level = 1) w
      let ecause := BitVec.ofNat 64 (cause + if cause = ecMasked then (fgrp + 1) * 256 else 0)
      let e : EmuEntry := ⟨ecause, w.setWidth 64, x.q.pc, x.exec (wordMask x.l.kernel.isa w), ds.1, ds.2.1, ds.2.2.1, ds.2.2.2⟩
      s.modGroup x.g.ref fun g => g.emulating x.q e eha

/-! ## Returning -/

/-- ERET (R152): FMT and pc of the level come back, and one level is left. A matrix operation that the handler has completed counts in
%opc (R155); so does any other word of the two opcodes, an undefined one too (DESIGN CHOICE, assumption 104). -/
def Group.eret (g : Group) (tag : Nat) (retry : Bool) : Group :=
  let g := if !retry ∧ wordOp (g.emu.cur.eword.setWidth 32) ∈ [0x66, 0x67] then { g with regs := { g.regs with opc := g.regs.opc + 1 } } else g
  let saved := if g.emu.level = 2 then g.emu.save2 else g.emu.save1
  let emu := { g.emu with level := g.emu.level - 1, cur := if g.emu.level = 2 then g.emu.bank else g.emu.cur }
  let back (q : QSet) : QSet := { q with pc := saved.pc, fmt := saved.fmt, clause := saved.clause, hold := none }
  { g with emu := emu }.modQ tag fun q => if retry then back q else (back q).advance

/-- An entry of a replay list issued again: nothing follows it before it completes (R345, R349). -/
def Flight.replayed (f : Flight) : Flight :=
  { f with look := 0, after := 0, failed := 0, trap := none, demand := none, waited := 0, again := true, hits := [] }

/-- A replay list, or what is left of it, in flight again. What another write had reached of a destination stays undefined (R23). -/
def Group.replay (g : Group) (list : List Flight) : Group :=
  { g with flights := list.map Flight.replayed ++ g.flights, busy := g.busy ++ list.flatMap (·.hits) }

/-- The quad-set that leaves trap mode (R349): its FMT; its pc, after the reported instruction for `.next` of a trap at issue; its hold
afresh for `.retry`, given up for `.next`. -/
def TrapSave.back (t : TrapSave) (next : Bool) (q : QSet) : QSet :=
  let q := { q with pc := t.saved.pc, fmt := t.saved.fmt, clause := t.saved.clause, hold := t.hold.map fun h => { h with count := 0 } }
  if next ∧ t.atIssue then q.advance else q

/-- TRET .retry and .next (R349): trap mode ends and the replay list is replayed, without the reported entry for `.next`. What the saved
hold waits for is looked at afterwards, by `Group.settle`. -/
def Group.tret (g : Group) (t : TrapSave) (next : Bool) : Group :=
  let list := if next then t.replay.filter fun f => some f.fid ≠ t.reported else t.replay
  ({ g with trap := { g.trap with mode := none, replay := [] } }.replay list).modQ t.tag (t.back next)

end Sys2Proof.Machine
end

