-- ==== Sys2Proof/Machine/Flags.lean ====
section
/-! DEFINITION. Machine/Flags.lean: the condition flags %cc and the conditions of R31, and the sticky flags %fpstat (R57). -/

namespace Sys2Proof.Machine

/-- %cc of the difference a − b: [3] N, [2] Z, [1] C, [0] V (R27, R31). -/
def ccOfDiff (a b : W64) : BitVec 4 :=
  let d := a - b
  let n := bit d 63
  let z := decide (d = 0)
  let c := decide (b.toNat ≤ a.toNat)
  let v := decide (a.toInt - b.toInt < -(2 ^ 63) ∨ 2 ^ 63 ≤ a.toInt - b.toInt)
  BitVec.ofNat 4 (8 * n.toNat + 4 * z.toNat + 2 * c.toNat + v.toNat)

/-- Scalar and branch conditions 0 to 12 over %cc (R31). -/
def condHolds (cc : BitVec 4) (c : Nat) : Bool :=
  let n := cc.getLsbD 3
  let z := cc.getLsbD 2
  let cy := cc.getLsbD 1
  let v := cc.getLsbD 0
  match c with
  | 0 => true
  | 1 => z
  | 2 => !z
  | 3 => n != v
  | 4 => n == v
  | 5 => z || n != v
  | 6 => !z && n == v
  | 7 => !cy
  | 8 => cy
  | 9 => !cy || z
  | 10 => cy && !z
  | 11 => v
  | 12 => !v
  | _ => false

/-- Lane compare conditions 0 to 5 from "less" and "equal" (R31). -/
def laneCond (c : Nat) (lt eq : Bool) : Bool :=
  match c with
  | 0 => eq
  | 1 => !eq
  | 2 => lt
  | 3 => lt || eq
  | 4 => !lt && !eq
  | 5 => !lt
  | _ => false

/-- A write of %cc. -/
def Group.setCc (g : Group) (cc : BitVec 4) : Group := { g with regs := { g.regs with cc := cc } }

/-- Flags ORed into %fpstat (R57). -/
def Group.orFp (g : Group) (f : BitVec 5) : Group := { g with regs := { g.regs with fpstat := g.regs.fpstat ||| f } }

end Sys2Proof.Machine
end

