-- ==== Sys2Proof/Machine/Float.lean ====
section
/-! DEFINITION. Machine/Float.lean: the floating formats of R44 and R46, one rounding (R51, R52), and the exact arithmetic of the lane
engine over them (R54, R55, R59). A finite value is sign, magnitude and exponent: (−1)^s · m · 2^e. -/

namespace Sys2Proof.Machine

/-- NaN patterns of a format (R46). -/
inductive NanKind where
  | ieee | single | none
  deriving DecidableEq, Repr

/-- A floating format: sign bit, exponent and fraction widths, bias, NaNs (R46). -/
structure FFmt where
  signed : Bool
  eb : Nat
  mb : Nat
  bias : Nat
  nan : NanKind
  deriving DecidableEq, Repr

def fF64 : FFmt := ⟨true, 11, 52, 1023, .ieee⟩
def fF32 : FFmt := ⟨true, 8, 23, 127, .ieee⟩
def fF19 : FFmt := ⟨true, 8, 10, 127, .ieee⟩
def fBF16 : FFmt := ⟨true, 8, 7, 127, .ieee⟩
def fF16 : FFmt := ⟨true, 5, 10, 15, .ieee⟩
def fE5M2 : FFmt := ⟨true, 5, 2, 15, .ieee⟩
def fE4M3 : FFmt := ⟨true, 4, 3, 7, .single⟩
def fE3M4 : FFmt := ⟨true, 3, 4, 3, .single⟩
def fE3M2 : FFmt := ⟨true, 3, 2, 3, .none⟩
def fE2M3 : FFmt := ⟨true, 2, 3, 1, .none⟩
def fE2M1 : FFmt := ⟨true, 2, 1, 1, .none⟩
def fU8F : FFmt := ⟨false, 4, 4, 7, .none⟩

/-- A decoded value; a NaN is signalling or quiet (R46). -/
inductive FVal where
  | nan (sig : Bool)
  | inf (neg : Bool)
  | fin (neg : Bool) (m : Nat) (e : Int)
  deriving DecidableEq, Repr

/-- The value of a code (R46). -/
def fdec (f : FFmt) (c : Nat) : FVal :=
  let neg := f.signed && decide (c / 2 ^ (f.eb + f.mb) % 2 = 1)
  let ex := c / 2 ^ f.mb % 2 ^ f.eb
  let fr := c % 2 ^ f.mb
  let top := ex = 2 ^ f.eb - 1
  if f.nan = .ieee ∧ top then (if fr = 0 then .inf neg else .nan (decide (fr < 2 ^ (f.mb - 1))))
  else if f.nan = .single ∧ top ∧ fr = 2 ^ f.mb - 1 then .nan false
  else if ex = 0 then .fin neg fr (1 - (f.bias : Int) - f.mb)
  else .fin neg (2 ^ f.mb + fr) ((ex : Int) - f.bias - f.mb)

/-- Sign bit of a format as a number. -/
def fsign (f : FFmt) (neg : Bool) : Nat := if neg && f.signed then 2 ^ (f.eb + f.mb) else 0

/-- Code of the largest finite magnitude (R46). -/
def fmaxCode (f : FFmt) : Nat :=
  match f.nan with
  | .ieee => (2 ^ f.eb - 1) * 2 ^ f.mb - 1
  | .single => 2 ^ (f.eb + f.mb) - 2
  | .none => 2 ^ (f.eb + f.mb) - 1

/-- The default NaN (R54); for E4M3 and E3M4 the positive NaN code. -/
def fnan (f : FFmt) : Nat :=
  match f.nan with
  | .ieee => (2 ^ f.eb - 1) * 2 ^ f.mb + 2 ^ (f.mb - 1)
  | .single => 2 ^ (f.eb + f.mb) - 1
  | .none => 0

/-- Infinity, or the NaN that stands in its place in a format without one (R52). -/
def finf (f : FFmt) : Nat := if f.nan = .ieee then (2 ^ f.eb - 1) * 2 ^ f.mb else fnan f

/-- Flags of %fpstat (R56). -/
def fNV : BitVec 5 := 1
def fDZ : BitVec 5 := 2
def fOF : BitVec 5 := 4
def fUF : BitVec 5 := 8
def fNX : BitVec 5 := 16

/-- Bits of a number. -/
def bitLen (n : Nat) : Nat := if n = 0 then 0 else n.log2 + 1

/-- n/2^sh rounded to an integer, and whether it was inexact: mode 0 RN, 1 RZ, 2 RD, 3 RU (R51). -/
def roundShift (rm : Nat) (neg : Bool) (n sh : Nat) : Nat × Bool :=
  let hi := n / 2 ^ sh
  let rem := n % 2 ^ sh
  let inexact := decide (rem ≠ 0)
  let up := match rm with
    | 0 => decide (2 ^ sh < 2 * rem) || (decide (2 * rem = 2 ^ sh) && inexact && decide (hi % 2 = 1))
    | 1 => false
    | 2 => neg && inexact
    | _ => !neg && inexact
  (if up then hi + 1 else hi, inexact)

/-- m·2^e rounded to a multiple of 2^q. -/
def roundUnit (rm : Nat) (neg : Bool) (m : Nat) (e q : Int) : Nat × Bool :=
  if q ≤ e then (m * 2 ^ (e - q).toNat, false) else roundShift rm neg m (q - e).toNat

/-- The overflow result of a rounding mode: the infinity, or the largest finite (R52). -/
def overflowsToInf (rm : Nat) (neg : Bool) : Bool :=
  match rm with | 0 => true | 1 => false | 2 => neg | _ => !neg

/-- A finite nonzero value rounded once into a format (R51, R52): the code and the flags. Tininess is found after rounding with no
bound below (R54, IEEE 754-2019). -/
def fround (f : FFmt) (rm : Nat) (sat neg : Bool) (m : Nat) (e : Int) : Nat × BitVec 5 :=
  if m = 0 then (fsign f neg, 0) else
  let p := f.mb + 1
  let emin : Int := 1 - f.bias
  let q0 : Int := (bitLen m : Int) + e - p
  let q := max q0 (emin - f.mb)
  let (r, inexact) := roundUnit rm neg m e q
  let (r, q) := if 2 ^ p ≤ r then (r / 2, q + 1) else (r, q)
  let ru := roundUnit rm neg m e q0
  let tiny := decide ((bitLen m : Int) + e - 1 < emin) && !(decide ((bitLen m : Int) + e = emin) && decide (2 ^ p ≤ ru.1))
  let ex : Int := if r < 2 ^ f.mb then 0 else q + f.mb + f.bias
  let mag : Nat := if r < 2 ^ f.mb then r else ex.toNat * 2 ^ f.mb + (r - 2 ^ f.mb)
  let under := if tiny && inexact then fUF ||| fNX else if inexact then fNX else 0
  if !f.signed && neg then
    (if r = 0 then (0, fUF ||| fNX) else (0, fNV))
  else if mag ≤ fmaxCode f ∧ ex < 2 ^ f.eb then (fsign f neg + mag, under)
  else if f.nan = .none ∨ (f.nan = .single ∧ sat) then (fsign f neg + fmaxCode f, fOF ||| fNX)
  else (fsign f neg + (if overflowsToInf rm neg then finf f else fmaxCode f), fOF ||| fNX)

/-- A value converted into a format (R52). -/
def fconv (f : FFmt) (rm : Nat) (sat : Bool) (v : FVal) : Nat × BitVec 5 :=
  match v with
  | .fin neg m e => if m = 0 ∧ !f.signed then (0, 0) else fround f rm sat neg m e
  | .inf neg =>
    match f.nan with
    | .ieee => (fsign f neg + finf f, 0)
    | .single => if sat then (fsign f neg + fmaxCode f, fNX) else (fsign f neg + fnan f, fNV)
    | .none => if !f.signed && neg then (0, fNV) else (fsign f neg + fmaxCode f, fNX)
  | .nan sig =>
    match f.nan with
    | .none => (0, fNV)
    | _ => (fnan f, if sig then fNV else 0)

/-- A NaN code of E4M3 and E3M4 keeps the sign of the NaN converted (R52). -/
def fconvSigned (f : FFmt) (rm : Nat) (sat : Bool) (v : FVal) (srcNeg : Bool) : Nat × BitVec 5 :=
  match v, f.nan with
  | .nan sig, .single => (fsign f srcNeg + fnan f, if sig then fNV else 0)
  | _, _ => fconv f rm sat v

/-! ## Exact arithmetic, rounded once (R54) -/

/-- NV of the operands: a signalling NaN raises it (R54). -/
def nvOf (vs : List FVal) : BitVec 5 := if vs.any fun v => v = .nan true then fNV else 0

/-- The exact sum of two finite values; an exact zero is +0, or −0 in RD, unless both addends are −0 (R61, IEEE 754). -/
def addFin (rm : Nat) (na : Bool) (ma : Nat) (ea : Int) (nb : Bool) (mb : Nat) (eb : Int) : FVal :=
  let e := min ea eb
  let a : Int := (if na then -1 else 1) * (ma * 2 ^ (ea - e).toNat : Nat)
  let b : Int := (if nb then -1 else 1) * (mb * 2 ^ (eb - e).toNat : Nat)
  let s := a + b
  if s = 0 then
    (if ma = 0 ∧ mb = 0 ∧ na = nb then .fin na 0 e else .fin (rm = 2) 0 e)
  else .fin (s < 0) s.natAbs e

/-- The negative of a value. -/
def fneg : FVal → FVal
  | .nan s => .nan s
  | .inf n => .inf !n
  | .fin n m e => .fin (!n) m e

/-- The sum before rounding, with its flags; a NaN result is the default NaN (R54). -/
def faddV (rm : Nat) (a b : FVal) : FVal × BitVec 5 :=
  match a, b with
  | .nan _, _ => (.nan false, nvOf [a, b])
  | _, .nan _ => (.nan false, nvOf [a, b])
  | .inf na, .inf nb => if na = nb then (.inf na, 0) else (.nan false, fNV)
  | .inf na, .fin .. => (.inf na, 0)
  | .fin .., .inf nb => (.inf nb, 0)
  | .fin na ma ea, .fin nb mb eb => (addFin rm na ma ea nb mb eb, 0)

/-- The exact product (R79: ∞·0 raises NV and gives a NaN). -/
def fmulV (a b : FVal) : FVal × BitVec 5 :=
  match a, b with
  | .nan _, _ => (.nan false, nvOf [a, b])
  | _, .nan _ => (.nan false, nvOf [a, b])
  | .inf na, .inf nb => (.inf (na != nb), 0)
  | .inf na, .fin nb mb _ => if mb = 0 then (.nan false, fNV) else (.inf (na != nb), 0)
  | .fin na ma _, .inf nb => if ma = 0 then (.nan false, fNV) else (.inf (na != nb), 0)
  | .fin na ma ea, .fin nb mb eb => (.fin (na != nb) (ma * mb) (ea + eb), 0)

/-- A value of a lane operation written into its format: rounded once, flags joined. -/
def ffinish (f : FFmt) (rm : Nat) (r : FVal × BitVec 5) : Nat × BitVec 5 :=
  let c := fconv f rm false r.1
  (c.1, c.2 ||| r.2)

def fadd (f : FFmt) (rm a b : Nat) : Nat × BitVec 5 := ffinish f rm (faddV rm (fdec f a) (fdec f b))
def fsub (f : FFmt) (rm a b : Nat) : Nat × BitVec 5 := ffinish f rm (faddV rm (fdec f a) (fneg (fdec f b)))
def fmul (f : FFmt) (rm a b : Nat) : Nat × BitVec 5 := ffinish f rm (fmulV (fdec f a) (fdec f b))

/-- x·y + d, the product and the sum exact and rounded once; `np` negates the product, `nd` the addend (R79). -/
def ffma (f : FFmt) (rm : Nat) (np nd : Bool) (x y d : Nat) : Nat × BitVec 5 :=
  let p := fmulV (fdec f x) (fdec f y)
  let dv := if nd then fneg (fdec f d) else fdec f d
  let s := faddV rm (if np then fneg p.1 else p.1) dv
  ffinish f rm (s.1, s.2 ||| p.2)

/-- Ordering of two numbers, −0 below +0 when `zeros` (R55). -/
def fltV (zeros : Bool) (a b : FVal) : Bool :=
  match a, b with
  | .inf na, .inf nb => na && !nb
  | .inf na, .fin .. => na
  | .fin .., .inf nb => !nb
  | .fin na ma ea, .fin nb mb eb =>
    let e := min ea eb
    let x : Int := (if na then -1 else 1) * (ma * 2 ^ (ea - e).toNat : Nat)
    let y : Int := (if nb then -1 else 1) * (mb * 2 ^ (eb - e).toNat : Nat)
    decide (x < y) || (zeros && decide (x = y) && na && !nb)
  | _, _ => false

/-- Equality of two numbers, −0 equal to +0 (R78). -/
def feqV (a b : FVal) : Bool :=
  match a, b with
  | .nan _, _ => false
  | _, .nan _ => false
  | a, b => !fltV false a b && !fltV false b a

/-- minimumNumber and maximumNumber (R55). -/
def fminmax (f : FFmt) (wantMax : Bool) (a b : Nat) : Nat × BitVec 5 :=
  let x := fdec f a
  let y := fdec f b
  match x, y with
  | .nan _, .nan _ => (fnan f, nvOf [x, y])
  | .nan _, _ => (b, nvOf [x])
  | _, .nan _ => (a, nvOf [y])
  | _, _ => (if fltV true x y != wantMax then a else b, 0)

/-- Floating compares (R31, R78): conditions 0 EQ to 7 UNO, with NV. -/
def fcmp (f : FFmt) (c a b : Nat) : Bool × BitVec 5 :=
  let x := fdec f a
  let y := fdec f b
  let isNan : FVal → Bool := fun v => match v with | .nan _ => true | _ => false
  let un := isNan x || isNan y
  let nv := if un && (decide (2 ≤ c) && decide (c ≤ 5)) then fNV else nvOf [x, y]
  let r := match c with
    | 0 => feqV x y
    | 1 => !feqV x y
    | 2 => fltV false x y
    | 3 => !un && !fltV false y x
    | 4 => fltV false y x
    | 5 => !un && !fltV false x y
    | 6 => !un
    | _ => un
  (r, nv)

/-- Division, correctly rounded (R80). -/
def fdiv (f : FFmt) (rm a b : Nat) : Nat × BitVec 5 :=
  let x := fdec f a
  let y := fdec f b
  match x, y with
  | .nan _, _ => (fnan f, nvOf [x, y])
  | _, .nan _ => (fnan f, nvOf [x, y])
  | .inf _, .inf _ => (fnan f, fNV)
  | .inf na, .fin nb _ _ => (fsign f (na != nb) + finf f, 0)
  | .fin na _ _, .inf nb => (fsign f (na != nb), 0)
  | .fin na ma ea, .fin nb mb eb =>
    if mb = 0 then (if ma = 0 then (fnan f, fNV) else (fsign f (na != nb) + finf f, fDZ))
    else if ma = 0 then (fsign f (na != nb), 0)
    else
      let k := 130 + bitLen mb
      let n := ma * 2 ^ k
      fround f rm false (na != nb) (2 * (n / mb) + (if n % mb = 0 then 0 else 1)) (ea - eb - k - 1)

/-- Integer square root, bit by bit from bit `fuel − 1`. -/
def isqrt (n : Nat) : Nat → Nat → Nat
  | 0, r => r
  | k + 1, r => let t := r + 2 ^ k; isqrt n k (if t * t ≤ n then t else r)

/-- Square root, correctly rounded in a mode (R59). -/
def fsqrt (f : FFmt) (rm a : Nat) : Nat × BitVec 5 :=
  match fdec f a with
  | .nan s => (fnan f, if s then fNV else 0)
  | .inf true => (fnan f, fNV)
  | .inf false => (a, 0)
  | .fin neg m e =>
    if m = 0 then (a, 0) else if neg then (fnan f, fNV) else
    let (m, e) := if e % 2 = 0 then (m, e) else (2 * m, e - 1)
    let n := m * 2 ^ 200
    let r := isqrt n 130 0
    fround f rm false false (2 * r + (if r * r = n then 0 else 1)) (e / 2 - 101)

/-- Reciprocal, rounded to nearest (R58, R59). -/
def frcp (f : FFmt) (a : Nat) : Nat × BitVec 5 :=
  match fdec f a with
  | .nan s => (fnan f, if s then fNV else 0)
  | .inf neg => (fsign f neg, 0)
  | .fin neg m e =>
    if m = 0 then (fsign f neg + finf f, fDZ) else
    let k := 130 + bitLen m
    fround f 0 false neg (2 * (2 ^ k / m) + (if 2 ^ k % m = 0 then 0 else 1)) (-e - k - 1)

/-- Reciprocal square root, rounded to nearest (R58, R59). -/
def frsq (f : FFmt) (a : Nat) : Nat × BitVec 5 :=
  match fdec f a with
  | .nan s => (fnan f, if s then fNV else 0)
  | .inf true => (fnan f, fNV)
  | .inf false => (0, 0)
  | .fin neg m e =>
    if m = 0 then (fsign f neg + finf f, fDZ) else if neg then (fnan f, fNV) else
    let (m, e) := if e % 2 = 0 then (m, e) else (2 * m, e - 1)
    let n := 2 ^ 340 / m
    let r := isqrt n 171 0
    fround f 0 false false (2 * r + (if r * r * m = 2 ^ 340 then 0 else 1)) (-(e / 2) - 171)

/-- x · 2^n, formed exactly and rounded once (R81) (DEDUCED, assumption 80). -/
def fscale (f : FFmt) (rm a : Nat) (n : Int) : Nat × BitVec 5 :=
  match fdec f a with
  | .nan s => (fnan f, if s then fNV else 0)
  | .inf _ => (a, 0)
  | .fin neg m e => if m = 0 then (a, 0) else fround f rm false neg m (e + max (min n 5000) (-5000))

/-- Absolute value and negation: a NaN gives the default NaN (R82). -/
def fabsCode (f : FFmt) (a : Nat) : Nat × BitVec 5 :=
  match fdec f a with
  | .nan s => (fnan f, if s then fNV else 0)
  | _ => (a % 2 ^ (f.eb + f.mb), 0)
def fnegCode (f : FFmt) (a : Nat) : Nat × BitVec 5 :=
  match fdec f a with
  | .nan s => (fnan f, if s then fNV else 0)
  | _ => ((a + 2 ^ (f.eb + f.mb)) % 2 ^ (1 + f.eb + f.mb), 0)

/-- A finite value rounded to an integral one in a mode: its magnitude. -/
def integralOf (rm : Nat) (neg : Bool) (m : Nat) (e : Int) : Nat × Bool := roundUnit rm neg m e 0

/-- VFRND: rounded to an integral value of the same format; the sign of zero is kept and NX is not raised (R82). -/
def frnd (f : FFmt) (rm a : Nat) : Nat × BitVec 5 :=
  match fdec f a with
  | .nan s => (fnan f, if s then fNV else 0)
  | .inf _ => (a, 0)
  | .fin neg m e => ((fround f 0 false neg (integralOf rm neg m e).1 0).1, 0)

/-- VFFRC: x − VFRND.D(x); +0 for an integral x (R82). -/
def ffrc (f : FFmt) (rm a : Nat) : Nat × BitVec 5 :=
  match fdec f a with
  | .nan s => (fnan f, if s then fNV else 0)
  | .inf _ => (fnan f, fNV)
  | .fin neg m e =>
    let i := integralOf 2 neg m e
    if !i.2 then (0, 0) else ffinish f rm (addFin rm neg m e (!neg) i.1 0, 0)

/-- VFCLASS: bits from 0 up: −∞, negative normal, negative subnormal, −0, +0, positive subnormal, positive normal, +∞, signalling
NaN, quiet NaN (R83). -/
def fclass (f : FFmt) (a : Nat) : Nat :=
  match fdec f a with
  | .nan true => 256
  | .nan false => 512
  | .inf true => 1
  | .inf false => 128
  | .fin neg m _ =>
    if m = 0 then (if neg then 8 else 16)
    else if m < 2 ^ f.mb then (if neg then 4 else 32)
    else (if neg then 2 else 64)

/-- The minimum and maximum of an integer format. -/
def toIntSat (rm : Nat) (lo hi : Int) (v : FVal) : Int × BitVec 5 :=
  match v with
  | .nan _ => (0, fNV)
  | .inf neg => (if neg then lo else hi, fNV)
  | .fin neg m e =>
    let r := integralOf rm neg m e
    let i : Int := if neg then -(r.1 : Int) else r.1
    if i < lo then (lo, fNV) else if hi < i then (hi, fNV) else (i, if r.2 then fNX else 0)

/-- An integer converted into a floating format (R53). -/
def ofInt (f : FFmt) (rm : Nat) (sat : Bool) (i : Int) : Nat × BitVec 5 := fconv f rm sat (.fin (i < 0) i.natAbs 0)

end Sys2Proof.Machine
end

