-- ==== Sys2Proof/Machine/Operands.lean ====
section
/-! DEFINITION. Machine/Operands.lean: what a word's operands name, when a word is undefined (R26, R36, R147), the feature groups of a
word (R37), the common frame of every issue, and the operand forms of lane instructions (R63, R64). -/

namespace Sys2Proof.Machine

/-! ## Operands by instruction -/

/-- A lane operand of a word: register number, registers, and whether it is a destination. -/
structure LaneUse where
  num : Nat
  count : Nat
  dest : Bool
  deriving DecidableEq, Repr

/-- A destination and two sources of one size. -/
def use3 (vd va vb n : Nat) : List LaneUse := [⟨vd, n, true⟩, ⟨va, n, false⟩, ⟨vb, n, false⟩]

/-- A destination and one source of one size. -/
def use2 (vd va n : Nat) : List LaneUse := [⟨vd, n, true⟩, ⟨va, n, false⟩]

/-- Registers of a value of a type: a pair for .F64 (R64). -/
def f64Regs (ty : Nat) : Nat := if ty = 1 then 2 else 1

/-- Source and destination registers of a conversion code (R34, R84). -/
def convRegs (code : Nat) : Nat × Nat :=
  if code = 0 ∨ code = 7 ∨ code = 9 then (1, 2)
  else if code = 1 ∨ code = 6 ∨ code = 8 ∨ code = 0x10 ∨ code = 0x11 then (2, 1)
  else if code = 0x12 ∨ code = 0x13 then (1, 2)
  else if 0x20 ≤ code ∧ code < 0x28 then (4, 1)
  else if 0x28 ≤ code ∧ code < 0x30 then (1, 4)
  else if 0x30 ≤ code ∧ code < 0x38 then (8, 1)
  else if 0x38 ≤ code then (1, 8)
  else (1, 1)

/-- Registers of a load or store size: pairs for .B64, quads for .B128 (R33). -/
def szRegs (sz : Nat) : Nat := if sz = 5 then 2 else if sz = 6 then 4 else 1

/-- Registers of an address: the scratchpad offset in one register, a global address in a pair (R177). -/
def spRegs (sp : Nat) : Nat := if sp = 1 then 1 else 2

/-- The lane operands of a word other than a matrix operation, whose operands depend on FMT (R25, R26). A lane atomic
whose vd field is 0x7F is the reduction form at every handler level, where R146 by itself would make 0x7F the window 3 (R24, R189) (DEDUCED,
assumption 124). -/
def laneUses : Instr → List LaneUse
  | .vadd vd va vb _ _ | .vsub vd va vb _ _ | .vmul vd va vb _ _ | .vmad vd va vb _ _ | .vmin vd va vb _ _ | .vmax vd va vb _ _
  | .vabsd vd va vb _ _ | .vdp4 vd va vb _ _ => use3 vd.toNat va.toNat vb.toNat 1
  | .vmulh vd va vb _ _ | .vshr vd va vb _ _ | .vbfx vd va vb _ _ | .vclmul vd va vb _ _ => use3 vd.toNat va.toNat vb.toNat 1
  | .vand vd va vb _ | .vor vd va vb _ | .vxor vd va vb _ | .vandn vd va vb _ | .vshl vd va vb _ | .vaddc vd va vb _
  | .vsel vd va vb _ | .vbfi vd va vb _ => use3 vd.toNat va.toNat vb.toNat 1
  | .vpopc vd va _ | .vclz vd va _ | .vbrev vd va _ | .vneg vd va _ | .vmov vd va _ => use2 vd.toNat va.toNat 1
  | .vaddi vd va _ _ _ | .vmuli vd va _ _ _ | .vshri vd va _ _ _ => use2 vd.toNat va.toNat 1
  | .vshli vd va _ _ | .vandi vd va _ _ => use2 vd.toNat va.toNat 1
  | .vli vd _ _ => [⟨vd.toNat, 1, true⟩]
  | .vcmpi _ _ va _ _ _ => [⟨va.toNat, 1, false⟩]
  | .vcmp _ _ va vb _ _ => [⟨va.toNat, 1, false⟩, ⟨vb.toNat, 1, false⟩]
  | .vfcmp _ _ va vb _ ty => [⟨va.toNat, f64Regs ty.toNat, false⟩, ⟨vb.toNat, f64Regs ty.toNat, false⟩]
  | .vfadd vd va vb _ ty | .vfsub vd va vb _ ty | .vfmul vd va vb _ ty | .vfma vd va vb _ ty | .vfms vd va vb _ ty
  | .vfnma vd va vb _ ty | .vfmin vd va vb _ ty | .vfmax vd va vb _ ty => use3 vd.toNat va.toNat vb.toNat (f64Regs ty.toNat)
  | .vfrcp vd va _ ty | .vfrsq vd va _ ty | .vfsqrt vd va _ ty | .vfexp2 vd va _ ty | .vflog2 vd va _ ty | .vfsin vd va _ ty
  | .vfcos vd va _ ty | .vfabs vd va _ ty | .vfneg vd va _ ty | .vfrndN vd va _ ty | .vfrndZ vd va _ ty | .vfrndD vd va _ ty
  | .vfrndU vd va _ ty | .vffrc vd va _ ty => use2 vd.toNat va.toNat (f64Regs ty.toNat)
  | .vfclass vd va _ ty => [⟨vd.toNat, 1, true⟩, ⟨va.toNat, f64Regs ty.toNat, false⟩]
  | .vfdiv vd va vb _ f64 _ => use3 vd.toNat va.toNat vb.toNat (f64Regs f64.toNat)
  | .vfscale vd va vb _ ty => use2 vd.toNat va.toNat (f64Regs ty.toNat) ++ [⟨vb.toNat, 1, false⟩]
  | .vcvt vd va code _ _ => [⟨vd.toNat, (convRegs code.toNat).2, true⟩, ⟨va.toNat, (convRegs code.toNat).1, false⟩]
  | .vshfl vd va _ vx _ _ => use2 vd.toNat va.toNat 1 ++ [⟨vx.toNat, 1, false⟩]
  | .vshfli vd va _ _ _ _ => use2 vd.toNat va.toNat 1
  | .vvote _ va _ _ | .vfold _ va _ _ | .vgetl _ va _ _ => [⟨va.toNat, 1, false⟩]
  | .vscan vd va _ _ => use2 vd.toNat va.toNat 1
  | .vbcast vd _ _ | .vspec vd _ _ => [⟨vd.toNat, 1, true⟩]
  | .vputl vd _ _ _ => [⟨vd.toNat, 1, false⟩]
  | .vld vd va sz sp _ _ => [⟨vd.toNat, szRegs sz.toNat, true⟩, ⟨va.toNat, spRegs sp.toNat, false⟩]
  | .vldPr vd va sz _ _ => [⟨vd.toNat, szRegs sz.toNat, true⟩, ⟨va.toNat, 2, false⟩]
  | .vst vs va sz sp _ _ => [⟨vs.toNat, szRegs sz.toNat, false⟩, ⟨va.toNat, spRegs sp.toNat, false⟩]
  | .vlda vd va sz _ _ _ => [⟨vd.toNat, szRegs sz.toNat, true⟩, ⟨va.toNat, 2, false⟩]
  | .vstl vs va sz _ _ _ => [⟨vs.toNat, szRegs sz.toNat, false⟩, ⟨va.toNat, 2, false⟩]
  | .vatom vd va vb op | .vatomAr vd va vb op =>
    (if vd.toNat = 127 then [] else [⟨vd.toNat, 1, true⟩])
      ++ [⟨va.toNat, 2, false⟩, ⟨vb.toNat, if op.toNat = 10 then 2 else 1, false⟩]
  | .vatomW vd va vb op =>
    (if vd.toNat = 127 then [] else [⟨vd.toNat, 2, true⟩])
      ++ [⟨va.toNat, 2, false⟩, ⟨vb.toNat, if op.toNat = 10 then 4 else 2, false⟩]
  | .ldp vd va _ _ _ => use2 vd.toNat va.toNat 1
  | _ => []

/-- A lane operand names registers; a scalar window as a destination is undefined (R147). -/
def LaneUse.ok (g : Group) (u : LaneUse) : Bool :=
  match g.span u.count u.count u.num with
  | none => false
  | some os => !(u.dest && os.any fun o => match o with | .scal _ => true | _ => false)

/-- The mask that a word writes or must name, never m0 (R26, R77, R86, R93, R94, R184). -/
def maskDest : Instr → Option Nat
  | .vcmpi _ md _ _ _ _ | .vcmp _ md _ _ _ _ | .vfcmp _ md _ _ _ _ => some md.toNat
  | .vshfl _ _ rep _ m _ | .vshfli _ _ rep _ m _ => if rep.toNat = 1 then some m.toNat else none
  | .mand md _ _ | .mor md _ _ | .mxor md _ _ | .mandn md _ _ | .mnot md _ | .mmov md _ => some md.toNat
  | .mset mn _ => some mn.toNat
  | .vldPr _ _ _ _ m => some m.toNat
  | _ => none

/-- Special registers that SSET may write; %w0 to %w3 only in handler mode (R27). -/
def specialWritable (hlevel n : Nat) : Bool :=
  n = 0x010 || n = 0x011 || n = 0x012 || n = 0x029 || n = 0x031 || (0x044 ≤ n && n ≤ 0x047 && hlevel ≠ 0) || n = 0x060 || n = 0x061
    || n = 0x063 || (0x100 ≤ n && n ≤ 0x13F)

/-- A word that is undefined where it issues, though its encoding is listed: R26, and the words that a mode or a launch does not have
(R138, R152, R153, R282). -/
def undefHere (x : Iss) (i : Instr) : Bool :=
  !i.wellFormed || !((laneUses i).all (·.ok x.g))
    || (match maskDest i with | some n => n = 0 | none => false)
    || (match i with
      | .sset _ num => !specialWritable x.g.hlevel num.toNat
      | .tret _ => x.g.trap.mode.isNone
      | .eret _ | .ewin .. => x.g.hlevel = 0
      | .pdone | .pwait _ | .pfin .. | .ldp .. => !x.l.kernel.paced
      | _ => false)

/-- Feature groups by number (R143). -/
def fgBitx : Nat := 0
def fgF64 : Nat := 1
def fgCplx : Nat := 2
def fgSparse : Nat := 3
def fgPace : Nat := 4
def fgMc : Nat := 5
def fgBte : Nat := 6
def fgK5 : Nat := 7
def fgSysatom : Nat := 8

/-- F64 where a type selects it. -/
def f64Group (ty : Nat) : List Nat := if ty = 1 then [fgF64] else []

/-- The feature groups that a word's encoding belongs to (R37); those that depend on an operand are added where it issues. -/
def staticFeats : Instr → List Nat
  | .vclmul .. => [fgBitx]
  | .vfcmp _ _ _ _ _ ty => f64Group ty.toNat
  | .vfadd _ _ _ _ ty | .vfsub _ _ _ _ ty | .vfmul _ _ _ _ ty | .vfma _ _ _ _ ty | .vfms _ _ _ _ ty | .vfnma _ _ _ _ ty
  | .vfmin _ _ _ _ ty | .vfmax _ _ _ _ ty | .vfscale _ _ _ _ ty => f64Group ty.toNat
  | .vfrcp _ _ _ ty | .vfrsq _ _ _ ty | .vfsqrt _ _ _ ty | .vfexp2 _ _ _ ty | .vflog2 _ _ _ ty | .vfsin _ _ _ ty
  | .vfcos _ _ _ ty | .vfabs _ _ _ ty | .vfneg _ _ _ ty | .vfrndN _ _ _ ty | .vfrndZ _ _ _ ty | .vfrndD _ _ _ ty
  | .vfrndU _ _ _ ty | .vffrc _ _ _ ty | .vfclass _ _ _ ty => f64Group ty.toNat
  | .vfdiv _ _ _ _ f64 _ => f64Group f64.toNat
  | .vcvt _ _ code _ _ => if code.toNat ≤ 1 ∨ (6 ≤ code.toNat ∧ code.toNat ≤ 9) then [fgF64] else []
  | .vlda _ _ _ scope _ _ | .vstl _ _ _ scope _ _ => if scope.toNat = 2 then [fgSysatom] else []
  | .mms .. | .mmsR .. | .spload .. => [fgSparse]
  | .cpy _ _ _ _ mc _ step _ _ _ => (if mc.toNat = 1 then [fgMc] else []) ++ (if step.toNat = 1 then [fgPace] else [])
  | .pdone | .pwait _ | .pfin .. | .ldp .. => [fgPace]
  | _ => []

/-! ## The frame of an issue -/

/-- The word of an instruction that issues (R140: %eword). -/
def wordOf (i : Instr) : W32 := (encode i).getD 0

/-- Matrix-support loads (R243), and with MZERO the matrix-support instructions (R245). -/
def isTableLoad : Instr → Bool
  | .wbload .. | .spload .. | .cbload .. | .zpload .. => true
  | _ => false
def isTableOp : Instr → Bool
  | .mzero _ => true
  | i => isTableLoad i

/-- The step counts as no issue: an MMS that the group's table loads keep back (R232), an instruction that has issued and been held. -/
def Group.noIssue (g : Group) (q : QSet) : Bool :=
  match q.instr? with
  | some (.mms ..) | some (.mmsR ..) => g.flights.any fun f => isTableOp f.instr
  | _ => q.hold.isSome

/-- What any issue does to its group: instructions in flight count one more issued behind them (R22), the group's turn is taken
(R113, R114), and a SHADOW trap that waited for the instruction waits no longer (R379). -/
def Group.issued (g : Group) (q : QSet) : Group :=
  if g.noIssue q then g else
  { g with
    flights := g.flights.map fun f => { f with after := f.after + 1 }
    trap := { g.trap with shadows := g.trap.shadows.map fun k => if k.src.isNone && k.trap.tag = q.tag then { k with src := some 0 } else k }
    ready := 0
    lastQuad := lowQuad q.quads }

/-- The state as the body of an instruction finds it. -/
def State.prep (s : State) (x : Iss) : State :=
  { s with free := s.free + 1 }.modGroup x.g.ref fun g => g.issued x.q

/-- The frame of an issue: trap mode executes its own list only (R348); a word undefined here enters the emulation handler, and so does
one of a feature group that is off, in the order of R36; otherwise the instruction's own body runs (DEDUCED, assumption 96). Where
several of a word's groups are off, the first of those that its encoding names, then of those that its operands bring in, is reported in
FGRP and decides about FATAL (DESIGN CHOICE, assumption 106). -/
def issueIf (i : Instr) (undef : Iss → State → Bool) (feats : Iss → State → List Nat) (body : Iss → State → State) (s : State) :
    Host.Outcome State Fault Refusal :=
  match s.iss with
  | none => .fault .noIssuer
  | some x =>
    .next (
      if x.g.trap.mode.isSome && !trapAllowed i then s.endTeam x.g.team stTrap
      else if undefHere x i || undef x s then (s.prep x).enterEmu x (wordOf i) ecUndef 0
      else match (staticFeats i ++ feats x s).find? fun f => !featOn x.l.feat f with
        | some f => (s.prep x).enterEmu x (wordOf i) ecMasked f
        | none => body x (s.prep x))

/-- The frame of an issue for a word whose validity and feature groups lie in its encoding. -/
def issue (i : Instr) (body : Iss → State → State) (s : State) : Host.Outcome State Fault Refusal :=
  issueIf i (fun _ _ => false) (fun _ _ => []) body s

/-- The frame of a step that no word starts: it happens where it is due, and otherwise nothing does (DESIGN CHOICE, assumption 14). -/
def event (due : Bool) (t : State) (s : State) : Host.Outcome State Fault Refusal := .next (if due then t else s)

/-- The device has answered a request of the host with Unsupported Request (R383, R384). -/
def State.unsupported (s : State) : State := { s with hostReply := .unsupported }

/-- A request of the host at a virtual function: one whose tenant has no tenancy answers it with Unsupported Request (R383). -/
def hostEvent (tid : Nat) (due : Bool) (t : State) (s : State) : Host.Outcome State Fault Refusal :=
  if s.fnOn tid then event due t s else .next s.unsupported

/-! ## Lane operand forms -/

/-- Rounding mode RM and SAT of FMT (R41). -/
def fmtRm (fmt : W64) : Nat := bits fmt 16 15
def fmtSat (fmt : W64) : Bool := bit fmt 17

/-- A 32-bit word from its two 16-bit elements, element 0 low (R64). -/
def pack2 (e0 e1 : Nat) : W32 := BitVec.ofNat 32 (e1 % 65536 * 65536 + e0 % 65536)

/-- Element e of width w of a word (R64). -/
def elem (v : W32) (w e : Nat) : Nat := v.toNat / 2 ^ (w * e) % 2 ^ w

/-- A number of `w` bits read as two's complement. -/
def sext (w n : Nat) : Int := if n % 2 ^ w < 2 ^ (w - 1) then (n % 2 ^ w : Nat) else (n % 2 ^ w : Nat) - (2 ^ w : Nat)

/-- An integer of type t: signed for .I types, unsigned for .UI types (R32). -/
def ival (ty w n : Nat) : Int := if ty % 2 = 0 then sext w n else (n % 2 ^ w : Nat)

/-- An integer result in w bits, modulo 2^w (R67). -/
def iwrap (w : Nat) (i : Int) : Nat := (i % (2 ^ w : Nat)).toNat

/-- The width of an element of an integer type (R32). -/
def iwidth (ty : Nat) : Nat := if ty < 2 then 32 else 16

/-- A lane word formed element by element of an integer type (R64). -/
def perElem (ty : Nat) (f : Nat → Nat) : W32 := if ty < 2 then BitVec.ofNat 32 (f 0) else pack2 (f 0) (f 1)

/-- Registers of one executing lane written together. -/
def Group.wrRegs (g : Group) (os : List Loc) (l : Nat) (f : Nat → W32) : Group :=
  (os.zipIdx).foldl (fun g (o, i) => g.wrLoc o l (f i)) g

/-- The destination registers of every executing lane written, from operands read at issue (R63). -/
def Group.wrDest (g : Group) (lanes : W64) (os : List Loc) (f : Nat → Nat → W32) : Group :=
  g.wrLanes lanes fun g l => g.wrRegs os l fun i => f i l

/-- A lane instruction whose result for lane l is one word (R63, R64). -/
def laneWord (x : Iss) (m vd : Nat) (f : Nat → W32) (s : State) : State :=
  s.onGroup x fun g => g.wrDest (x.exec m) (x.op 1 vd) fun _ l => f l

end Sys2Proof.Machine
end

