-- ==== Sys2Proof/Machine/LaneInt.lean ====
section
/-! DEFINITION. Machine/LaneInt.lean: integer arithmetic and logic of the lane engine (R67 to R77). -/

namespace Sys2Proof.Machine

/-- A result formed from the elements of va, vb and the old vd, as exact integers of the type, and wrapped (R64, R67). -/
def laneInt3 (x : Iss) (vd va vb m ty : Nat) (f : Int → Int → Int → Int) : State → State :=
  let w := iwidth ty
  laneWord x m vd fun l => perElem ty fun e =>
    iwrap w (f (ival ty w (elem (x.v (x.op 1 va) 0 l) w e)) (ival ty w (elem (x.v (x.op 1 vb) 0 l) w e))
      (ival ty w (elem (x.v (x.op 1 vd) 0 l) w e)))

/-- A result formed from va, vb and the old vd as 32-bit words. -/
def laneBits3 (x : Iss) (vd va vb m : Nat) (f : W32 → W32 → W32 → W32) : State → State :=
  laneWord x m vd fun l => f (x.v (x.op 1 va) 0 l) (x.v (x.op 1 vb) 0 l) (x.v (x.op 1 vd) 0 l)

/-- A result formed from va as a 32-bit word. -/
def laneBits2 (x : Iss) (vd va m : Nat) (f : W32 → W32) : State → State :=
  laneWord x m vd fun l => f (x.v (x.op 1 va) 0 l)

/-- An immediate form: b is the immediate, sign-extended, in every element (R75). -/
def laneImm (x : Iss) (vd va m ty : Nat) (imm : Int) (f : Int → Int → Int) : State → State :=
  let w := iwidth ty
  laneWord x m vd fun l => perElem ty fun e => iwrap w (f (ival ty w (elem (x.v (x.op 1 va) 0 l) w e)) imm)

def execVadd (vd va vb : BitVec 7) (m ty : BitVec 2) (s : State) : Host.Outcome State Fault Refusal :=
  issue (.vadd vd va vb m ty) (fun x => laneInt3 x vd.toNat va.toNat vb.toNat m.toNat ty.toNat fun a b _ => a + b) s
def execVsub (vd va vb : BitVec 7) (m ty : BitVec 2) (s : State) : Host.Outcome State Fault Refusal :=
  issue (.vsub vd va vb m ty) (fun x => laneInt3 x vd.toNat va.toNat vb.toNat m.toNat ty.toNat fun a b _ => a - b) s
def execVmul (vd va vb : BitVec 7) (m ty : BitVec 2) (s : State) : Host.Outcome State Fault Refusal :=
  issue (.vmul vd va vb m ty) (fun x => laneInt3 x vd.toNat va.toNat vb.toNat m.toNat ty.toNat fun a b _ => a * b) s
/-- Bits [63:32] of the 64-bit product, signed (t = 0) or unsigned (t = 1). -/
def execVmulh (vd va vb : BitVec 7) (m : BitVec 2) (ty : BitVec 1) (s : State) : Host.Outcome State Fault Refusal :=
  issue (.vmulh vd va vb m ty) (fun x => laneInt3 x vd.toNat va.toNat vb.toNat m.toNat ty.toNat fun a b _ => a * b / 2 ^ 32) s
def execVmad (vd va vb : BitVec 7) (m ty : BitVec 2) (s : State) : Host.Outcome State Fault Refusal :=
  issue (.vmad vd va vb m ty) (fun x => laneInt3 x vd.toNat va.toNat vb.toNat m.toNat ty.toNat fun a b d => a * b + d) s
def execVand (vd va vb : BitVec 7) (m : BitVec 2) (s : State) : Host.Outcome State Fault Refusal :=
  issue (.vand vd va vb m) (fun x => laneBits3 x vd.toNat va.toNat vb.toNat m.toNat fun a b _ => a &&& b) s
def execVor (vd va vb : BitVec 7) (m : BitVec 2) (s : State) : Host.Outcome State Fault Refusal :=
  issue (.vor vd va vb m) (fun x => laneBits3 x vd.toNat va.toNat vb.toNat m.toNat fun a b _ => a ||| b) s
def execVxor (vd va vb : BitVec 7) (m : BitVec 2) (s : State) : Host.Outcome State Fault Refusal :=
  issue (.vxor vd va vb m) (fun x => laneBits3 x vd.toNat va.toNat vb.toNat m.toNat fun a b _ => a ^^^ b) s
def execVandn (vd va vb : BitVec 7) (m : BitVec 2) (s : State) : Host.Outcome State Fault Refusal :=
  issue (.vandn vd va vb m) (fun x => laneBits3 x vd.toNat va.toNat vb.toNat m.toNat fun a b _ => a &&& ~~~b) s

/-- A right shift: zeros, or copies of bit 31 (R67). -/
def shiftRight (arith : Bool) (a : W32) (n : Nat) : W32 := if arith then a.sshiftRight n else a >>> n

/-- Shift amounts are bits [4:0] of vb (R67). -/
def execVshl (vd va vb : BitVec 7) (m : BitVec 2) (s : State) : Host.Outcome State Fault Refusal :=
  issue (.vshl vd va vb m) (fun x => laneBits3 x vd.toNat va.toNat vb.toNat m.toNat fun a b _ => a <<< (b.toNat % 32)) s
def execVshr (vd va vb : BitVec 7) (m : BitVec 2) (ty : BitVec 1) (s : State) : Host.Outcome State Fault Refusal :=
  issue (.vshr vd va vb m ty)
    (fun x => laneBits3 x vd.toNat va.toNat vb.toNat m.toNat fun a b _ => shiftRight (ty = 1) a (b.toNat % 32)) s
def execVmin (vd va vb : BitVec 7) (m ty : BitVec 2) (s : State) : Host.Outcome State Fault Refusal :=
  issue (.vmin vd va vb m ty) (fun x => laneInt3 x vd.toNat va.toNat vb.toNat m.toNat ty.toNat fun a b _ => min a b) s
def execVmax (vd va vb : BitVec 7) (m ty : BitVec 2) (s : State) : Host.Outcome State Fault Refusal :=
  issue (.vmax vd va vb m ty) (fun x => laneInt3 x vd.toNat va.toNat vb.toNat m.toNat ty.toNat fun a b _ => max a b) s
def execVabsd (vd va vb : BitVec 7) (m ty : BitVec 2) (s : State) : Host.Outcome State Fault Refusal :=
  issue (.vabsd vd va vb m ty) (fun x => laneInt3 x vd.toNat va.toNat vb.toNat m.toNat ty.toNat fun a b _ => (a - b).natAbs) s

/-- R68: the m field names the carry mask; m0 gives carry in 0 and discards the carry out. -/
def bodyVaddc (x : Iss) (vd va vb mc : Nat) (s : State) : State :=
  let ex := x.exec 0
  let cin (l : Nat) : Nat := if mc ≠ 0 && bit (x.g.rdMask x.free mc) l then 1 else 0
  let sum (l : Nat) : Nat := (x.v (x.op 1 va) 0 l).toNat + (x.v (x.op 1 vb) 0 l).toNat + cin l
  s.onGroup x fun g =>
    (g.wrDest ex (x.op 1 vd) fun _ l => BitVec.ofNat 32 (sum l)).wrMask mc ex (maskOf fun l => decide (2 ^ 32 ≤ sum l))

def execVaddc (vd va vb : BitVec 7) (mc : BitVec 2) (s : State) : Host.Outcome State Fault Refusal :=
  issue (.vaddc vd va vb mc) (fun x => bodyVaddc x vd.toNat va.toNat vb.toNat mc.toNat) s

/-- R69: the m field names the select mask; m0 selects va. -/
def execVsel (vd va vb : BitVec 7) (ms : BitVec 2) (s : State) : Host.Outcome State Fault Refusal :=
  issue (.vsel vd va vb ms) (fun x => laneWord x 0 vd.toNat fun l =>
    if bit (x.g.rdMask x.free ms.toNat) l then x.v (x.op 1 va.toNat) 0 l else x.v (x.op 1 vb.toNat) 0 l) s

/-- R70: the field at pos of len bits, zero- or sign-extended; bits beyond 31 read as 0 or as copies of bit 31. -/
def bfx (signed : Bool) (a b : W32) : W32 :=
  let pos := b.toNat % 32
  let len := min (b.toNat / 256 % 64) 32
  if len = 0 then 0 else
  let ext : Int := if signed then a.toInt else (a.toNat : Int)
  let f := (ext / 2 ^ pos % (2 ^ len : Nat)).toNat
  BitVec.ofInt 32 (if signed then sext len f else (f : Int))

/-- R70: bits 0 to len−1 of a inserted into d at pos; bits above 31 are dropped. -/
def bfi (a b d : W32) : W32 :=
  let pos := b.toNat % 32
  let len := min (b.toNat / 256 % 64) 32
  let ones : W32 := BitVec.ofNat 32 ((2 ^ len - 1) * 2 ^ pos)
  (d &&& ~~~ones) ||| ((a <<< pos) &&& ones)

def execVbfx (vd va vb : BitVec 7) (m : BitVec 2) (ty : BitVec 1) (s : State) : Host.Outcome State Fault Refusal :=
  issue (.vbfx vd va vb m ty) (fun x => laneBits3 x vd.toNat va.toNat vb.toNat m.toNat fun a b _ => bfx (ty = 1) a b) s
def execVbfi (vd va vb : BitVec 7) (m : BitVec 2) (s : State) : Host.Outcome State Fault Refusal :=
  issue (.vbfi vd va vb m) (fun x => laneBits3 x vd.toNat va.toNat vb.toNat m.toNat fun a b d => bfi a b d) s

/-- Set bits, and leading zeros (w for 0), of a number of w bits (R71, R117). -/
def setBits (w n : Nat) : Nat := (List.range w).countP fun i => n.testBit i
def leadingZeros (w n : Nat) : Nat := w - bitLen n

def execVpopc (vd va : BitVec 7) (m : BitVec 2) (s : State) : Host.Outcome State Fault Refusal :=
  issue (.vpopc vd va m) (fun x => laneBits2 x vd.toNat va.toNat m.toNat fun a => BitVec.ofNat 32 (setBits 32 a.toNat)) s
def execVclz (vd va : BitVec 7) (m : BitVec 2) (s : State) : Host.Outcome State Fault Refusal :=
  issue (.vclz vd va m) (fun x => laneBits2 x vd.toNat va.toNat m.toNat fun a => BitVec.ofNat 32 (leadingZeros 32 a.toNat)) s
def execVbrev (vd va : BitVec 7) (m : BitVec 2) (s : State) : Host.Outcome State Fault Refusal :=
  issue (.vbrev vd va m) (fun x => laneBits2 x vd.toNat va.toNat m.toNat fun a => mask32 fun i => a.getLsbD (31 - i)) s
def execVneg (vd va : BitVec 7) (m : BitVec 2) (s : State) : Host.Outcome State Fault Refusal :=
  issue (.vneg vd va m) (fun x => laneBits2 x vd.toNat va.toNat m.toNat fun a => 0 - a) s

/-- R72: t = 0 signed by signed, 1 unsigned by unsigned, 2 signed by unsigned; the sum wraps. -/
def dp4 (ty : Nat) (a b d : W32) : W32 :=
  let p (i : Nat) : Int :=
    (if ty = 1 then ((elem a 8 i : Nat) : Int) else sext 8 (elem a 8 i)) * (if ty = 0 then sext 8 (elem b 8 i) else ((elem b 8 i : Nat) : Int))
  BitVec.ofInt 32 ((d.toNat : Int) + p 0 + p 1 + p 2 + p 3)

def execVdp4 (vd va vb : BitVec 7) (m ty : BitVec 2) (s : State) : Host.Outcome State Fault Refusal :=
  issue (.vdp4 vd va vb m ty) (fun x => laneBits3 x vd.toNat va.toNat vb.toNat m.toNat fun a b d => dp4 ty.toNat a b d) s

/-- The 64-bit carry-less product (R73). -/
def clmul (a b : W32) : W64 :=
  (List.range 32).foldl (fun p i => if a.getLsbD i then p ^^^ (b.setWidth 64 <<< i) else p) 0#64

def execVclmul (vd va vb : BitVec 7) (m : BitVec 2) (ty : BitVec 1) (s : State) : Host.Outcome State Fault Refusal :=
  issue (.vclmul vd va vb m ty) (fun x => laneBits3 x vd.toNat va.toNat vb.toNat m.toNat fun a b _ =>
    if ty = 1 then (clmul a b >>> 32).setWidth 32 else (clmul a b).setWidth 32) s
def execVmov (vd va : BitVec 7) (m : BitVec 2) (s : State) : Host.Outcome State Fault Refusal :=
  issue (.vmov vd va m) (fun x => laneBits2 x vd.toNat va.toNat m.toNat fun a => a) s

def execVaddi (vd va imm : BitVec 7) (m ty : BitVec 2) (s : State) : Host.Outcome State Fault Refusal :=
  issue (.vaddi vd va imm m ty) (fun x => laneImm x vd.toNat va.toNat m.toNat ty.toNat imm.toInt fun a b => a + b) s
def execVmuli (vd va imm : BitVec 7) (m ty : BitVec 2) (s : State) : Host.Outcome State Fault Refusal :=
  issue (.vmuli vd va imm m ty) (fun x => laneImm x vd.toNat va.toNat m.toNat ty.toNat imm.toInt fun a b => a * b) s
def execVshli (vd va : BitVec 7) (imm : BitVec 5) (m : BitVec 2) (s : State) : Host.Outcome State Fault Refusal :=
  issue (.vshli vd va imm m) (fun x => laneBits2 x vd.toNat va.toNat m.toNat fun a => a <<< imm.toNat) s
def execVshri (vd va : BitVec 7) (imm : BitVec 5) (m : BitVec 2) (ty : BitVec 1) (s : State) : Host.Outcome State Fault Refusal :=
  issue (.vshri vd va imm m ty) (fun x => laneBits2 x vd.toNat va.toNat m.toNat fun a => shiftRight (ty = 1) a imm.toNat) s
def execVandi (vd va imm : BitVec 7) (m : BitVec 2) (s : State) : Host.Outcome State Fault Refusal :=
  issue (.vandi vd va imm m) (fun x => laneBits2 x vd.toNat va.toNat m.toNat fun a => a &&& imm.signExtend 32) s
def execVli (vd : BitVec 7) (imm : BitVec 14) (m : BitVec 2) (s : State) : Host.Outcome State Fault Refusal :=
  issue (.vli vd imm m) (fun x => laneWord x m.toNat vd.toNat fun _ => imm.signExtend 32) s

/-! ## Compares (R77) -/

/-- The destination mask of a compare: EXEC ∧ cond on the issuing set's lanes, other lanes' bits unchanged (R77). -/
def writeCompare (x : Iss) (m md : Nat) (c : Nat → Bool) (g : Group) : Group :=
  let ex := x.exec m
  g.wrMask md (quadLanes x.q.quads) (maskOf fun l => bit ex l && c l)

/-- Elements of an integer type (R64). -/
def elems (ty : Nat) : List Nat := if ty < 2 then [0] else [0, 1]

/-- An integer compare of one lane: the conjunction over its elements (R77). -/
def intCmp (ty c : Nat) (a b : Nat → Int) : Bool := (elems ty).all fun e => laneCond c (a e < b e) (a e = b e)

def execVcmp (cnd : BitVec 4) (md : BitVec 3) (va vb : BitVec 7) (m ty : BitVec 2) (s : State) : Host.Outcome State Fault Refusal :=
  issue (.vcmp cnd md va vb m ty) (fun x s => s.onGroup x (writeCompare x m.toNat md.toNat fun l =>
    let w := iwidth ty.toNat
    intCmp ty.toNat cnd.toNat (fun e => ival ty.toNat w (elem (x.v (x.op 1 va.toNat) 0 l) w e))
      (fun e => ival ty.toNat w (elem (x.v (x.op 1 vb.toNat) 0 l) w e)))) s

/-- The immediate is sign-extended to the element width, and compared unsigned under .UI types (R77). -/
def execVcmpi (cnd : BitVec 4) (md : BitVec 3) (va imm : BitVec 7) (m ty : BitVec 2) (s : State) : Host.Outcome State Fault Refusal :=
  issue (.vcmpi cnd md va imm m ty) (fun x s => s.onGroup x (writeCompare x m.toNat md.toNat fun l =>
    let w := iwidth ty.toNat
    intCmp ty.toNat cnd.toNat (fun e => ival ty.toNat w (elem (x.v (x.op 1 va.toNat) 0 l) w e))
      (fun _ => ival ty.toNat w (iwrap w imm.toInt)))) s

end Sys2Proof.Machine
end

