-- ==== Sys2Proof/Machine/Transc.lean ====
section
/-! DEFINITION. Machine/Transc.lean: VFEXP2, VFLOG2, VFSIN and VFCOS, each the exact value rounded once to nearest (R58, R59). A value is
enclosed between two fixed-point numbers and rounded when both ends round alike; two precisions are tried. -/

namespace Sys2Proof.Machine

/-- How wide an enclosure is taken around a series, in units of its last place. -/
def slack : Nat := 4096

/-- Σ r^k/k! at precision p, from the k-th term on. -/
def expSeries (p r : Nat) : Nat → Nat → Nat → Nat → Nat
  | 0, _, _, acc => acc
  | n + 1, k, t, acc => expSeries p r n (k + 1) (t * r / 2 ^ p / k) (acc + t)

/-- Σ z^(2k+1)/(2k+1) at precision p: the inverse hyperbolic tangent. -/
def atanhSeries (p z2 : Nat) : Nat → Nat → Nat → Nat → Nat
  | 0, _, _, acc => acc
  | n + 1, k, t, acc => atanhSeries p z2 n (k + 1) (t * z2 / 2 ^ p) (acc + t / (2 * k + 1))

/-- ln 2 · 2^p. -/
def ln2At (p : Nat) : Nat :=
  let z := 2 ^ p / 3
  2 * atanhSeries p (z * z / 2 ^ p) (p / 3 + 8) 0 z 0

/-- arctan(1/k) · 2^p. -/
def atanInv (p k : Nat) : Nat → Nat → Nat → Int → Int
  | 0, _, _, acc => acc
  | n + 1, i, t, acc =>
    atanInv p k n (i + 1) (t / (k * k)) (if i % 2 = 0 then acc + (t / (2 * i + 1) : Nat) else acc - (t / (2 * i + 1) : Nat))

/-- π · 2^q (Machin). -/
def piAt (q : Nat) : Nat :=
  let p := q + 32
  let a := atanInv p 5 (p / 4 + 8) 0 (2 ^ p / 5) 0
  let b := atanInv p 239 (p / 15 + 8) 0 (2 ^ p / 239) 0
  (16 * a - 4 * b).toNat / 2 ^ 32

/-- Alternating series of sine (from r, i = 1) and cosine (from 1, i = 0) at precision p. -/
def trigSeries (p r2 : Nat) : Nat → Nat → Nat → Bool → Int → Int
  | 0, _, _, _, acc => acc
  | n + 1, i, t, minus, acc =>
    trigSeries p r2 n (i + 2) (t * r2 / 2 ^ p / ((i + 1) * (i + 2))) (!minus) (if minus then acc - (t : Int) else acc + (t : Int))

/-- An enclosure: sign, the middle of the magnitude, exponent; `slack` on either side. -/
structure Encl where
  neg : Bool
  mid : Nat
  e : Int
  deriving DecidableEq, Repr

/-- Both ends of an enclosure rounded to nearest, when they agree. -/
def Encl.round? (f : FFmt) (x : Encl) : Option (Nat × BitVec 5) :=
  let a := fround f 0 false x.neg (2 * (x.mid - slack) + 1) (x.e - 1)
  let b := fround f 0 false x.neg (2 * (x.mid + slack) + 1) (x.e - 1)
  if a = b then some a else none

/-- The first precision whose enclosure settles the rounding; failing both, a free value (DESIGN CHOICE, assumption 6). -/
def settle (f : FFmt) (op code : Nat) (at_ : Nat → Encl) : Nat × BitVec 5 :=
  match (at_ 256).round? f with
  | some r => r
  | none =>
    match (at_ 640).round? f with
    | some r => r
    | none => (Config.unsettled op code % 2 ^ (1 + f.eb + f.mb), fNX)

/-- 2^x (R59). -/
def fexp2 (f : FFmt) (a : Nat) : Nat × BitVec 5 :=
  match fdec f a with
  | .nan s => (fnan f, if s then fNV else 0)
  | .inf neg => (if neg then 0 else finf f, 0)
  | .fin neg m e =>
    if m = 0 then fround f 0 false false 1 0
    else if 12 < (bitLen m : Int) + e then fround f 0 false false 1 (if neg then -5000 else 5000)
    else if (bitLen m : Int) + e < -100 then fround f 0 false false (if neg then 2 ^ 130 - 1 else 2 ^ 130 + 1) (-130)
    else
      let i := roundUnit 2 neg m e 0
      let n : Int := if neg then -(i.1 : Int) else i.1
      if !i.2 then fround f 0 false false 1 n else
      settle f 0 a fun p =>
        let x : Int := (if neg then -1 else 1) * (m * 2 ^ (e + p).toNat : Nat)
        let fr := (x - n * 2 ^ p).toNat
        ⟨false, expSeries p (fr * ln2At p / 2 ^ p) (p / 2) 1 (2 ^ p) 0, n - p⟩

/-- log₂ x (R59). -/
def flog2 (f : FFmt) (a : Nat) : Nat × BitVec 5 :=
  match fdec f a with
  | .nan s => (fnan f, if s then fNV else 0)
  | .inf neg => if neg then (fnan f, fNV) else (finf f, 0)
  | .fin neg m e =>
    if m = 0 then (fsign f true + finf f, fDZ) else if neg then (fnan f, fNV) else
    let top := 2 ^ (bitLen m - 1)
    let n : Int := e + bitLen m - 1
    if m = top then ofInt f 0 false n else
    settle f 1 a fun p =>
      let z := (m - top) * 2 ^ p / (m + top)
      let l := 2 * atanhSeries p (z * z / 2 ^ p) (p / 3 + 8) 0 z 0 * 2 ^ p / ln2At p
      let r : Int := n * 2 ^ p + l
      ⟨r < 0, r.natAbs, -(p : Int)⟩

/-- sin x and cos x of the radian x itself, the argument reduced exactly (R58, R59). -/
def fsincos (f : FFmt) (cosine : Bool) (a : Nat) : Nat × BitVec 5 :=
  match fdec f a with
  | .nan s => (fnan f, if s then fNV else 0)
  | .inf _ => (fnan f, fNV)
  | .fin neg m e =>
    if m = 0 then (if cosine then fround f 0 false false 1 0 else (a, 0))
    else if (bitLen m : Int) + e < -40 then
      (if cosine then fround f 0 false false (2 ^ 130 - 1) (-130) else fround f 0 false neg (m * 2 ^ 80 - 1) (e - 80))
    else settle f (if cosine then 3 else 2) a fun p =>
      let q := p + 1100
      let x := m * 2 ^ (e + q).toNat
      let half := piAt q / 2
      let k := x / half % 4
      let r := x % half / 2 ^ 1100
      let r2 := r * r / 2 ^ p
      let useCos := if cosine then k % 2 = 0 else k % 2 = 1
      let v := if useCos then trigSeries p r2 (p / 4 + 16) 0 (2 ^ p) false 0 else trigSeries p r2 (p / 4 + 16) 1 r false 0
      let minus := if cosine then k = 1 ∨ k = 2 else (decide (2 ≤ k) != neg) = true
      ⟨minus, v.toNat, -(p : Int)⟩

end Sys2Proof.Machine
end

