-- ==== Sys2Proof/Machine/LaneFloat.lean ====
section
/-! DEFINITION. Machine/LaneFloat.lean: floating-point arithmetic and compares of the lane engine (R78 to R83). VFDIV is long-latency:
it issues here and DIVIDE_COMPLETE writes it. -/

namespace Sys2Proof.Machine

/-- The format of a floating type t (R32). -/
def fmtOfTy (ty : Nat) : FFmt := match ty with | 0 => fF32 | 1 => fF64 | 2 => fF16 | _ => fBF16

/-- Element e of an operand of type t in lane l: an F64 from its pair, low word first (R64). -/
def felem (x : Iss) (os : List Loc) (ty e l : Nat) : Nat :=
  if ty = 1 then (x.v os 0 l).toNat + (x.v os 1 l).toNat * 2 ^ 32
  else if ty = 0 then (x.v os 0 l).toNat
  else elem (x.v os 0 l) 16 e

/-- Register i of a result of type t from its elements. -/
def fword (ty : Nat) (r : Nat → Nat) (i : Nat) : W32 :=
  if ty = 1 then BitVec.ofNat 32 (r 0 / 2 ^ (32 * i)) else if ty = 0 then BitVec.ofNat 32 (r 0) else pack2 (r 0) (r 1)

/-- Elements of a floating type (R79). -/
def felems (ty : Nat) : List Nat := if ty < 2 then [0] else [0, 1]

/-- Flags raised by the executing lanes (R57). -/
def flagsOf (lanes : W64) (ty : Nat) (r : Nat → Nat → Nat × BitVec 5) : BitVec 5 :=
  (bitList lanes).foldl (fun f l => (felems ty).foldl (fun f e => f ||| (r e l).2) f) 0

/-- A floating result per element, written to vd, its flags ORed into %fpstat (R57, R79). -/
def laneFloat (x : Iss) (vd m ty : Nat) (r : Nat → Nat → Nat × BitVec 5) (s : State) : State :=
  let ex := x.exec m
  s.onGroup x fun g =>
    (g.wrDest ex (x.op (f64Regs ty) vd) fun i l => fword ty (fun e => (r e l).1) i).orFp (flagsOf ex ty r)

/-- Operands x, y and the old d of a lane's element (R79). -/
def laneFloat3 (x : Iss) (vd va vb m ty : Nat) (f : FFmt → Nat → Nat → Nat → Nat → Nat × BitVec 5) : State → State :=
  let n := f64Regs ty
  laneFloat x vd m ty fun e l =>
    f (fmtOfTy ty) (fmtRm x.q.fmt) (felem x (x.op n va) ty e l) (felem x (x.op n vb) ty e l) (felem x (x.op n vd) ty e l)

/-- One operand. -/
def laneFloat2 (x : Iss) (vd va m ty : Nat) (f : FFmt → Nat → Nat → Nat × BitVec 5) : State → State :=
  laneFloat x vd m ty fun e l => f (fmtOfTy ty) (fmtRm x.q.fmt) (felem x (x.op (f64Regs ty) va) ty e l)

def execVfadd (vd va vb : BitVec 7) (m ty : BitVec 2) (s : State) : Host.Outcome State Fault Refusal :=
  issue (.vfadd vd va vb m ty) (fun x => laneFloat3 x vd.toNat va.toNat vb.toNat m.toNat ty.toNat fun f rm a b _ => fadd f rm a b) s
def execVfsub (vd va vb : BitVec 7) (m ty : BitVec 2) (s : State) : Host.Outcome State Fault Refusal :=
  issue (.vfsub vd va vb m ty) (fun x => laneFloat3 x vd.toNat va.toNat vb.toNat m.toNat ty.toNat fun f rm a b _ => fsub f rm a b) s
def execVfmul (vd va vb : BitVec 7) (m ty : BitVec 2) (s : State) : Host.Outcome State Fault Refusal :=
  issue (.vfmul vd va vb m ty) (fun x => laneFloat3 x vd.toNat va.toNat vb.toNat m.toNat ty.toNat fun f rm a b _ => fmul f rm a b) s
def execVfma (vd va vb : BitVec 7) (m ty : BitVec 2) (s : State) : Host.Outcome State Fault Refusal :=
  issue (.vfma vd va vb m ty)
    (fun x => laneFloat3 x vd.toNat va.toNat vb.toNat m.toNat ty.toNat fun f rm a b d => ffma f rm false false a b d) s
def execVfms (vd va vb : BitVec 7) (m ty : BitVec 2) (s : State) : Host.Outcome State Fault Refusal :=
  issue (.vfms vd va vb m ty)
    (fun x => laneFloat3 x vd.toNat va.toNat vb.toNat m.toNat ty.toNat fun f rm a b d => ffma f rm false true a b d) s
def execVfnma (vd va vb : BitVec 7) (m ty : BitVec 2) (s : State) : Host.Outcome State Fault Refusal :=
  issue (.vfnma vd va vb m ty)
    (fun x => laneFloat3 x vd.toNat va.toNat vb.toNat m.toNat ty.toNat fun f rm a b d => ffma f rm true false a b d) s
def execVfmin (vd va vb : BitVec 7) (m ty : BitVec 2) (s : State) : Host.Outcome State Fault Refusal :=
  issue (.vfmin vd va vb m ty)
    (fun x => laneFloat3 x vd.toNat va.toNat vb.toNat m.toNat ty.toNat fun f _ a b _ => fminmax f false a b) s
def execVfmax (vd va vb : BitVec 7) (m ty : BitVec 2) (s : State) : Host.Outcome State Fault Refusal :=
  issue (.vfmax vd va vb m ty)
    (fun x => laneFloat3 x vd.toNat va.toNat vb.toNat m.toNat ty.toNat fun f _ a b _ => fminmax f true a b) s

def execVfrcp (vd va : BitVec 7) (m ty : BitVec 2) (s : State) : Host.Outcome State Fault Refusal :=
  issue (.vfrcp vd va m ty) (fun x => laneFloat2 x vd.toNat va.toNat m.toNat ty.toNat fun f _ a => frcp f a) s
def execVfrsq (vd va : BitVec 7) (m ty : BitVec 2) (s : State) : Host.Outcome State Fault Refusal :=
  issue (.vfrsq vd va m ty) (fun x => laneFloat2 x vd.toNat va.toNat m.toNat ty.toNat fun f _ a => frsq f a) s
def execVfsqrt (vd va : BitVec 7) (m ty : BitVec 2) (s : State) : Host.Outcome State Fault Refusal :=
  issue (.vfsqrt vd va m ty) (fun x => laneFloat2 x vd.toNat va.toNat m.toNat ty.toNat fun f rm a => fsqrt f rm a) s
def execVfexp2 (vd va : BitVec 7) (m ty : BitVec 2) (s : State) : Host.Outcome State Fault Refusal :=
  issue (.vfexp2 vd va m ty) (fun x => laneFloat2 x vd.toNat va.toNat m.toNat ty.toNat fun f _ a => fexp2 f a) s
def execVflog2 (vd va : BitVec 7) (m ty : BitVec 2) (s : State) : Host.Outcome State Fault Refusal :=
  issue (.vflog2 vd va m ty) (fun x => laneFloat2 x vd.toNat va.toNat m.toNat ty.toNat fun f _ a => flog2 f a) s
def execVfsin (vd va : BitVec 7) (m ty : BitVec 2) (s : State) : Host.Outcome State Fault Refusal :=
  issue (.vfsin vd va m ty) (fun x => laneFloat2 x vd.toNat va.toNat m.toNat ty.toNat fun f _ a => fsincos f false a) s
def execVfcos (vd va : BitVec 7) (m ty : BitVec 2) (s : State) : Host.Outcome State Fault Refusal :=
  issue (.vfcos vd va m ty) (fun x => laneFloat2 x vd.toNat va.toNat m.toNat ty.toNat fun f _ a => fsincos f true a) s
def execVfabs (vd va : BitVec 7) (m ty : BitVec 2) (s : State) : Host.Outcome State Fault Refusal :=
  issue (.vfabs vd va m ty) (fun x => laneFloat2 x vd.toNat va.toNat m.toNat ty.toNat fun f _ a => fabsCode f a) s
def execVfneg (vd va : BitVec 7) (m ty : BitVec 2) (s : State) : Host.Outcome State Fault Refusal :=
  issue (.vfneg vd va m ty) (fun x => laneFloat2 x vd.toNat va.toNat m.toNat ty.toNat fun f _ a => fnegCode f a) s
def execVfrndN (vd va : BitVec 7) (m ty : BitVec 2) (s : State) : Host.Outcome State Fault Refusal :=
  issue (.vfrndN vd va m ty) (fun x => laneFloat2 x vd.toNat va.toNat m.toNat ty.toNat fun f _ a => frnd f 0 a) s
def execVfrndZ (vd va : BitVec 7) (m ty : BitVec 2) (s : State) : Host.Outcome State Fault Refusal :=
  issue (.vfrndZ vd va m ty) (fun x => laneFloat2 x vd.toNat va.toNat m.toNat ty.toNat fun f _ a => frnd f 1 a) s
def execVfrndD (vd va : BitVec 7) (m ty : BitVec 2) (s : State) : Host.Outcome State Fault Refusal :=
  issue (.vfrndD vd va m ty) (fun x => laneFloat2 x vd.toNat va.toNat m.toNat ty.toNat fun f _ a => frnd f 2 a) s
def execVfrndU (vd va : BitVec 7) (m ty : BitVec 2) (s : State) : Host.Outcome State Fault Refusal :=
  issue (.vfrndU vd va m ty) (fun x => laneFloat2 x vd.toNat va.toNat m.toNat ty.toNat fun f _ a => frnd f 3 a) s
def execVffrc (vd va : BitVec 7) (m ty : BitVec 2) (s : State) : Host.Outcome State Fault Refusal :=
  issue (.vffrc vd va m ty) (fun x => laneFloat2 x vd.toNat va.toNat m.toNat ty.toNat fun f rm a => ffrc f rm a) s

/-- R83: one register for every type; element 1 of a packed type in bits [25:16]. -/
def execVfclass (vd va : BitVec 7) (m ty : BitVec 2) (s : State) : Host.Outcome State Fault Refusal :=
  issue (.vfclass vd va m ty) (fun x => laneWord x m.toNat vd.toNat fun l =>
    let c (e : Nat) := fclass (fmtOfTy ty.toNat) (felem x (x.op (f64Regs ty.toNat) va.toNat) ty.toNat e l)
    if ty.toNat < 2 then BitVec.ofNat 32 (c 0) else pack2 (c 0) (c 1)) s

/-- R81: n is a signed 32-bit integer, or the signed 16-bit element of vb for a packed type. -/
def execVfscale (vd va vb : BitVec 7) (m ty : BitVec 2) (s : State) : Host.Outcome State Fault Refusal :=
  issue (.vfscale vd va vb m ty) (fun x => laneFloat x vd.toNat m.toNat ty.toNat fun e l =>
    let b := x.v (x.op 1 vb.toNat) 0 l
    fscale (fmtOfTy ty.toNat) (fmtRm x.q.fmt) (felem x (x.op (f64Regs ty.toNat) va.toNat) ty.toNat e l)
      (if ty.toNat < 2 then b.toInt else sext 16 (elem b 16 e))) s

/-- R78: the conjunction over elements for packed types (R77); flags of the executing lanes. -/
def execVfcmp (cnd : BitVec 4) (md : BitVec 3) (va vb : BitVec 7) (m ty : BitVec 2) (s : State) : Host.Outcome State Fault Refusal :=
  issue (.vfcmp cnd md va vb m ty) (fun x s =>
    let n := f64Regs ty.toNat
    let r (e l : Nat) : Bool × BitVec 5 := fcmp (fmtOfTy ty.toNat) cnd.toNat (felem x (x.op n va.toNat) ty.toNat e l)
      (felem x (x.op n vb.toNat) ty.toNat e l)
    s.onGroup x fun g =>
      (writeCompare x m.toNat md.toNat (fun l => (felems ty.toNat).all fun e => (r e l).1) g).orFp
        (flagsOf (x.exec m.toNat) ty.toNat fun e l => (0, (r e l).2))) s

end Sys2Proof.Machine
end

