-- ==== Sys2Proof/Machine/Flight.lean ====
section
/-! DEFINITION. Machine/Flight.lean: long-latency instructions in flight (R20, R22, R23): how one starts, how its destination is held
meanwhile, and how it ends. -/

namespace Sys2Proof.Machine

/-- A destination as an instruction in flight keeps it: file, first register, registers. -/
def dstOf : List Loc → RegFile × Nat × Nat
  | .lane r :: t => (.lane, r, t.length + 1)
  | .scal n :: t => (.scalar, n, t.length + 1)
  | .mask n :: t => (.mask, n, t.length + 1)
  | _ => (.lane, 0, 0)

/-- The destination registers again (R147: a register at or above the declared count takes no write). -/
def Flight.locs (f : Flight) (g : Group) : List Loc :=
  (List.range f.ndst).map fun i =>
    match f.file with
    | .lane => if f.dst < 128 ∧ g.nregs ≤ f.dst + i then .zero else .lane (f.dst + i)
    | .scalar => .scal (f.dst + i)
    | .mask => .mask ((f.dst + i) % 8)

/-- An instruction about to be in flight: what every kind of it has alike. -/
def Iss.flight (x : Iss) (i : Instr) (look slot : Nat) : Flight where
  fid := 0
  instr := i
  pc := x.q.pc
  tag := x.q.tag
  quads := x.q.quads
  exec := 0
  fmt := x.q.fmt
  look := look
  after := 0
  slot := slot
  accs := []
  done := 0
  failed := 0
  opnds := []
  snap := []
  file := .lane
  dst := 0
  ndst := 0
  consumed := false
  spoiled := 0
  trap := none
  trapLane := 0
  demand := none
  demandLane := 0
  limit := waitClocks x.g.regs.waitlim
  waited := 0
  again := false
  hits := []

/-! ## Kinds of instructions in flight -/

/-- Memory accesses: loads, stores, atomics and LDP. -/
def isAccess : Instr → Bool
  | .vld .. | .vldPr .. | .vst .. | .vlda .. | .vstl .. | .sld .. | .sst .. | .vatom .. | .vatomAr .. | .vatomW .. | .satom ..
  | .ldp .. => true
  | _ => false

/-- Accesses that read (R192). -/
def isReadAccess : Instr → Bool
  | .vld .. | .vldPr .. | .vlda .. | .sld .. | .vatom .. | .vatomAr .. | .vatomW .. | .satom .. | .ldp .. => true
  | _ => false

/-- Stores. -/
def isStore : Instr → Bool
  | .vst .. | .vstl .. | .sst .. => true
  | _ => false

/-- Stores and atomics (R326). -/
def isWriteAccess : Instr → Bool
  | .vst .. | .vstl .. | .sst .. | .vatom .. | .vatomAr .. | .vatomW .. | .satom .. => true
  | _ => false

/-- Matrix operations: MMA and MMS (R231). -/
def isMatrixOp : Instr → Bool
  | .mma .. | .mmaR .. | .mms .. | .mmsR .. => true
  | _ => false

/-- The instruction in flight has an access to make (R196): its own, the source reads of a matrix-support load, the operand fetch of a
matrix operation until its operands are consumed. -/
def Flight.accesses (f : Flight) : Bool := isAccess f.instr || isTableLoad f.instr || (isMatrixOp f.instr && !f.consumed)

/-- It has a read to make. -/
def Flight.reads (f : Flight) : Bool := isReadAccess f.instr || isTableLoad f.instr || (isMatrixOp f.instr && !f.consumed)

/-- It is a load, as SQREL counts them (R263): a matrix operation's operand fetch, for which WAIT.OPC waits, is none. -/
def Flight.loads (f : Flight) : Bool := isReadAccess f.instr || isTableLoad f.instr

/-- Two destinations share a register. -/
def Busy.meets (a b : Busy) : Bool :=
  a.file = b.file && decide (a.first < b.first + b.count) && decide (b.first < a.first + a.count) && a.lanes &&& b.lanes != 0

/-- A destination in flight joins those of the group; what two instructions write is undefined for both (R23). -/
def Group.addBusy (g : Group) (b : Busy) : Group :=
  if b.count = 0 then g else
  let b := { b with hit := (g.busy.filter fun o => o.fid ≠ b.fid && o.meets b).foldl (fun h o => h ||| (o.lanes &&& b.lanes)) 0 }
  { g with busy := (g.busy.map fun o => if o.fid ≠ b.fid && o.meets b then { o with hit := o.hit ||| (o.lanes &&& b.lanes) } else o) ++ [b] }

/-- The report mask of a probe load, written at completion (R184). -/
def reportMask : Instr → Option Nat
  | .vldPr _ _ _ _ m => some m.toNat
  | _ => none

/-- Registers of a destination that take a write: those below the declared count (R147). -/
def Group.written (g : Group) (f : Flight) : Nat := if f.file = .lane ∧ f.dst < 128 then min f.ndst (g.nregs - f.dst) else f.ndst

/-- A group takes an instruction in flight with its destinations (R22, R23). -/
def Group.fly (g : Group) (f : Flight) (lanes : W64) : Group :=
  let g := { g with flights := g.flights ++ [f] }.addBusy ⟨f.fid, f.file, f.dst, g.written f, lanes, 0⟩
  match reportMask f.instr with
  | some m => g.addBusy ⟨f.fid, .mask, m, 1, lanes, 0⟩
  | none => g

/-- The issuing quad-set starts an instruction in flight and goes on. `lanes` are the lanes of the destination (bit 0 for a scalar). -/
def State.fly (s : State) (x : Iss) (f : Flight) (lanes : W64) : State :=
  (s.onGroup x fun g => g.fly { f with fid := s.next } lanes).fresh

/-- An instruction in flight of a group. -/
def Group.flight? (g : Group) (fid : Nat) : Option Flight := g.flights.find? fun f => f.fid = fid

def State.flight? (s : State) (grp fid : Nat) : Option (Group × Flight) :=
  match s.group? grp with
  | none => none
  | some g => (g.flight? fid).map fun f => (g, f)

def Group.modFlight (g : Group) (fid : Nat) (f : Flight → Flight) : Group :=
  { g with flights := g.flights.map fun k => if k.fid = fid then f k else k }

/-- The result of an instruction in flight lands in lane l: its own destination is not a conflict for it (R23), a dead lane takes
nothing (R10). -/
def Group.land (g : Group) (o : Loc) (l : Nat) (v : W32) : Group :=
  if bit g.regs.dead l then g else
  match o with
  | .lane r => { g.spoilRow r l with regs := { g.regs with lanes := tset 0 g.regs.lanes (64 * r + l) v } }
  | .mask n => if n = 0 then g else
    { g with regs := { g.regs with masks := tset 0 g.regs.masks n (maskOf fun i => if i = l then v ≠ 0 else bit (g.mask n) i) } }
  | .scal _ => g
  | .imm _ => g
  | .zero => g

/-- The words of a result land in lane l of the destination, from its register number `reg` on. -/
def Group.landWords (g : Group) (f : Flight) (reg l : Nat) (ws : List W32) : Group :=
  (((f.locs g).drop reg).zip ws).foldl (fun g (o, v) => g.land o l v) g

/-- A scalar result lands. -/
def Group.landScal (g : Group) (n : Nat) (v : W64) : Group :=
  if n = 0 then g else { g with regs := { g.regs with scal := tset 0 g.regs.scal n v } }

/-- The free value that a register takes when another instruction has written it while it was in flight (R23). -/
def Group.spoil (g : Group) (free : Nat) (b : Busy) : Group :=
  (bitList b.hit).foldl (fun g l =>
    (List.range b.count).foldl (fun g i =>
      match b.file with
      | .lane => g.land (.lane (b.first + i)) l ((freeVal free (64 * (b.first + i) + l)).setWidth 32)
      | .scalar => g.landScal (b.first + i) (freeVal free (16384 + b.first + i))
      | .mask => g.land (.mask ((b.first + i) % 8)) l (if bit (freeVal free (32768 + b.first + i)) l then 1 else 0)) g) g

/-- An instruction in flight has completed: it leaves, and what was undefined in its destination takes a free value (R22, R23). -/
def Group.landed (g : Group) (free fid : Nat) : Group :=
  let g := { g with flights := g.flights.filter fun f => f.fid ≠ fid }
  let mine := g.busy.filter fun b => b.fid = fid
  let g := { g with busy := g.busy.filter fun b => b.fid ≠ fid }
  mine.foldl (fun g b => g.spoil free b) g

/-- An instruction in flight of a group completes with an effect on the group. -/
def State.complete (s : State) (grp fid : Nat) (f : Group → Group) : State :=
  { s with free := s.free + 1 }.modGroup grp fun g => (f g).landed s.free fid

end Sys2Proof.Machine
end

