-- ==== Sys2Proof/Machine/Scalar.lean ====
section
/-! DEFINITION. Machine/Scalar.lean: scalar arithmetic, compares and selects, special registers, and division (R115 to R123). -/

namespace Sys2Proof.Machine

/-- A scalar instruction that forms one result: the .W forms act on the low halves and sign-extend their 32-bit result (R117). -/
def scalarOp (x : Iss) (sd sa sb : Nat) (wd : BitVec 1) (f64 : W64 → W64 → W64) (f32 : W32 → W32 → W32) (s : State) : State :=
  let a := x.s sa
  let b := x.s sb
  s.onGroup x fun g => g.wrScal (x.g.scalNo sd)
    (if wd = 1 then (f32 (a.setWidth 32) (b.setWidth 32)).signExtend 64 else f64 a b)

/-- Shift counts: b[5:0], and b[4:0] in the .W forms (R117). -/
def cnt64 (b : W64) : Nat := b.toNat % 64
def cnt32 (b : W32) : Nat := b.toNat % 32

/-- SBFX (R117): a field of `len` bits at `pos`, bits beyond the top reading as 0. -/
def fieldOf (a pos len : Nat) : Nat := a / 2 ^ pos % 2 ^ len

/-- Bits [hi:lo] of a 128-bit or 64-bit product (R117). -/
def mulHigh (n : Nat) (p : Int) : Nat := (p / 2 ^ n % 2 ^ n).toNat

/-- Leading zeros of an n-bit number. -/
def clzOf (n v : Nat) : Nat := n - (if v = 0 then 0 else Nat.log2 v + 1)

def execSadd (sd sa sb : BitVec 6) (wd : BitVec 1) (s : State) : Host.Outcome State Fault Refusal :=
  issue (.sadd sd sa sb wd) (fun x => scalarOp x sd.toNat sa.toNat sb.toNat wd (· + ·) (· + ·)) s
def execSsub (sd sa sb : BitVec 6) (wd : BitVec 1) (s : State) : Host.Outcome State Fault Refusal :=
  issue (.ssub sd sa sb wd) (fun x => scalarOp x sd.toNat sa.toNat sb.toNat wd (· - ·) (· - ·)) s
def execSmul (sd sa sb : BitVec 6) (wd : BitVec 1) (s : State) : Host.Outcome State Fault Refusal :=
  issue (.smul sd sa sb wd) (fun x => scalarOp x sd.toNat sa.toNat sb.toNat wd (· * ·) (· * ·)) s
def execSmulh (sd sa sb : BitVec 6) (wd : BitVec 1) (s : State) : Host.Outcome State Fault Refusal :=
  issue (.smulh sd sa sb wd) (fun x => scalarOp x sd.toNat sa.toNat sb.toNat wd
    (fun a b => BitVec.ofNat 64 (mulHigh 64 (a.toInt * b.toInt))) (fun a b => BitVec.ofNat 32 (mulHigh 32 (a.toInt * b.toInt)))) s
def execSmulhu (sd sa sb : BitVec 6) (wd : BitVec 1) (s : State) : Host.Outcome State Fault Refusal :=
  issue (.smulhu sd sa sb wd) (fun x => scalarOp x sd.toNat sa.toNat sb.toNat wd
    (fun a b => BitVec.ofNat 64 (a.toNat * b.toNat / 2 ^ 64)) (fun a b => BitVec.ofNat 32 (a.toNat * b.toNat / 2 ^ 32))) s
def execSand (sd sa sb : BitVec 6) (wd : BitVec 1) (s : State) : Host.Outcome State Fault Refusal :=
  issue (.sand sd sa sb wd) (fun x => scalarOp x sd.toNat sa.toNat sb.toNat wd (· &&& ·) (· &&& ·)) s
def execSor (sd sa sb : BitVec 6) (wd : BitVec 1) (s : State) : Host.Outcome State Fault Refusal :=
  issue (.sor sd sa sb wd) (fun x => scalarOp x sd.toNat sa.toNat sb.toNat wd (· ||| ·) (· ||| ·)) s
def execSxor (sd sa sb : BitVec 6) (wd : BitVec 1) (s : State) : Host.Outcome State Fault Refusal :=
  issue (.sxor sd sa sb wd) (fun x => scalarOp x sd.toNat sa.toNat sb.toNat wd (· ^^^ ·) (· ^^^ ·)) s
def execSandn (sd sa sb : BitVec 6) (wd : BitVec 1) (s : State) : Host.Outcome State Fault Refusal :=
  issue (.sandn sd sa sb wd) (fun x => scalarOp x sd.toNat sa.toNat sb.toNat wd (fun a b => a &&& ~~~b) (fun a b => a &&& ~~~b)) s
def execSshl (sd sa sb : BitVec 6) (wd : BitVec 1) (s : State) : Host.Outcome State Fault Refusal :=
  issue (.sshl sd sa sb wd)
    (fun x => scalarOp x sd.toNat sa.toNat sb.toNat wd (fun a b => a <<< cnt64 b) (fun a b => a <<< cnt32 b)) s
def execSshr (sd sa sb : BitVec 6) (wd : BitVec 1) (s : State) : Host.Outcome State Fault Refusal :=
  issue (.sshr sd sa sb wd)
    (fun x => scalarOp x sd.toNat sa.toNat sb.toNat wd (fun a b => a >>> cnt64 b) (fun a b => a >>> cnt32 b)) s
def execSsra (sd sa sb : BitVec 6) (wd : BitVec 1) (s : State) : Host.Outcome State Fault Refusal :=
  issue (.ssra sd sa sb wd)
    (fun x => scalarOp x sd.toNat sa.toNat sb.toNat wd (fun a b => a.sshiftRight (cnt64 b)) (fun a b => a.sshiftRight (cnt32 b))) s
def execSmin (sd sa sb : BitVec 6) (wd : BitVec 1) (s : State) : Host.Outcome State Fault Refusal :=
  issue (.smin sd sa sb wd) (fun x => scalarOp x sd.toNat sa.toNat sb.toNat wd
    (fun a b => if b.slt a then b else a) (fun a b => if b.slt a then b else a)) s
def execSmax (sd sa sb : BitVec 6) (wd : BitVec 1) (s : State) : Host.Outcome State Fault Refusal :=
  issue (.smax sd sa sb wd) (fun x => scalarOp x sd.toNat sa.toNat sb.toNat wd
    (fun a b => if a.slt b then b else a) (fun a b => if a.slt b then b else a)) s
def execSminu (sd sa sb : BitVec 6) (wd : BitVec 1) (s : State) : Host.Outcome State Fault Refusal :=
  issue (.sminu sd sa sb wd) (fun x => scalarOp x sd.toNat sa.toNat sb.toNat wd
    (fun a b => if b.ult a then b else a) (fun a b => if b.ult a then b else a)) s
def execSmaxu (sd sa sb : BitVec 6) (wd : BitVec 1) (s : State) : Host.Outcome State Fault Refusal :=
  issue (.smaxu sd sa sb wd) (fun x => scalarOp x sd.toNat sa.toNat sb.toNat wd
    (fun a b => if a.ult b then b else a) (fun a b => if a.ult b then b else a)) s
def execSpopc (sd sa : BitVec 6) (wd : BitVec 1) (s : State) : Host.Outcome State Fault Refusal :=
  issue (.spopc sd sa wd) (fun x => scalarOp x sd.toNat sa.toNat 0 wd
    (fun a _ => BitVec.ofNat 64 (popCount a)) (fun a _ => BitVec.ofNat 32 (popCount (a.setWidth 64)))) s
def execSclz (sd sa : BitVec 6) (wd : BitVec 1) (s : State) : Host.Outcome State Fault Refusal :=
  issue (.sclz sd sa wd) (fun x => scalarOp x sd.toNat sa.toNat 0 wd
    (fun a _ => BitVec.ofNat 64 (clzOf 64 a.toNat)) (fun a _ => BitVec.ofNat 32 (clzOf 32 a.toNat))) s
def execSmov (sd sa : BitVec 6) (wd : BitVec 1) (s : State) : Host.Outcome State Fault Refusal :=
  issue (.smov sd sa wd) (fun x => scalarOp x sd.toNat sa.toNat 0 wd (fun a _ => a) (fun a _ => a)) s
/-- pos = b[5:0] and len = min(b[14:8], 64); in the .W form pos = b[4:0] and len = min(b[13:8], 32) (R117). -/
def execSbfx (sd sa sb : BitVec 6) (wd : BitVec 1) (s : State) : Host.Outcome State Fault Refusal :=
  issue (.sbfx sd sa sb wd) (fun x => scalarOp x sd.toNat sa.toNat sb.toNat wd
    (fun a b => BitVec.ofNat 64 (fieldOf a.toNat (cnt64 b) (min (bits b 14 8) 64)))
    (fun a b => BitVec.ofNat 32 (fieldOf a.toNat (cnt32 b) (min (b.toNat / 256 % 64) 32)))) s

/-! ## Immediate forms (R118, R119) -/

/-- An immediate form: all of them are 64-bit (R118). -/
def scalarImm (x : Iss) (sd sa : Nat) (f : W64 → W64) (s : State) : State :=
  let a := x.s sa
  s.onGroup x fun g => g.wrScal (x.g.scalNo sd) (f a)

def execSaddi (sd sa : BitVec 6) (imm : BitVec 13) (s : State) : Host.Outcome State Fault Refusal :=
  issue (.saddi sd sa imm) (fun x => scalarImm x sd.toNat sa.toNat (· + imm.signExtend 64)) s
def execSandi (sd sa : BitVec 6) (imm : BitVec 13) (s : State) : Host.Outcome State Fault Refusal :=
  issue (.sandi sd sa imm) (fun x => scalarImm x sd.toNat sa.toNat (· &&& imm.signExtend 64)) s
def execSori (sd sa : BitVec 6) (imm : BitVec 13) (s : State) : Host.Outcome State Fault Refusal :=
  issue (.sori sd sa imm) (fun x => scalarImm x sd.toNat sa.toNat (· ||| imm.signExtend 64)) s
def execSxori (sd sa : BitVec 6) (imm : BitVec 13) (s : State) : Host.Outcome State Fault Refusal :=
  issue (.sxori sd sa imm) (fun x => scalarImm x sd.toNat sa.toNat (· ^^^ imm.signExtend 64)) s
def execSshli (sd sa num : BitVec 6) (s : State) : Host.Outcome State Fault Refusal :=
  issue (.sshli sd sa num) (fun x => scalarImm x sd.toNat sa.toNat (· <<< num.toNat)) s
def execSshri (sd sa : BitVec 6) (arith : BitVec 1) (num : BitVec 6) (s : State) : Host.Outcome State Fault Refusal :=
  issue (.sshri sd sa arith num) (fun x => scalarImm x sd.toNat sa.toNat fun a =>
    if arith = 1 then a.sshiftRight num.toNat else a >>> num.toNat) s
def execSli (sd : BitVec 6) (imm : BitVec 19) (s : State) : Host.Outcome State Fault Refusal :=
  issue (.sli sd imm) (fun x => scalarImm x sd.toNat 0 fun _ => imm.signExtend 64) s
def execSlui (sd : BitVec 6) (imm : BitVec 19) (s : State) : Host.Outcome State Fault Refusal :=
  issue (.slui sd imm) (fun x => scalarImm x sd.toNat sd.toNat fun a => (a &&& 0x1FFF#64) ||| (imm.signExtend 64 <<< 13)) s

/-! ## Compares and select (R120, R121) -/

def execScmp (sa sb : BitVec 6) (s : State) : Host.Outcome State Fault Refusal :=
  issue (.scmp sa sb) (fun x s => s.onGroup x fun g => g.setCc (ccOfDiff (x.s sa.toNat) (x.s sb.toNat))) s
def execScmpi (sa : BitVec 6) (imm : BitVec 12) (s : State) : Host.Outcome State Fault Refusal :=
  issue (.scmpi sa imm) (fun x s => s.onGroup x fun g => g.setCc (ccOfDiff (x.s sa.toNat) (imm.signExtend 64))) s
def execSsel (sd sa sb cnd : BitVec 6) (s : State) : Host.Outcome State Fault Refusal :=
  issue (.ssel sd sa sb cnd) (fun x s => s.onGroup x fun g => g.wrScal (x.g.scalNo sd.toNat)
    (if condHolds x.g.regs.cc cnd.toNat then x.s sa.toNat else x.s sb.toNat)) s

/-! ## Special registers (R27, R122) -/

/-- Items left in the manger for a launch (R341). -/
def Launch.itemsLeft (l : Launch) : Nat := (l.ranges.map (·.2)).sum - l.cursor

/-- Unfinished sealed batches, UNF of %batch (R256). -/
def Group.unf (g : Group) : Nat := g.batch.sealed.length

/-- %batch and %cstat (R256). -/
def Group.batchWord (g : Group) : W64 :=
  BitVec.ofNat 64 ((if g.batch.openHas then 256 else 0) + g.batch.next.toNat * 16 + g.unf)
def Group.cstatWord (g : Group) : W64 :=
  BitVec.ofNat 64 (g.batch.reason.toNat * 2 ^ 24 + (if g.batch.armf then 65536 else 0) + g.batch.fail.toNat)

/-- A word of a context's range map as it reads (R293): word1 reads as the last byte of the segment. -/
def Ctx.segWord (c : Ctx) (n : Nat) : W64 := if n % 4 = 1 then tget 0 c.segs n ||| 0xFFFF#64 else tget 0 c.segs n

/-- The value of a special register for the issuing quad-set (R27). -/
def specialRead (s : State) (x : Iss) (n : Nat) : W64 :=
  let g := x.g
  let c := s.ctx x.l.cid
  let nat (v : Nat) : W64 := BitVec.ofNat 64 v
  match n with
  | 0x000 => nat g.gid
  | 0x001 => nat x.t.idx
  | 0x002 => nat x.l.handle
  | 0x003 => nat x.t.core
  | 0x004 => nat (paddockOf x.t.core)
  | 0x005 => nat g.width
  | 0x006 => nat x.l.depth
  | 0x007 => nat x.l.tid
  | 0x008 => g.regs.live
  | 0x009 => g.regs.dead
  | 0x00A => x.q.quads.setWidth 64
  | 0x010 => x.q.fmt
  | 0x011 => g.regs.fpstat.setWidth 64
  | 0x012 => g.regs.cc.setWidth 64
  | 0x018 => match x.t.pacer with | some p => p.step.setWidth 64 | none => 0
  | 0x019 => match x.t.pacer with | some p => p.fin.setWidth 64 | none => 0
  | 0x01A => match x.t.pacer with | some p => nat p.index | none => 0
  | 0x020 => boolW64 g.preq
  | 0x021 => nat g.pleft
  | 0x028 => g.batchWord
  | 0x029 => g.cstatWord
  | 0x02A => g.regs.opc
  | 0x030 => (s.coreOf x.t.core).clk
  | 0x031 => g.regs.waitlim.setWidth 64
  | 0x032 => nat c.lockq
  | 0x040 => g.emu.cur.ecause
  | 0x041 => g.emu.cur.eword
  | 0x042 => g.emu.cur.epc
  | 0x043 => g.emu.cur.emask
  | 0x044 => g.emu.cur.w0
  | 0x045 => g.emu.cur.w1
  | 0x046 => g.emu.cur.w2
  | 0x047 => g.emu.cur.w3
  | 0x048 => nat g.emu.level
  | 0x050 => g.trap.tcause
  | 0x051 => g.trap.tpc
  | 0x052 => g.trap.taddr
  | 0x053 => g.trap.tdetail
  | 0x060 => c.eha
  | 0x061 => c.trh
  | 0x062 => x.l.feat
  | 0x063 => c.ems
  | 0x070 => nat x.l.itemsLeft
  | n => c.segWord (n - 0x100)

/-- The defined bits of %fmt (R41), and of the segment words (R293) (DEDUCED, assumption 85). -/
def fmtBits : W64 := 0x1FFFFF#64
def segBits (j : Nat) : W64 := if j = 3 then 0x800000FF00000707#64 else 0x0000FFFFFFFF0000#64

/-- The defined bits of %eha, %trh and %ems (R387). -/
def vaBits : W64 := 0x0000FFFFFFFFFFFF#64

/-- A word3 write is refused (R294): V = 1 with a segment that the rule excludes. -/
def segRefused (w0 w1 w2 w3 : W64) : Bool :=
  let base := bits w0 47 16
  let limit := bits w1 47 16
  let offset := bits w2 47 16
  let kind := segKind w3
  bit w3 63 && (decide (limit < base) || decide (2 ^ 32 + base ≤ offset + limit) || decide (4 < kind) || (bit w3 2 && kind != 0)
    || (bits w3 39 32 != 0 && kind != 3) || decide (143 < bits w3 39 32) || (offset != 0 && kind == 1))

/-- Word j of segment i written (R294): words 0 to 2 are staged, word 3 commits; the flag tells a refused write. -/
def Ctx.writeSeg (c : Ctx) (i j : Nat) (v : W64) : Ctx × Bool :=
  let v := v &&& segBits j
  if j ≠ 3 then ({ c with stage := tset 0 c.stage (4 * i + j) v }, false) else
  let st (k : Nat) := tget 0 c.stage (4 * i + k)
  let refused := segRefused (st 0) (st 1) (st 2) v
  let v := if refused then v &&& 0x7FFFFFFFFFFFFFFF#64 else v
  ({ c with segs := tset 0 (tset 0 (tset 0 (tset 0 c.segs (4 * i) (st 0)) (4 * i + 1) (st 1)) (4 * i + 2) (st 2)) (4 * i + 3) v }, refused)

/-- SSET (R122); the body finds a register that may be written. -/
def bodySset (x : Iss) (sa num : Nat) (s : State) : State :=
  let v := x.s sa
  let ems (f : EmuEntry → EmuEntry) : State := s.onGroup x fun g => { g with emu := { g.emu with cur := f g.emu.cur } }
  let toCtx (f : Ctx → Ctx) : State := (s.modCtx x.l.cid f).advance x
  match num with
  | 0x010 => s.modGroup x.g.ref fun g => g.modQ x.q.tag fun q => QSet.advance { q with fmt := v &&& fmtBits }
  | 0x011 => s.onGroup x fun g => { g with regs := { g.regs with fpstat := v.setWidth 5 } }
  | 0x012 => s.onGroup x fun g => g.setCc (v.setWidth 4)
  | 0x029 => s.onGroup x fun g => { g with batch := { g.batch with
      fail := g.batch.fail &&& ~~~(v.setWidth 16), armf := g.batch.armf && !bit v 16 } }
  | 0x031 => s.onGroup x fun g => { g with regs := { g.regs with waitlim := v.setWidth 32 } }
  | 0x044 => ems fun e => { e with w0 := descStored v }
  | 0x045 => ems fun e => { e with w1 := descStored v }
  | 0x046 => ems fun e => { e with w2 := descStored v }
  | 0x047 => ems fun e => { e with w3 := descStored v }
  | 0x060 => toCtx fun c => { c with eha := v &&& vaBits }
  | 0x061 => toCtx fun c => { c with trh := v &&& vaBits }
  | 0x063 => toCtx fun c => { c with ems := v &&& vaBits }
  | n =>
    if !(s.ctx x.l.cid).rt then s.raise x tcPerm (BitVec.ofNat 64 n) (laneDetail 0 8) else
    let (c, refused) := (s.ctx x.l.cid).writeSeg ((n - 0x100) / 4) ((n - 0x100) % 4) v
    let s := s.modCtx x.l.cid fun _ => c
    if refused then s.raise x tcPerm (BitVec.ofNat 64 ((n - 0x100) / 4)) (laneDetail 0 7) else s.advance x

def execSget (sd : BitVec 6) (num : BitVec 12) (s : State) : Host.Outcome State Fault Refusal :=
  issue (.sget sd num) (fun x s => s.onGroup x fun g => g.wrScal (x.g.scalNo sd.toNat) (specialRead s x num.toNat)) s
def execSset (sa : BitVec 6) (num : BitVec 12) (s : State) : Host.Outcome State Fault Refusal :=
  issue (.sset sa num) (fun x => bodySset x sa.toNat num.toNat) s

/-! ## Division (R123) -/

/-- Quotient and remainder of n-bit numbers (R123). -/
def divide (n : Nat) (signed : Bool) (a b : Nat) : Nat × Nat :=
  let a := a % 2 ^ n
  let b := b % 2 ^ n
  if b = 0 then (2 ^ n - 1, a)
  else if signed then
    let p := sext n a
    let q := sext n b
    (iwrap n (p.tdiv q), iwrap n (p.tmod q))
  else (a / b, a % b)

/-- The result of an instruction of the SDIV family. -/
def divResult (signed rem : Bool) (wd : BitVec 1) (a b : W64) : W64 :=
  if wd = 1 then
    let r := divide 32 signed a.toNat b.toNat
    (BitVec.ofNat 32 (if rem then r.2 else r.1)).signExtend 64
  else
    let r := divide 64 signed a.toNat b.toNat
    BitVec.ofNat 64 (if rem then r.2 else r.1)

/-- An instruction of the SDIV family starts; DIVIDE_COMPLETE writes its result. -/
def bodyDiv (x : Iss) (i : Instr) (sd sa sb la : Nat) (s : State) : State :=
  s.fly x { x.flight i la 7 with
    opnds := [x.s sa, x.s sb], file := .scalar, dst := x.g.scalNo sd, ndst := if sd = 0 then 0 else 1 } 1

def execSdiv (sd sa sb : BitVec 6) (la : BitVec 4) (wd : BitVec 1) (s : State) : Host.Outcome State Fault Refusal :=
  issue (.sdiv sd sa sb la wd) (fun x => bodyDiv x (.sdiv sd sa sb la wd) sd.toNat sa.toNat sb.toNat la.toNat) s
def execSdivu (sd sa sb : BitVec 6) (la : BitVec 4) (wd : BitVec 1) (s : State) : Host.Outcome State Fault Refusal :=
  issue (.sdivu sd sa sb la wd) (fun x => bodyDiv x (.sdivu sd sa sb la wd) sd.toNat sa.toNat sb.toNat la.toNat) s
def execSrem (sd sa sb : BitVec 6) (la : BitVec 4) (wd : BitVec 1) (s : State) : Host.Outcome State Fault Refusal :=
  issue (.srem sd sa sb la wd) (fun x => bodyDiv x (.srem sd sa sb la wd) sd.toNat sa.toNat sb.toNat la.toNat) s
def execSremu (sd sa sb : BitVec 6) (la : BitVec 4) (wd : BitVec 1) (s : State) : Host.Outcome State Fault Refusal :=
  issue (.sremu sd sa sb la wd) (fun x => bodyDiv x (.sremu sd sa sb la wd) sd.toNat sa.toNat sb.toNat la.toNat) s

end Sys2Proof.Machine
end

