-- ==== Sys2Proof/Machine/Team.lean ====
section
/-! DEFINITION. Machine/Team.lean: what quad-sets, groups and teams do together: reconvergence (R100, R101), barriers (R108 to R110),
the pacer's finished step (R276), stage status words (R261), batches (R256), lane deaths (R10, R375) and the retirement of groups
(R132). -/

namespace Sys2Proof.Machine

/-! ## Quads -/

/-- Running quads of a group: those of its quad-sets; exited and dead quads have left them (R101). -/
def Group.running (g : Group) : W16 := g.qsets.foldl (fun m q => m ||| q.quads) 0

/-- Quads of `q` all lie in `m`. -/
def quadsIn (q m : W16) : Bool := q &&& ~~~m = 0

/-! ## Reconvergence (R100, R101, R127) -/

/-- The innermost entry of a quad-set: the most recent one whose mask contains its quads (R100). The stack's head is its top. -/
def Group.innermost (g : Group) (quads : W16) : Option RecEntry := g.rstack.find? fun e => quadsIn quads e.quads

/-- Of two quad-sets held at JOINs of one clause, the one at the later JOIN (R127). -/
def laterOf (a b : QSet) : QSet := if a.pc.toNat < b.pc.toNat then b else a

/-- A set tag after a merge: an absorbed one becomes the one that is left. -/
def retag (old : List Nat) (new tag : Nat) : Nat := if old.contains tag then new else tag

/-- What the absorbed quad-sets have in flight, in the replay list or waiting to be reported is from now on that of the quad-set that they
have joined, which therefore enters the trap handler for it (R101, R345, R347). -/
def Group.retag (g : Group) (old : List Nat) (new : Nat) : Group :=
  let own (t : Nat) : Nat := Machine.retag old new t
  let fl (f : Flight) : Flight := { f with tag := own f.tag, trap := f.trap.map fun r => { r with tag := own r.tag } }
  { g with
    flights := g.flights.map fl
    emu := { g.emu with tag := own g.emu.tag }
    trap := { g.trap with
      replay := g.trap.replay.map fl
      pend := g.trap.pend.map fun r => { r with tag := own r.tag }
      shadows := g.trap.shadows.map fun k => { k with trap := { k.trap with tag := own k.trap.tag } }
      mode := g.trap.mode.map fun m => { m with tag := own m.tag, replay := m.replay.map fl } } }

/-- A quad-set held at a JOIN. -/
def QSet.joining (q : QSet) : Bool := match q.hold with | some h => h.kind = .join | none => false

/-- The quad-sets of an entry's mask. -/
def RecEntry.holds (e : RecEntry) (q : QSet) : Bool := q.quads ≠ 0 && quadsIn q.quads e.quads

/-- One entry completes: the quad-sets held at its JOINs merge, take the snapshot FMT, and resume after the latest JOIN (R101). -/
def Group.finishEntry (g : Group) (e : RecEntry) : Group :=
  match g.qsets.filter e.holds with
  | [] => { g with rstack := g.rstack.erase e }
  | q :: qs =>
    let last := qs.foldl laterOf q
    let all := qs.foldl (fun m k => m ||| k.quads) q.quads
    { g with
      rstack := g.rstack.erase e
      qsets := (g.qsets.filter fun q => !e.holds q) ++ [QSet.advance { last with quads := all, fmt := e.fmt }] }.retag
        ((q :: qs).map fun (k : QSet) => k.tag) last.tag

/-- Entries that are complete: every quad of the mask has arrived, exited or died (R101). A quad-set that has left its JOIN for a trap
handler is not back until it is held there again (R349). -/
def Group.entryDone (g : Group) (e : RecEntry) : Bool :=
  quadsIn (e.quads &&& g.running) e.arrived && (g.qsets.filter e.holds).all QSet.joining

/-- Every complete entry is removed, the top of the stack first (R100, R101). -/
def Group.settleJoins : Nat → Group → Group
  | 0, g => g
  | n + 1, g => match g.rstack.find? g.entryDone with
    | some e => Group.settleJoins n (g.finishEntry e)
    | none => g

/-- REGANG completes when every running quad is held at a REGANG of one address (R101). -/
def Group.settleRegang (g : Group) : Group :=
  match g.qsets with
  | [] => g
  | q :: qs =>
    let held (k : QSet) : Bool := (match k.hold with | some h => h.kind = .regang | none => false) && k.pc = q.pc
    if (q :: qs).all held then
      let low := qs.foldl (fun a b => if lowQuad b.quads < lowQuad a.quads then b else a) q
      { g with qsets := [QSet.advance { low with quads := g.running }] }.retag ((q :: qs).map fun (k : QSet) => k.tag) low.tag
    else g

/-- Reconvergence after any event that may complete it (R101). -/
def Group.settle (g : Group) : Group := (Group.settleJoins (g.rstack.length) g).settleRegang

/-- Quads leave the group: its quad-sets, its entries and its return entries (R101, R104). -/
def Group.dropQuads (g : Group) (quads : W16) : Group :=
  { g with
    qsets := (g.qsets.map fun q => { q with quads := q.quads &&& ~~~quads }).filter fun q => q.quads ≠ 0
    rstack := g.rstack.map fun e => { e with quads := e.quads &&& ~~~quads, arrived := e.arrived &&& ~~~quads }
    retstack := (g.retstack.map fun e => { e with quads := e.quads &&& ~~~quads }).filter fun e => e.quads ≠ 0 }

/-! ## Barriers (R108 to R110) -/

/-- A barrier that nothing has used. -/
def Barrier.empty : Barrier := ⟨0, 0, 0, [], [], []⟩

/-- The groups of a team. -/
def State.groupsOf (s : State) (team : Nat) : List Group := s.groups.filter fun g => g.team = team

/-- What a group has in flight, in the replay list and in the list that trap mode keeps. -/
def Group.unfinished (g : Group) : List Flight :=
  g.flights ++ g.trap.replay ++ (match g.trap.mode with | some m => m.replay | none => [])

/-- Every access that the group issued before a mark is performed (R111, R210). -/
def Group.released (g : Group) (mark : Nat) : Bool := g.unfinished.all fun f => mark ≤ f.fid || !f.accesses

/-- A group counts as arrived once every running quad has arrived (R109). -/
def Barrier.arriveGroup (b : Barrier) (g : Group) : Barrier :=
  if g.run = .retired ∨ b.arrived.getLsbD g.gix ∨ g.running = 0 ∨ !quadsIn g.running (tget 0 b.quads g.gix) then b else
  { b with count := b.count + 1, arrived := b.arrived ||| (1#32 <<< g.gix), last := tset 0 b.last g.gix (BitVec.ofNat 16 b.gen) }

/-- The generation completes when every group has arrived or retired (R109) and what the arrivals release is complete (R111, R210). -/
def Barrier.settle (gs : List Group) (b : Barrier) : Barrier :=
  let b := gs.foldl Barrier.arriveGroup b
  if b.count ≠ 0 ∧ gs.all (fun g => g.run = .retired || (b.arrived.getLsbD g.gix && g.released (tget 0 b.marks g.gix))) then
    { b with count := 0, gen := (b.gen + 1) % 65536, arrived := 0, quads := [], marks := [] }
  else b

/-- A team's barrier. -/
def Team.bar (t : Team) (n : Nat) : Barrier := tget Barrier.empty t.bars n

/-- Quads of a group arrive at a barrier (R109). -/
def Barrier.arrive (b : Barrier) (gix : Nat) (quads : W16) (mark : Nat) : Barrier :=
  { b with quads := tset 0 b.quads gix (tget 0 b.quads gix ||| quads), marks := tset 0 b.marks gix mark }

/-! ## Stage status words (R261) -/

/-- A stage that SQINIT has not initialised. -/
def Stage.none : Stage := ⟨0, 0, 0, 0, [], []⟩

/-- STATE of a status word. -/
def slotCode : SlotState → Nat
  | .free => 0
  | .filling => 1
  | .filled => 2
  | .failed => 3

/-- The status word of a slot. -/
def Slot.word (k : Slot) : Nat := k.reason % 16 * 2 ^ 28 + slotCode k.state * 2 ^ 24 + k.seq % 2 ^ 24

/-- A slot after a change of state, and its status word written in the scratchpad (R261). -/
def Team.setSlot (t : Team) (stage i : Nat) (k : Slot) : Team :=
  let st := tget Stage.none t.stages stage
  { t with
    stages := tput t.stages stage { st with slots := st.slots.set i k }
    spad := t.spad.write (st.base + 8 * i) (leBytes 8 k.word) }

/-- The block of the core's array that holds an offset of a team's scratchpad is spilled, or the team is saved: its bytes are in the saved
state (R353, R354). -/
def Team.imaged (t : Team) (off : Nat) : Bool := t.state == .saved || t.spilled.blocks.contains ((t.spadBase + off) / 65536)

/-- A write that covers bytes of a team's scratchpad repairs the words that it covers whole (R402), where they are. -/
def State.spadRepair (s : State) (team off n : Nat) : State :=
  match s.team? team with
  | none => s
  | some t =>
    let whole (o : Nat) : Bool := decide (off ≤ o) && decide (o + 8 ≤ off + n)
    let s := if t.lost = [] then s else s.modTeam team fun t => { t with lost := t.lost.filter fun b => !(b.1 = 2 && t.imaged b.2 && whole b.2) }
    if s.bad.all fun b => b.1 ≠ 2 then s else
    { s with bad := s.bad.filter fun b =>
        let o := b.2 % 2 ^ 32 - t.spadBase
        !(b.1 = 2 && b.2 / 2 ^ 32 = whereSpad t.core 0 / 2 ^ 32 && decide (t.spadBase ≤ b.2 % 2 ^ 32) && whole o && !t.imaged o) }

/-- A slot of a team's stage changes, with its status word. -/
def State.setSlot (s : State) (team stage i : Nat) (k : Slot) : State :=
  (s.modTeam team fun t => t.setSlot stage i k).spadRepair team
    ((match s.team? team with | some t => (tget Stage.none t.stages stage).base | none => 0) + 8 * i) 8

/-- A slot that becomes FREE: STATE and REASON 0, SEQ left as it was (R261). -/
def Slot.freed (k : Slot) : Slot := { k with state := .free, reason := 0, released := false }

/-! ## Pacer (R276) -/

/-- a ≥ b among steps (R275). -/
def stepGe (a b : W32) : Bool := decide ((a - b).toNat < 2 ^ 31)

/-- A team's copy of a neighbour's FIN; before any message it is that of a team that has finished nothing (R274, R277). -/
def Pacer.finOf (p : Pacer) (i : Nat) : W32 := BitVec.ofNat 32 (tget 0 p.copies i + (2 ^ 32 - 1))

/-- A group has finished step STEP once every running quad has arrived (R276). -/
def Pacer.arriveGroup (p : Pacer) (g : Group) : Pacer :=
  if g.run = .retired ∨ g.running = 0 ∨ !quadsIn g.running (tget 0 p.quads g.gix) then p
  else { p with arrived := p.arrived ||| (1#32 <<< g.gix), doneSteps := tset 0 p.doneSteps g.gix (p.step.toNat + 1) }

/-- FIN := STEP when every group has finished the step; nothing changes once all have retired (R276). -/
def Pacer.settle (gs : List Group) (p : Pacer) : Pacer × Bool :=
  if p.fin = p.step ∨ gs.all (fun g => g.run = .retired) then (p, false) else
  let p := gs.foldl Pacer.arriveGroup p
  if gs.all fun g => g.run = .retired || p.arrived.getLsbD g.gix then ({ p with fin := p.step, arrived := 0, quads := [] }, true)
  else (p, false)

/-- The teams that hear of a team's FIN: those it names and those that name it (R277). -/
def hearsOf (t u : Team) : Bool :=
  match t.pacer, u.pacer with
  | some p, some q => p.up.contains q.index || p.down.contains q.index || q.up.contains p.index || q.down.contains p.index
  | _, _ => false

/-- The team's FIN is settled: on a change, the step buffer's status word is written FILLED (R280) and messages leave (R278). -/
def State.settlePacer (s : State) (team : Nat) : State :=
  match s.team? team with
  | none => s
  | some t =>
    match t.pacer with
    | none => s
    | some p =>
      let (q, changed) := p.settle (s.groupsOf team)
      let s := s.modTeam team fun t => { t with pacer := some q }
      if !changed then s else
      let s := if q.sbslot = 0 then s
        else s.setSlot team 7 (q.fin.toNat % q.window) ⟨.filled, q.fin.toNat % 2 ^ 24, 0, false⟩
      { s with finMsgs := s.finMsgs ++
          ((s.teams.filter fun u => u.launch = t.launch ∧ hearsOf t u).map fun u => (u.ref, q.index, q.fin.toNat)) }

/-! ## Batches (R256 to R258) -/

/-- The open batch is sealed (R257): it takes NEXT, FAIL[b] tells whether a copy of it has failed, and an empty batch is finished. -/
def Group.seal (g : Group) : Group :=
  let b := g.batch
  let n := b.next.toNat
  let keep := b.fail &&& ~~~(1#16 <<< n)
  { g with batch := { b with
      openJobs := [], openHas := false, openFail := false, next := b.next + 1
      fail := if b.openFail then keep ||| (1#16 <<< n) else keep
      sealed := if b.openJobs = [] then b.sealed else b.sealed ++ [⟨n, b.openJobs⟩] } }

/-- A copy of a group's batches has ended, with a reason unless it is 0: UNF falls when the batch was its last (R256). -/
def Group.copyDone (g : Group) (job reason : Nat) : Group :=
  let b := g.batch
  let inOpen := b.openJobs.contains job
  let num := (b.sealed.find? fun k => k.jobs.contains job).map (·.num)
  let left := (b.sealed.map fun k => { k with jobs := k.jobs.filter (· ≠ job) }).filter fun k => k.jobs ≠ []
  let fail := match num with | some n => if reason ≠ 0 then b.fail ||| (1#16 <<< n) else b.fail | none => b.fail
  { g with batch := { b with
      openJobs := b.openJobs.filter (· ≠ job), openFail := b.openFail || (inOpen && reason != 0), sealed := left, fail := fail
      reason := if reason ≠ 0 ∧ g.run ≠ .retired then BitVec.ofNat 4 reason else b.reason } }

/-! ## Groups and teams that end -/

/-- Barriers and pacer of a team, looked at again after a change of its quads or groups. -/
def State.settleTeam (s : State) (team : Nat) : State :=
  let gs := s.groupsOf team
  (s.modTeam team fun t => { t with bars := t.bars.map fun (n, b) => (n, b.settle gs) }).settlePacer team

/-- Every group of the team has retired, so the team ends as DONE (R132, R337); TEAM_END follows, in a paced team within the WAITLIM of
the group that exited last (R290). -/
def State.teamOver (s : State) (team limit : Nat) : State :=
  if (s.groupsOf team).all fun g => g.run = .retired then
    s.modTeam team fun t => if t.state = .ended ∨ t.state = .ending then t else
      { t with state := .ending, status := stDone, endLimit := limit, endWait := 0 }
  else s

/-- A group retires (R132): its rows and context are free, and it counts as arrived everywhere from now on (R109, R276). -/
def State.retire (s : State) (grp : Nat) : State :=
  match s.group? grp with
  | none => s
  | some g => ((s.modGroup grp Group.retired).settleTeam g.team).teamOver g.team (waitClocks g.regs.waitlim)

/-- A handler's quad-set is gone: an emulation is abandoned (R151), and trap mode is left with its list still to replay (DEDUCED, assumption 88).
What counts is the set that entered, not one that SPLIT made of its quads in the handler (DESIGN CHOICE, assumption 105). -/
def Group.abandon (g : Group) : Group :=
  let gone (tag : Nat) : Bool := !g.qsets.any fun q => q.tag = tag
  let g := if g.emu.level ≠ 0 ∧ gone g.emu.tag then { g with emu := { g.emu with level := 0 } } else g
  match g.trap.mode with
  | some t => if gone t.tag then g.tret t false else g
  | none => g

/-- Quads all of whose lanes below the width are dead. -/
def Group.deadQuads (g : Group) : W16 :=
  (List.range 16).foldl (fun m i =>
    if (List.range 4).all fun l => g.width ≤ 4 * i + l || bit g.regs.dead (4 * i + l) then m ||| (1#16 <<< i) else m) 0

/-- A quad-set's quads leave the group (R101, R132): the group settles, and retires when no quad is left running. -/
def State.leave (s : State) (grp : Nat) (quads : W16) : State :=
  match s.group? grp with
  | none => s
  | some g =>
    let s := s.modGroup grp fun g => (g.dropQuads quads).settle.abandon.settle
    if (g.dropQuads quads).qsets = [] then s.retire grp else s.settleTeam g.team

/-- Lanes die (R375): DEAD is set, LANEDEAD counts those newly dead, and quads without an undead lane leave (R101). -/
def State.killLanes (s : State) (grp : Nat) (lanes : W64) : State :=
  match s.group? grp with
  | none => s
  | some g =>
    if g.run = .retired then s else
    let new := lanes &&& widthLanes g.width &&& ~~~g.regs.dead
    let s := match s.homeOf g with
      | some (_, l) => s.modTenant l.tid fun t => { t with lanedead := bump t.lanedead (popCount new) }
      | none => s
    let s := s.modGroup grp fun g => { g with regs := { g.regs with dead := g.regs.dead ||| new } }
    match s.group? grp with
    | none => s
    | some g => s.leave grp g.deadQuads

/-- Every lane of a group dies (R374). -/
def State.killGroup (s : State) (grp : Nat) : State := s.killLanes grp (BitVec.allOnes 64)

/-! ## Words that cannot be saved (R373, R374) -/

/-- Scratchpad words of a team that fail their check leave the core's array with the bytes that are spilled or saved: no bit of them goes into
the saved state (R373) (DEDUCED, assumption 128). -/
def State.loseSpad (s : State) (t : Team) (here : Nat → Bool) : State :=
  let off (b : Nat × Nat) : Nat := b.2 % 2 ^ 32 - t.spadBase
  let mine (b : Nat × Nat) : Bool := b.1 = 2 && b.2 / 2 ^ 32 = whereSpad t.core 0 / 2 ^ 32 && decide (t.spadBase ≤ b.2 % 2 ^ 32)
    && decide (off b < t.spadBytes) && !t.imaged (off b) && here (off b)
  let gone := s.bad.filter mine
  if gone = [] then s else
  { s with bad := s.bad.filter fun b => !mine b }.modTeam t.ref fun t => { t with lost := t.lost ++ gone.map fun b => (2, off b) }

/-- So do the failing words of the table set that a partition holds, with the team whose set it is (R228). -/
def State.loseTables (s : State) (core part : Nat) : State :=
  let mine (b : Nat × Nat) : Bool := b.1 = 9 && b.2 / 2 ^ 54 = whereTable core part 0 0 / 2 ^ 54
  let gone := s.bad.filter mine
  if gone = [] then s else
  let s : State := { s with bad := s.bad.filter fun b => !mine b }
  match tget 0 (s.coreOf core).owner part with
  | 0 => s
  | o + 1 => s.modTeam o fun t => { t with lost := t.lost ++ gone }

/-- What is missing from the saved state of a team is read as it comes back: every group of the team is killed (R374). -/
def State.restoreLost (s : State) (t : Team) (here : Nat × Nat → Bool) : State :=
  let gone := t.lost.filter here
  if gone = [] then s else
  let s := gone.foldl (fun s b => s.detected b.1 (if b.1 = 2 then whereSpad t.core (t.spadBase + b.2) else b.2) 2 0) s
  let s := s.modTeam t.ref fun t => { t with lost := t.lost.filter fun b => !here b }
  (s.groupsOf t.ref).foldl (fun s g => s.killGroup g.ref) s

/-! ## Whose a paddock is (R363, R366) -/

/-- The active bank, and the inactive one. -/
def Lodge.bank (d : Lodge) (active : Bool) : Tbl (W64 × W64 × W64) := if active then d.bank1 else d.bank0

/-- The assignment words of a paddock in a bank. -/
def assignOf (b : Tbl (W64 × W64 × W64)) (p : Nat) : W64 × W64 × W64 := tget (0, 0, 0) b p

/-- OWNER of an assignment. -/
def asOwner (a : W64 × W64 × W64) : Nat := bits a.1 5 0

/-- The assignment of a paddock in force, and its OWNER. -/
def State.assign (s : State) (p : Nat) : W64 × W64 × W64 := assignOf (s.lodge.bank s.lodge.active) p
def State.owner (s : State) (p : Nat) : Nat := asOwner (s.assign p)

/-- The tenant that a paddock is lent to, 0 for none (R366). -/
def State.lentTo (s : State) (p : Nat) : Nat := tget 0 s.lodge.loans p

/-- The core lies in a paddock that is lent to the tenant (R366). -/
def State.borrowed (s : State) (core tid : Nat) : Bool := s.lentTo (paddockOf core) = tid && tid ≠ 0

/-- A debugger has stopped a core (R270, R359); on a lent one its halt is ignored (R368). -/
def State.suspended (s : State) (core : Nat) : Bool := (s.coreOf core).dbg.state = 2 && s.lentTo (paddockOf core) = 0

/-- A debugger halts a core or has stopped it, unless it is lent (R359, R368). -/
def State.debugHeld (s : State) (core : Nat) : Bool := (s.coreOf core).dbg.state ≠ 0 && s.lentTo (paddockOf core) = 0

end Sys2Proof.Machine
end

