-- ==== Sys2Proof/Machine/Control.lean ====
section
/-! DEFINITION. Machine/Control.lean: clauses and headers (R16 to R21), branches and calls (R124 to R126), divergence and refill (R127 to
R129), barriers and waits (R130, R131), EXIT, SETFMT, NOP (R130 to R133), the trap instructions (R137, R138), FBAR (R139), ERET and EWIN
(R152, R153), and the entry of words that are not instructions (R140). -/

namespace Sys2Proof.Machine

/-! ## Clauses (R16 to R18) -/

/-- Classes of R17: 0 MIXED, 1 LANE, 2 MEM, 3 MATRIX, 4 COPY, 5 PACE, 6 SYSTEM. -/
def opClass (op : Nat) : Option Nat :=
  if op = 0 ∨ op = 0x1E ∨ op = 0x1F ∨ (0x2D ≤ op ∧ op ≤ 0x2F) ∨ (0x3A ≤ op ∧ op ≤ 0x3F) then none
  else if op < 0x40 then some 1
  else if op < 0x58 then none
  else if op = 0x58 ∨ op = 0x6D then some 6
  else if op = 0x59 then none
  else if op < 0x66 then some 2
  else if op < 0x69 then some 3
  else if op < 0x6B then some 4
  else if op < 0x6D then some 5
  else none

/-- The clause check (R18): the slot that fails first, if one does. Words of class S and words whose opcode is undefined or reserved
stand in any clause. -/
def clauseCheck (hdr : W32) (words : List W32) : Option Nat :=
  let cls := wbits hdr 10 8
  if wbits hdr 24 24 ≠ 0 ∨ wbits hdr 7 4 ≠ 0 ∨ cls = 7 then some 0 else
  ((words.zipIdx).find? fun (w, _) =>
    isHeader w || (cls != 0 && match opClass (wordOp w) with | some c => c != cls | none => false)).map fun (_, i) => i + 1

/-- The words of a clause after its header, fetched one by one; a refused word ends the fetch with its address. -/
def State.fetchWords (s : State) (core cid : Nat) : Nat → Nat → State × Except (FetchErr × Nat) (List W32)
  | 0, _ => (s, .ok [])
  | n + 1, va =>
    match s.fetchWord core cid va with
    | (s, .error e) => (s, .error (e, va))
    | (s, .ok w) =>
      match s.fetchWords core cid n (va + 4) with
      | (s, .error e) => (s, .error e)
      | (s, .ok ws) => (s, .ok (w :: ws))

/-- A fetch that is refused (R176): PERM with the fetch address, or an abort, which kills the whole group (R374) (DEDUCED, assumption 24). -/
def State.fetchRefused (s : State) (x : Iss) (e : FetchErr) (va : Nat) : State :=
  match e with
  | .perm reason => s.raise x tcPerm (BitVec.ofNat 64 va) (laneDetail 0 reason)
  | .abort unit place => (s.detected unit place 2 0).killGroup x.g.ref

/-- CLAUSE_FETCH (R16): the clause at the quad-set's pc is fetched whole and checked; it is buffered, or CLAUSE is raised at its header
and no word of it issues (DEDUCED, assumption 22). -/
def bodyFetch (x : Iss) (s : State) : State :=
  let clauseTrap (s : State) (slot : Nat) := s.raise x tcClause 0 (BitVec.ofNat 64 slot)
  match s.fetchWord x.t.core x.l.cid x.q.pc.toNat with
  | (s, .error e) => s.fetchRefused x e x.q.pc.toNat
  | (s, .ok h) =>
    if !isHeader h then clauseTrap s 0 else
    match s.fetchWords x.t.core x.l.cid (wbits h 3 0) (x.q.pc.toNat + 4) with
    | (s, .error (e, va)) => s.fetchRefused x e va
    | (s, .ok ws) =>
      match clauseCheck h ws with
      | some slot => clauseTrap s slot
      | none => s.modGroup x.g.ref fun g => g.modQ x.q.tag fun q => { q with clause := some ⟨x.q.pc, h :: ws⟩ }

/-- A quad-set that may run stands at a header that it has not fetched (R16); nothing of a group that is halted, that waits to take a trap,
or whose core a debugger halts is fetched; a quad-set whose instruction a SHADOW trap waits for goes on (R379). -/
def fetchDue (s : State) (grp tag : Nat) : Bool :=
  match s.issAt grp tag with
  | some x => x.q.clause.isNone && x.q.hold.isNone && (!x.g.trap.waits || x.g.trap.ahead x.q) && x.mayRun && x.g.run = .run
      && !s.debugHeld x.t.core
  | none => false

def execClauseFetch (grp tag : Nat) (s : State) : Host.Outcome State Fault Refusal :=
  event (fetchDue s grp tag) (match s.issAt grp tag with | some x => bodyFetch x s | none => s) s

/-! ## Yield points (R105, R151, R352) -/

/-- The quad-set stands at a YIELD or at a header with YLD (R352). -/
def QSet.atYield (q : QSet) : Bool :=
  match q.word? with
  | some w => (wordOp w = 0x56 && wbits w 24 20 = 3) || (isHeader w && wbits w 11 11 = 1)
  | none => false

/-- A quad-set is at a yield point, held at a JOIN, REGANG or barrier, or parked at a CYIELD (R105, R259). -/
def QSet.yields (q : QSet) : Bool :=
  match q.hold with
  | some h => match h.kind with
    | .join | .regang | .barrier _ _ | .rearrive _ _ _ | .cyield _ _ => true
    | _ => q.atYield
  | none => q.atYield

/-- The group is at a yield point: each of its quad-sets is, or it is parked on a fault (R105, R346). Of the quad-set that has entered
the emulation handler only a YIELD or a YLD header of the handler is one (R151). -/
def Group.yields (g : Group) : Bool :=
  g.trap.parked || g.qsets.all fun q => if g.emu.level ≠ 0 ∧ q.tag = g.emu.tag then q.atYield else q.yields

/-- A group asked to halt halts as soon as it is at a yield point (R352). -/
def Group.halt (g : Group) : Group := if g.preq ∧ g.run = .run ∧ g.yields then { g with run := .halted } else g

/-! ## The header's own step (R17, R19) -/

/-- The group's detached instructions, and those of a scoreboard slot (R20, R22). -/
def Group.detached (g : Group) : Bool := g.flights.any fun f => f.look = 15
def Group.slotBusy (g : Group) (n : Nat) : Bool := g.flights.any fun f => f.slot = n

/-- BATCH and SBWAIT of a header both hold (R17, R258). -/
def Group.headerReady (g : Group) (batch sbwait : Nat) : Bool :=
  (batch = 15 || decide (g.unf ≤ batch))
    && !(sbwait % 2 = 1 && g.detached)
    && (List.range 7).all fun i => !(sbwait / 2 ^ (i + 1) % 2 = 1 && g.slotBusy (i + 1))

/-- A header (R19): with YLD set and a request standing the group may halt here; then the waits; then the words. A pad header leads on
to the header after it. -/
def bodyHeader (x : Iss) (batch sbwait yld : Nat) (s : State) : State :=
  if yld = 1 ∧ x.g.halt.run ≠ x.g.run then s.modGroup x.g.ref Group.halt
  else if x.g.headerReady batch sbwait then s.advance x
  else s.hold x .cond false

/-- A header issues without counting as an instruction (R22); one that the clause check refuses raises CLAUSE (R18). -/
def execClauseHeader (batch : BitVec 4) (sbwait : BitVec 8) (yld : BitVec 1) (cls : BitVec 3) (count : BitVec 4) (s : State) :
    Host.Outcome State Fault Refusal :=
  match s.iss with
  | none => .fault .noIssuer
  | some x => .next (
      if !(Instr.clauseHeader batch sbwait yld cls count).wellFormed then s.raise x tcClause 0 0
      else bodyHeader x batch.toNat sbwait.toNat yld.toNat s)

/-! ## Branches and calls (R124 to R126) -/

def execBr (cnd : BitVec 5) (off : BitVec 20) (s : State) : Host.Outcome State Fault Refusal :=
  issue (.br cnd off) (fun x s => if condHolds x.g.regs.cc cnd.toNat then s.jump x (branchTarget x off) else s.advance x) s

/-- BRM's tests over B, the lanes whose EXEC is set under m0, and T = B ∩ m (R99): 0 MZ, 1 MNZ, 2 MALL. -/
def maskTest (test : Nat) (b t : W64) : Bool :=
  match test with
  | 0 => t = 0
  | 1 => t ≠ 0
  | _ => t = b

def execBrm (test : BitVec 2) (m : BitVec 3) (off : BitVec 20) (s : State) : Host.Outcome State Fault Refusal :=
  issue (.brm test m off) (fun x s =>
    if maskTest test.toNat (x.exec0 0) (x.exec0 m.toNat) then s.jump x (branchTarget x off) else s.advance x) s

/-- Address of the header that follows the clause of a quad-set: its header's address + 4·(COUNT + 1) (R126). -/
def QSet.nextHeader (q : QSet) : W64 :=
  match q.clause with
  | some c => c.hdr + BitVec.ofNat 64 (4 * c.words.length)
  | none => q.pc + 4

/-- CALL and CALLI (R126): the target is checked when the transfer is made; a 257th return entry raises DIVSTACK with code 5 (DEDUCED,
assumption 81). -/
def bodyCall (x : Iss) (target : W64) (s : State) : State :=
  if Config.returnMax ≤ x.g.retstack.length then s.raise x tcDivstack 0 5
  else if !s.headerAt x.t.core x.l.cid target then s.raise x tcTarget target 0
  else s.modGroup x.g.ref fun g =>
    { g with retstack := ⟨x.q.nextHeader, x.q.quads⟩ :: g.retstack }.modQ x.q.tag fun q => q.goto target

def execCall (off : BitVec 20) (s : State) : Host.Outcome State Fault Refusal :=
  issue (.call off) (fun x => bodyCall x (branchTarget x off)) s
def execBri (ss : BitVec 6) (s : State) : Host.Outcome State Fault Refusal :=
  issue (.bri ss) (fun x s => s.jump x (x.s ss.toNat)) s
def execCalli (ss : BitVec 6) (s : State) : Host.Outcome State Fault Refusal :=
  issue (.calli ss) (fun x => bodyCall x (x.s ss.toNat)) s

/-- The return stack after a RET of `quads`: they leave the innermost entry that contains them, which is freed when empty (R104). -/
def dropReturn (quads : W16) : List RetEntry → List RetEntry
  | [] => []
  | e :: t => if quadsIn quads e.quads then
      (if e.quads &&& ~~~quads = 0 then t else { e with quads := e.quads &&& ~~~quads } :: t)
    else e :: dropReturn quads t

/-- RET (R104): the innermost covering entry's address; none raises DIVSTACK with code 4. -/
def bodyRet (x : Iss) (s : State) : State :=
  match x.g.retstack.find? fun e => quadsIn x.q.quads e.quads with
  | none => s.raise x tcDivstack 0 4
  | some e =>
    if !s.headerAt x.t.core x.l.cid e.addr then s.raise x tcTarget e.addr 0
    else s.modGroup x.g.ref fun g =>
      { g with retstack := dropReturn x.q.quads g.retstack }.modQ x.q.tag fun q => q.goto e.addr

def execRet (s : State) : Host.Outcome State Fault Refusal := issue .ret bodyRet s

/-! ## Divergence (R101, R127, R128) -/

/-- MARK: the target is checked first, then the room (R127). -/
def bodyMark (x : Iss) (target : W64) (s : State) : State :=
  if !s.headerAt x.t.core x.l.cid target then s.raise x tcTarget target 0
  else if Config.reconvMax ≤ x.g.rstack.length then s.raise x tcDivstack 0 1
  else s.onGroup x fun g => { g with rstack := ⟨target, x.q.quads, x.q.fmt, 0⟩ :: g.rstack }

def execMark (off : BitVec 20) (s : State) : Host.Outcome State Fault Refusal :=
  issue (.mark off) (fun x => bodyMark x (branchTarget x off)) s

/-- Quads added to the arrived mask of an entry; of equal entries the most recent one is meant (R100, R101). -/
def arriveAt (e : RecEntry) (quads : W16) : List RecEntry → List RecEntry
  | [] => []
  | k :: t => if k = e then { k with arrived := k.arrived ||| quads } :: t else k :: arriveAt e quads t

/-- A quad-set that arrives at its entry's JOIN (R101). -/
def Group.arriveJoin (g : Group) (e : RecEntry) (quads : W16) : Group := { g with rstack := arriveAt e quads g.rstack }

/-- JOIN (R101, R127): DIVSTACK 2 without an entry, 3 at a clause that is not the entry's; otherwise the quad-set arrives and is held
until the entry completes. -/
def bodyJoin (x : Iss) (s : State) : State :=
  match x.g.innermost x.q.quads with
  | none => s.raise x tcDivstack 0 2
  | some e =>
    if x.q.clause.map (·.hdr) ≠ some e.rejoin then s.raise x tcDivstack 0 3
    else (s.hold x .join false).modGroup x.g.ref fun g => (g.arriveJoin e x.q.quads).settle

def execJoin (s : State) : Host.Outcome State Fault Refusal := issue .join bodyJoin s

/-- The quads of the issuing set that depart at a SPLIT: at least one lane where LIVE ∧ ¬DEAD ∧ m(l) (R101). -/
def splitQuads (x : Iss) (m : Nat) : W16 :=
  quadsWith x.q.quads (x.g.regs.live &&& ~~~x.g.regs.dead &&& x.g.rdMask x.free m &&& widthLanes x.g.width)

/-- The departing quads as a quad-set of their own at the target, with a copy of FMT; the rest fall through (R101). -/
def Group.split (g : Group) (q : QSet) (dep : W16) (target : W64) : Group :=
  let new : QSet := QSet.goto { q with tag := g.nextTag, quads := dep } target
  let g := g.modQ q.tag fun q => QSet.advance { q with quads := q.quads &&& ~~~dep }
  { g with qsets := g.qsets ++ [new], nextTag := g.nextTag + 1 }

/-- SPLIT (R128): the target is checked only when some quad departs. -/
def bodySplit (x : Iss) (m : Nat) (target : W64) (s : State) : State :=
  let dep := splitQuads x m
  if dep = 0 then s.advance x
  else if !s.headerAt x.t.core x.l.cid target then s.raise x tcTarget target 0
  else if dep = x.q.quads then s.modGroup x.g.ref fun g => g.modQ x.q.tag fun q => q.goto target
  else s.modGroup x.g.ref fun g => g.split x.q dep target

def execSplit (m : BitVec 3) (off : BitVec 20) (s : State) : Host.Outcome State Fault Refusal :=
  issue (.split m off) (fun x => bodySplit x m.toNat (branchTarget x off)) s

/-- REGANG (R128): held until every running quad of the group is held at one; bounded by WAITLIM. -/
def execRegang (s : State) : Host.Outcome State Fault Refusal :=
  issue .regang (fun x s => (s.hold x .regang true).modGroup x.g.ref Group.settle) s

/-! ## Refill (R106, R107, R129) -/

/-- Item number k of the launch's ranges, in list order (R341). -/
def itemAt : List (Nat × Nat) → Nat → Nat
  | [], _ => 0
  | (first, count) :: t, k => if k < count then first + k else itemAt t (k - count)

/-- Lanes of the passing quad-set that a refill gives items: neither live nor dead, ascending, while items are left (R106). -/
def refillLanes (x : Iss) : List Nat := (bitList (x.lanes &&& ~~~x.g.regs.live &&& ~~~x.g.regs.dead)).take x.l.itemsLeft

/-- A lane takes an item and becomes live. -/
def Group.refill (g : Group) (l : Nat) (item : W32) : Group :=
  { g with regs := { g.regs with items := tset 0xFFFFFFFF#32 g.regs.items l item, live := g.regs.live ||| (1#64 <<< l) } }

/-- IHEAD (R129). -/
def bodyIhead (x : Iss) (target : W64) (s : State) : State :=
  let ls := refillLanes x
  let s := s.modLaunch x.l.ref fun l => { l with cursor := l.cursor + ls.length }
  let s := s.modGroup x.g.ref fun g => (ls.zipIdx).foldl (fun g (l, i) =>
    g.refill l (BitVec.ofNat 32 (itemAt x.l.ranges (x.l.cursor + i)))) g
  let live := x.g.regs.live ||| maskOf fun l => ls.contains l
  if live &&& ~~~x.g.regs.dead &&& x.lanes = 0 then s.jump x target else s.advance x

def execIhead (off : BitVec 20) (s : State) : Host.Outcome State Fault Refusal :=
  issue (.ihead off) (fun x => bodyIhead x (branchTarget x off)) s

/-- IDONE (R129): LIVE is cleared for every lane whose EXEC is set under m. -/
def execIdone (m : BitVec 3) (s : State) : Host.Outcome State Fault Refusal :=
  issue (.idone m) (fun x s => s.onGroup x fun g => { g with regs := { g.regs with live := g.regs.live &&& ~~~x.exec0 m.toNat } }) s

/-! ## Barriers (R109, R110) -/

/-- A quad-set arrives: quads that have arrived in this generation are told apart, the others are added (R110). -/
def arriveBar (x : Iss) (bar : Nat) (quads : W16) (s : State) : State :=
  (s.modTeam x.t.ref fun t => { t with bars := tput t.bars bar ((t.bar bar).arrive x.g.gix quads s.next) }).settleTeam x.t.ref

/-- Generation of a barrier of the issuing team. -/
def barGen (s : State) (x : Iss) (bar : Nat) : Nat := match s.team? x.t.ref with | some t => (t.bar bar).gen | none => 0

/-- BARSYNC and BARARR up to the arrival, then on with `after` and the generation arrived in. A quad that arrives a second time is held
until the generation completes and then counts in the next one (R110). -/
def bodyArrive (x : Iss) (bar : Nat) (after : Nat → State → State) (s : State) : State :=
  let b := x.t.bar bar
  let arrive (quads : W16) (s : State) : State :=
    let again := quads &&& tget 0 b.quads x.g.gix
    let s := arriveBar x bar (quads &&& ~~~again) s
    if again = 0 then after b.gen s else s.hold x (.rearrive bar b.gen again) true
  match x.q.hold.map Hold.kind with
  | some (.barrier _ gen) => if b.gen = gen then s.hold x (.barrier bar gen) true else s.advance x
  | some (.rearrive _ gen again) => if b.gen = gen then s.hold x (.rearrive bar gen again) true else arrive (again &&& x.q.quads) s
  | _ => arrive x.q.quads s

/-- Held until the generation changes (R110). -/
def waitGen (x : Iss) (bar gen : Nat) (s : State) : State :=
  if barGen s x bar ≠ gen then s.advance x else s.hold x (.barrier bar gen) true

def execBarsync (bar : BitVec 4) (s : State) : Host.Outcome State Fault Refusal :=
  issue (.barsync bar) (fun x => bodyArrive x bar.toNat fun gen => waitGen x bar.toNat gen) s
def execBararr (bar : BitVec 4) (s : State) : Host.Outcome State Fault Refusal :=
  issue (.bararr bar) (fun x => bodyArrive x bar.toNat fun _ s => s.advance x) s

/-- BARWAIT (R110): held until the generation differs from that in which the group last arrived; at once when the group has no arrival
open in the current one. -/
def bodyBarwait (x : Iss) (bar : Nat) (s : State) : State :=
  let b := x.t.bar bar
  match x.q.hold.map Hold.kind with
  | some (.barrier _ gen) => if b.gen = gen then s.hold x (.barrier bar gen) true else s.advance x
  | _ =>
    let last := (tget 0 b.last x.g.gix).toNat
    if b.arrived.getLsbD x.g.gix ∧ b.gen = last then s.hold x (.barrier bar last) true else s.advance x

def execBarwait (bar : BitVec 4) (s : State) : Host.Outcome State Fault Refusal :=
  issue (.barwait bar) (fun x => bodyBarwait x bar.toNat) s

/-! ## YIELD, NOP and waits (R130, R131) -/

/-- YIELD: the group halts here if it has been asked to and is at a yield point; otherwise nothing (R130, R352). -/
def execYield (s : State) : Host.Outcome State Fault Refusal :=
  issue .yield (fun x s => (s.advance x).modGroup x.g.ref fun g => if x.g.halt.run ≠ x.g.run then { g with run := .halted } else g) s

def execNop (s : State) : Host.Outcome State Fault Refusal := issue .nop (fun x s => s.advance x) s

/-- A local wait: the quad-set goes on when the condition holds, and is held otherwise; never bounded by WAITLIM (R131). -/
def waitFor (x : Iss) (c : Bool) (s : State) : State := if c then s.advance x else s.hold x .cond false

/-- Matrix operations of the group that lack their operands-consumed event, or their result (R131, R231). -/
def Group.unconsumed (g : Group) : Nat := (g.flights.filter fun f => isMatrixOp f.instr && !f.consumed).length
def Group.unwritten (g : Group) : Nat := (g.flights.filter fun f => isMatrixOp f.instr).length

/-- Every slot named in the list is empty (R131: bit i−1 for SBi). -/
def Group.slotsEmpty (g : Group) (list : Nat) : Bool := (List.range 7).all fun i => !(list / 2 ^ i % 2 = 1 && g.slotBusy (i + 1))

def execWaitSb (slots : BitVec 7) (s : State) : Host.Outcome State Fault Refusal :=
  issue (.waitSb slots) (fun x => waitFor x (x.g.slotsEmpty slots.toNat)) s
def execWaitDet (s : State) : Host.Outcome State Fault Refusal := issue .waitDet (fun x => waitFor x (!x.g.detached)) s
def execWaitOpc (num : BitVec 4) (s : State) : Host.Outcome State Fault Refusal :=
  issue (.waitOpc num) (fun x => waitFor x (decide (x.g.unconsumed ≤ num.toNat))) s
def execWaitMat (num : BitVec 4) (s : State) : Host.Outcome State Fault Refusal :=
  issue (.waitMat num) (fun x => waitFor x (decide (x.g.unwritten ≤ num.toNat))) s
def execWaitBatch (num : BitVec 4) (s : State) : Host.Outcome State Fault Refusal :=
  issue (.waitBatch num) (fun x => waitFor x (decide (x.g.unf ≤ num.toNat))) s

/-! ## EXIT and SETFMT (R132, R133) -/

/-- EXIT takes the whole group with it: in the trap handler, in the emulation handler, and when the issuing quad-set is the last. -/
def Iss.exitsAll (x : Iss) : Bool := x.g.trap.mode.isSome || x.g.emu.level != 0 || x.g.qsets.length = 1

/-- EXIT (R132): it waits until the group has nothing in flight; the quad-set's quads leave. The last one seals the open batch, if it
holds a copy, and waits until every sealed batch has finished before the group retires (DEDUCED, assumption 34). -/
def bodyExit (x : Iss) (s : State) : State :=
  if x.g.flights ≠ [] then s.hold x (.drain s.next) false
  else if !x.exitsAll then s.leave x.g.ref x.q.quads
  else
    let g := if x.g.batch.openHas ∧ x.g.unf < 15 then x.g.seal else x.g
    let s := if x.g.batch.openHas ∧ x.g.unf < 15 then s.modGroup x.g.ref Group.seal else s
    if g.batch.openHas ∨ g.batch.sealed ≠ [] then s.hold x .cond false else s.retire x.g.ref

def execExit (s : State) : Host.Outcome State Fault Refusal := issue .exit bodyExit s

/-- FMT of the issuing quad-set after a SETFMT (R133). -/
def setFmt (x : Iss) (v : W64) (s : State) : State :=
  s.modGroup x.g.ref fun g => g.modQ x.q.tag fun q => QSet.advance { q with fmt := v }

/-- The immediate form writes FMT[18:0] and leaves CBSEL. -/
def execSetfmt (imm : BitVec 19) (s : State) : Host.Outcome State Fault Refusal :=
  issue (.setfmt imm) (fun x => setFmt x ((x.q.fmt &&& 0x180000#64) ||| imm.setWidth 64)) s
def execSetfmtScalar (ss : BitVec 6) (s : State) : Host.Outcome State Fault Refusal :=
  issue (.setfmtScalar ss) (fun x => setFmt x (x.s ss.toNat &&& 0x1FFFFF#64)) s

/-! ## Traps, returns and FBAR (R137 to R139, R152, R153) -/

def execTrap (code : BitVec 16) (s : State) : Host.Outcome State Fault Refusal :=
  issue (.trap code) (fun x s => s.raise x tcTrap 0 (code.setWidth 64)) s

/-- BRK (R137); with BRKHALT set it halts the core instead, with %tpc at the BRK, and execution goes on behind it afterwards (R359)
(DEDUCED, assumption 33). A debug halt on a borrowed core is ignored (R368): there a BRK of the borrower traps. -/
def bodyBrk (x : Iss) (code : BitVec 16) (s : State) : State :=
  if (s.coreOf x.t.core).dbg.brkhalt ∧ s.borrowed x.t.core x.l.tid = false then
    (s.onGroup x fun g => { g with trap := { g.trap with tpc := x.q.pc } }).modCore x.t.core fun c =>
      { c with dbg := { c.dbg with halt := true, state := 1 } }
  else s.raise x tcBrk 0 (code.setWidth 64)

def execBrk (code : BitVec 16) (s : State) : Host.Outcome State Fault Refusal := issue (.brk code) (fun x => bodyBrk x code) s

/-- A STEP copy that its CPY has only offered is given up with the wait (R264, R349). -/
def State.giveUp (s : State) (h : Option Hold) : State :=
  match h.map Hold.kind with
  | some (.armed job) => { s with copies := s.copies.filter fun c => c.job ≠ job }
  | _ => s

/-- TRET (R138, R349): 0 .retry, 1 .next, 2 .kill. What the saved hold waits for, and what a dropped store held up, is looked at again. -/
def bodyTret (x : Iss) (form : Nat) (s : State) : State :=
  match x.g.trap.mode with
  | none => s
  | some t =>
    if form = 2 then s.endTeam x.g.team stTrap (.trap (bits x.g.trap.tcause 7 0))
    else ((if form = 1 then s.giveUp t.hold else s).modGroup x.g.ref fun g => (g.tret t (form = 1)).settle).settleTeam x.g.team

def execTret (form : BitVec 2) (s : State) : Host.Outcome State Fault Refusal := issue (.tret form) (fun x => bodyTret x form.toNat) s

/-- ERET (R152): it waits until nothing issued at this level is incomplete. -/
def execEret (retry : BitVec 1) (s : State) : Host.Outcome State Fault Refusal :=
  issue (.eret retry) (fun x s =>
    if x.g.flights ≠ [] then s.hold x (.drain s.next) false else s.modGroup x.g.ref fun g => g.eret x.q.tag (retry = 1)) s

/-- A descriptor repointed (R153): NUM and KIND written, HM 0, IMM and DST unchanged. -/
def repoint (d : W64) (num kind : Nat) : W64 := (d &&& 0xFFFFFFFF00000800#64) ||| BitVec.ofNat 64 (kind * 256 + num)

def EmuEntry.setW (e : EmuEntry) (i : Nat) (f : W64 → W64) : EmuEntry :=
  match i with
  | 0 => { e with w0 := f e.w0 }
  | 1 => { e with w1 := f e.w1 }
  | 2 => { e with w2 := f e.w2 }
  | _ => { e with w3 := f e.w3 }

def execEwin (win : BitVec 2) (num : BitVec 7) (kind : BitVec 2) (s : State) : Host.Outcome State Fault Refusal :=
  issue (.ewin win num kind) (fun x s => s.onGroup x fun g =>
    { g with emu := { g.emu with cur := g.emu.cur.setW win.toNat fun d => repoint d num.toNat kind.toNat } }) s

/-- FBAR (R139): the issuing core's L1 instruction cache loses every line of the context. -/
def execFbar (s : State) : Host.Outcome State Fault Refusal :=
  issue .fbar (fun x s => (s.modCore x.t.core fun c => { c with ic := c.ic.filter fun l => l.cid ≠ x.l.cid }).advance x) s

/-! ## Words that are not instructions (R36, R140) -/

/-- EMULATION_ENTRY: the focus issues a word that the decoder refuses. -/
def execEmulationEntry (w : W32) (s : State) : Host.Outcome State Fault Refusal :=
  match s.iss with
  | none => .fault .noIssuer
  | some x => .next ((s.prep x).enterEmu x w (wordCause x.l.kernel.isa w) 0)

end Sys2Proof.Machine
end

