-- ==== Sys2Proof/Machine/Access.lean ====
section
/-! DEFINITION. Machine/Access.lean: what every memory instruction shares: the addresses and checks of R177 and R178, the outcomes of R179,
the order of R197 among a group's own accesses, and one access at its target (R163, R166, R172, R182). -/

namespace Sys2Proof.Machine

/-! ## Places -/

/-- Where a VA lies, and its segment (R295): none where no segment holds it. -/
def Ctx.place (c : Ctx) (va : Nat) : Option (Nat × Target) :=
  match c.segOf va with
  | none => none
  | some i =>
    some (i, match segKind (c.seg i 3) with
      | 0 => .glob va (c.tia i va)
      | 1 => .spad (c.segOff i va)
      | 2 => .aperture va (c.segOff i va + bits (c.seg i 2) 47 16 * 65536)
      | 3 => .fabric va (bits (c.seg i 3) 39 32) (c.tia i va)
      | _ => .host va (c.tia i va))

/-- How an access behaves in the checks of R178 and R182. -/
inductive AccUse where
  | load
  | store
  /-- VST.B64 or SST.B64. -/
  | store8
  | loadAcq
  | storeRel
  | atomic
  | cacheOp
  deriving DecidableEq, Repr

/-- Whether an access reads, and whether it writes, for the permissions of R178 check 4. -/
def AccUse.reads : AccUse → Bool
  | .load | .loadAcq | .atomic | .cacheOp => true
  | .store | .store8 | .storeRel => false
def AccUse.writes : AccUse → Bool
  | .store | .store8 | .storeRel | .atomic => true
  | .load | .loadAcq | .cacheOp => false

/-- An access as it issues: lane (0 for a scalar), address, whether the address is a scratchpad offset, and the words it carries. -/
structure Ask where
  lane : Nat
  addr : Nat
  offset : Bool
  data : List W32
  deriving DecidableEq, Repr

/-- What a failed check does. -/
inductive Denied where
  | lease
  | trap (cause : Nat) (addr detail : W64)
  deriving DecidableEq, Repr

/-- The arrays of the handler's alias and their sizes (R149, R226, R227). -/
def aliasSize (arr : Nat) : Nat :=
  match arr with
  | 0 => Config.weightBytes
  | 1 => Config.sideBytes
  | 2 => Config.codebookBytes
  | 3 => Config.zeroPointBytes
  | _ => 0

/-- A scratchpad offset that means the matrix state: bit 31 set, in handler mode (R149). -/
def Iss.alias (x : Iss) (a : Ask) : Bool := a.offset && x.g.hlevel != 0 && decide (2 ^ 31 ≤ a.addr)

/-- The target of an access that has a segment, or of an offset (R177, R149). Bits [27:18] of a matrix-state address, which R149 gives no
meaning, are ignored (DESIGN CHOICE, assumption 111). -/
def Ask.target (x : Iss) (c : Ctx) (a : Ask) : Option Target :=
  if x.alias a then some (.matrix (a.addr / 2 ^ 28 % 8) (a.addr % 2 ^ 18))
  else if a.offset then some (.spad a.addr)
  else (c.place a.addr).map (·.2)

/-- The first access, in lane order, that fails a check. -/
def firstFail (as : List Ask) (bad : Ask → Bool) : Option Ask := as.find? bad

/-- PERM and MISALIGN report the failing lane's address, and for a scratchpad bound the offset (R163, R178). -/
def denyAt (cause addr lane reason : Nat) : Denied := .trap cause (BitVec.ofNat 64 addr) (laneDetail lane reason)

/-- A segment kind does not accept the access (R182 check 5): an aperture takes loads, 8-byte stores and cache operations. A channel
outside the tenant's assignment is refused the same way (R266). -/
def kindRefuses (u : AccUse) (channels : Nat) (t : Target) : Bool :=
  match t with
  | .aperture _ off =>
    (match u with | .load | .store8 | .cacheOp => false | _ => true) || (u != .cacheOp && decide (channels ≤ off / 4096))
  | _ => false

/-- R112: stores with some lane in an aperture segment; the lowest lane that differs from the lowest executing lane, and 1 for the
address, 2 for the data; 1 for a lane that differs in both (DESIGN CHOICE, assumption 110), and where some lanes lie elsewhere. -/
def uniformFail (x : Iss) (c : Ctx) (u : AccUse) (as : List Ask) : Option (Nat × Nat) :=
  let ap (a : Ask) : Bool := match a.target x c with | some (.aperture _ _) => true | _ => false
  match as with
  | [] => none
  | r :: rest =>
    if !u.writes || !as.any ap then none
    else (rest.find? fun a => a.addr ≠ r.addr || a.data ≠ r.data).map fun a =>
      (a.lane, if a.addr ≠ r.addr ∨ as.any (fun b => !ap b) then 1 else 2)

/-- The checks of R178 in their order; each covers every lane before the next starts (DEDUCED, assumption 91). -/
def checkAll (x : Iss) (c : Ctx) (channels : Nat) (u : AccUse) (size : Nat) (as : List Ask) : Option Denied :=
  let seg (a : Ask) : Nat := ((c.place a.addr).map (·.1)).getD 0
  let off (a : Ask) : Option Nat := match a.target x c with | some (.spad o) => some o | _ => none
  let perms (a : Ask) : Bool :=
    if x.alias a then u.writes
    else !a.offset && ((u.reads && !bit (c.seg (seg a) 3) 0) || (u.writes && !bit (c.seg (seg a) 3) 1))
  match firstFail as fun a => !a.offset && decide (2 ^ 48 ≤ a.addr) with
  | some a => some (denyAt tcPerm a.addr a.lane 6)
  | none =>
  match firstFail as fun a => !a.offset && !leaseOk x.l.leases u.writes a.addr size with
  | some _ => some .lease
  | none =>
  match firstFail as fun a => !a.offset && (c.place a.addr).isNone with
  | some a => some (denyAt tcPerm a.addr a.lane 1)
  | none =>
  match firstFail as perms with
  | some a => some (denyAt tcPerm a.addr a.lane 2)
  | none =>
  match firstFail as fun a => match a.target x c with | some t => kindRefuses u channels t | none => false with
  | some a => some (denyAt tcPerm a.addr a.lane 5)
  | none =>
  match firstFail as fun a => match a.target x c with
      | some (.matrix arr o) => decide (aliasSize arr ≤ o)
      | some (.spad o) => decide (x.t.spadBytes ≤ o)
      | _ => false with
  | some a => some (denyAt tcPerm (match off a with | some o => o | none => a.addr) a.lane 3)
  | none =>
  match firstFail as fun a => (match off a with | some o => o | none => a.addr) % size != 0 with
  | some a => some (denyAt tcMisalign a.addr a.lane 0)
  | none => (uniformFail x c u as).map fun (l, d) => .trap tcUniform (BitVec.ofNat 64 l) (BitVec.ofNat 64 d)

/-- The accesses that pass, with their targets and segments. -/
def placeAll (x : Iss) (c : Ctx) (size : Nat) (as : List Ask) : List LaneAcc :=
  as.filterMap fun a => (a.target x c).map fun t =>
    ⟨a.lane, t, size, a.data, if a.offset then 0 else ((c.place a.addr).map (·.1)).getD 0, 0, true⟩

/-- A failed check: the team ends with status LEASE, or a trap at issue (R178). -/
def State.deny (s : State) (x : Iss) (d : Denied) : State :=
  match d with
  | .lease => s.endTeam x.g.team stLease
  | .trap cause addr detail => s.raise x cause addr detail

/-- The feature groups that the segment kind of an address brings in (R37): BTE for stores to an aperture, SYSATOM for atomics, VLDA
and VSTL in host and fabric windows. -/
def segFeats (c : Ctx) (u : AccUse) (addrs : List Nat) : List Nat :=
  let kinds := addrs.filterMap fun a => if a < 2 ^ 48 then (c.segOf a).map fun i => segKind (c.seg i 3) else none
  (if (u = .store ∨ u = .store8 ∨ u = .storeRel) ∧ kinds.contains 2 then [fgBte] else [])
    ++ (if (u = .atomic ∨ u = .loadAcq ∨ u = .storeRel) ∧ (kinds.contains 3 ∨ kinds.contains 4) then [fgSysatom] else [])

/-! ## Order among a group's own accesses (R172, R180, R197, R213) -/

/-- Two ranges share a byte. -/
def rangesMeet (a n b m : Nat) : Bool := decide (a < b + m) && decide (b < a + n)

/-- Two accesses touch a common byte. -/
def LaneAcc.touches (a b : LaneAcc) : Bool :=
  match a.target, b.target with
  | .spad o, .spad p => rangesMeet o a.size p b.size
  | .glob _ o, .glob _ p => rangesMeet o a.size p b.size
  | .matrix k o, .matrix j p => k = j && rangesMeet o a.size p b.size
  | .aperture _ o, .aperture _ p => rangesMeet o a.size p b.size
  | .fabric _ k o, .fabric _ j p => k = j && rangesMeet o a.size p b.size
  | .host _ o, .host _ p => rangesMeet o a.size p b.size
  | _, _ => false

/-- The scratchpad source of a matrix-support load is an operand fetch, which only MOFENCE orders (R194, R212). -/
def Flight.fetches (f : Flight) (a : LaneAcc) : Bool := isTableLoad f.instr && match a.target with | .spad _ => true | _ => false

/-- The accesses of an instruction in flight that are not done; without lanes its one access is bit 0 (R345). -/
def Flight.missing (f : Flight) : List LaneAcc := f.accs.filter fun a => !bit f.done a.lane && !f.fetches a

/-- The accesses that are still to be made before the instruction ends: neither done nor failed (R179). -/
def Flight.left (f : Flight) : List LaneAcc := f.accs.filter fun a => !bit (f.done ||| f.failed) a.lane

/-- The page of a TIA is not cacheable (R172). -/
def State.ncPage (s : State) (tid tia : Nat) : Bool :=
  match (s.translate tid tia).2 with
  | .ok l => l.nc
  | .error _ => false

/-- An access is made at its target, past every cache (R172). -/
def LaneAcc.uncacheable (a : LaneAcc) (s : State) (tid : Nat) : Bool :=
  match a.target with
  | .aperture _ _ | .fabric _ _ _ | .host _ _ => true
  | .glob _ tia => s.ncPage tid tia
  | .spad _ | .matrix _ _ => false

/-- The walk of a TIA from ROOT passes through entry idx of a table frame (R319: the spans that the entry governs). -/
def State.passesFrom (s : State) (tid tia table idx : Nat) : List Nat → Nat → Bool
  | [], _ => false
  | lv :: rest, tfn =>
    match s.machAt (gia tid tia / 128) tid tfn lv with
    | .ok (f, false) =>
      let e := s.pte f (tiaIndex lv tia)
      (f == table && tiaIndex lv tia == idx) || (pteV e && lv ≠ 1 && pteKind e == 2 && s.passesFrom tid tia table idx rest (pteTfn e))
    | _ => false

def State.passes (s : State) (tid tia table idx : Nat) : Bool :=
  (s.tenant tid).rv && s.passesFrom tid tia table idx [3, 2, 1] (s.tenant tid).root

/-- A store at a V mapping, which goes to admission (R316). -/
def State.viewAt (s : State) (tid : Nat) (a : LaneAcc) : Bool :=
  match a.target with
  | .glob _ tia => match (s.translate tid tia).2 with | .ok leaf => leaf.kind = 3 | .error _ => false
  | _ => false

/-- An earlier store of the group to a table entry governs the page of an access, so that it is ordered before it as though it touched
the page's bytes: before its admission by the walk, after it by the pages that the admission has noted (R213). -/
def State.governs (s : State) (tid : Nat) (e : Flight) (a b : LaneAcc) : Bool :=
  isStore e.instr && match a.target, b.target with
  | .glob _ tia, .glob _ tib =>
    (s.adms.any fun m => m.src.map (·.2) = some e.fid && m.pages.contains (tib / 65536)) ||
      match (s.translate tid tia).2 with
      | .ok leaf => leaf.kind = 3 && s.passes tid tib leaf.frame (tia % 65536 / 8)
      | .error _ => false
  | _, _ => false

/-- Two accesses that stay in program order: a common byte (R197), or two uncacheable accesses to one segment (R172). -/
def State.ordered (s : State) (tid : Nat) (a b : LaneAcc) : Bool :=
  a.touches b || (a.seg = b.seg && a.uncacheable s tid && b.uncacheable s tid)

/-- Two accesses go to one other package. -/
def LaneAcc.samePackage (a b : LaneAcc) : Bool :=
  match a.target, b.target with
  | .fabric _ p _, .fabric _ q _ => p = q
  | _, _ => false

/-- The instruction has an access left that stays behind one of a list of others that is not done; fabric stores to one package stay in
program order whichever segments they use (R390). -/
def State.conflicts (s : State) (tid : Nat) (f : Flight) (fs : List Flight) : Bool :=
  fs.any fun e => e.missing.any fun a => f.left.any fun b =>
    !f.fetches b && (s.ordered tid a b || s.governs tid e a b || (isStore e.instr && isStore f.instr && a.samePackage b))

/-- Instructions of a group that issued before a flight and are still in flight. -/
def Group.before (g : Group) (fid : Nat) : List Flight := g.flights.takeWhile fun f => f.fid ≠ fid

/-- Instructions whose accesses are releases (R197): VSTL, a releasing SATOM, VATOM.AR, and an aperture doorbell (R266). -/
def isRelease (f : Flight) : Bool :=
  match f.instr with
  | .vstl .. | .vatomAr .. => true
  | .satom _ _ _ _ ord _ => 2 ≤ ord.toNat
  | .vst .. | .sst .. => f.accs.any fun a => match a.target with | .aperture _ _ => true | _ => false
  | _ => false

/-- Instructions whose accesses are acquires (R197): no later access of the group issues before they complete (R185). -/
def isAcquire : Instr → Bool
  | .vlda .. | .vatomAr .. => true
  | .satom _ _ _ _ ord _ => ord.toNat % 2 = 1
  | _ => false

/-- A target moved on by i bytes. -/
def Target.plus (t : Target) (i : Nat) : Target :=
  match t with
  | .spad o => .spad (o + i)
  | .glob va tia => .glob (va + i) (tia + i)
  | .aperture va o => .aperture (va + i) (o + i)
  | .fabric va p tia => .fabric (va + i) p (tia + i)
  | .host va tia => .host (va + i) (tia + i)
  | .matrix k o => .matrix k (o + i)

/-- Physical place of a logical scratchpad offset under span code z (R222). -/
def swizzle (z o : Nat) : Nat :=
  let sp := 16 * 2 ^ z
  let n := 2 ^ z
  let r := o / sp
  r * sp + (((o % sp) / 16) ^^^ (r % n)) * 16 + o % 16

/-- The place of a copy's global address, through the range map as it was at issue (R122). -/
def Copy.place (c : Copy) (s : State) (va : Nat) : Option Target := (({ s.ctx c.cid with segs := c.segs } : Ctx).place va).map (·.2)

/-- The chunks that a copy has still to write; before a copy is taken, or accepted by its stage, all of its rows (R250, R262). -/
def Copy.toMove (c : Copy) : List (Nat × Nat × Nat) :=
  match c.phase with
  | .offered | .present | .held => (List.range c.rows).map fun r => (r, 0, c.drow)
  | _ => c.chunks

/-- The 16-byte units that a copy has still to read from its source: lines that it has read are not among them (R250). -/
def Copy.sources (c : Copy) (s : State) : List LaneAcc :=
  c.toMove.flatMap fun (r, b, n) => (List.range (n / 16)).filterMap fun i =>
    let o := r * c.sstride + b + 16 * i
    let unit (t : Target) : LaneAcc := ⟨0, t, 16, [], 0, 0, true⟩
    if c.srow ≤ b + 16 * i then none else
    match c.src with
    | .glob va => if c.lines.any fun e => e.1 = (va + o) / 64 then none else (c.place s (va + o)).map unit
    | .own off => some (unit (.spad (swizzle c.z (off + o))))
    | .remote _ _ => none

/-- A copy that the group issued earlier has yet to read bytes that the instruction accesses (R197, R202). A STEP copy reads when it fires
(R264). -/
def State.copyAhead (s : State) (g : Group) (f : Flight) : Bool :=
  f.accesses && s.copies.any fun c =>
    c.grp = g.ref && c.job < f.fid && !c.step && (c.sources s).any fun a => f.left.any fun b => !f.fetches b && a.touches b

/-- A replay goes entry by entry in program order: an entry before this one is not done (R345). -/
def Flight.outOfTurn (f : Flight) (g : Group) : Bool := f.again && (g.before f.fid).any (·.again)

/-- A flight may be performed now: nothing before it in flight touches its bytes, no earlier copy has yet to read them, and for a release
nothing before it is still to be performed (R197). -/
def State.performable (s : State) (g : Group) (f : Flight) (tid : Nat) : Bool :=
  !s.conflicts tid f (g.before f.fid) && !s.copyAhead g f && !(isRelease f && (g.before f.fid).any Flight.accesses)
    && !f.outOfTurn g

/-- It has to wait for the replay of missing lanes before it, so that it joins the replay list unperformed (R345). -/
def State.mustReplay (s : State) (g : Group) (f : Flight) (tid : Nat) : Bool :=
  let olds := g.trap.replay.filter fun e => e.fid < f.fid
  s.conflicts tid f olds || (isRelease f && olds.any Flight.accesses)

/-! ## Outcomes (R179, R307) -/

/-- The stage of the tenant's fault queue, where a record may be written: bound, its stage initialised with SLOT ≥ 32 (R307, R308). -/
def State.faultStage (s : State) (tid : Nat) : Option (Team × Nat) :=
  let q := (s.tenant tid).faultq
  if !bit q 63 then none else
  match s.launches.find? fun l => l.tid = tid ∧ l.handle = bits q 31 0 with
  | none => none
  | some l =>
    match s.teams.find? fun t => t.launch = l.ref ∧ t.idx = bits q 47 32 ∧ t.state ≠ .ended with
    | none => none
    | some t =>
      let st := tget Stage.none t.stages (bits q 50 48)
      if st.depth ≠ 0 ∧ 32 ≤ st.slotBytes then some (t, bits q 50 48) else none

/-- What becomes of one lane. -/
inductive LaneEnd where
  | ok (bytes : List Byte)
  | trap (r : Nat × W64 × W64)
  | demand (d : Demand)
  | dead (unit place : Nat)
  /-- A store at a V mapping that goes on to admission (R316). -/
  | view
  deriving DecidableEq, Repr

/-- A translation failure of the access at a VA (R179, R307). -/
def State.failed (s : State) (l : Launch) (va tia lane : Nat) (write : Bool) (e : WalkErr) : LaneEnd :=
  match e with
  | .abort u p => .dead u p
  | .fail reason level =>
    if reason ≤ 2 ∧ leaseDemand l.leases va ∧ (s.faultStage l.tid).isSome then
      .demand ⟨va, tia / 65536 * 65536, reason, if reason = 2 then 0 else level, write⟩
    else .trap (tcPerm, BitVec.ofNat 64 va, laneDetail lane 4)

/-- VA of an access for reports; an offset stands for itself. -/
def Target.va : Target → Nat
  | .spad o => o
  | .glob va _ => va
  | .aperture va _ => va
  | .fabric va _ _ => va
  | .host va _ => va
  | .matrix k o => 2 ^ 31 + k * 2 ^ 28 + o

/-- TIA of an access, 0 where it has none. -/
def Target.tia : Target → Nat
  | .glob _ t | .host _ t | .fabric _ _ t => t
  | _ => 0

/-! ## One access at its target -/

/-- The word of a team's scratchpad that holds an offset cannot be read: it fails its check in the core's array (R371 unit 2), or, where the
block is spilled or the team saved, it is missing from the saved state (R373, R374). -/
def State.spadWordBad (s : State) (t : Team) (off : Nat) : Bool :=
  if t.imaged off then t.lost.contains (2, off / 8 * 8) else s.bad.contains (2, whereSpad t.core (t.spadBase + off))

/-- The place of the first word among n bytes that cannot be read. -/
def State.spadBad (s : State) (t : Team) (off n : Nat) : Option Nat :=
  ((List.range n).find? fun i => s.spadWordBad t (off + i)).map fun i => whereSpad t.core (t.spadBase + off + i)

/-- The step-buffer slot that holds an offset (R280). -/
def Pacer.slotOf (p : Pacer) (off : Nat) : Option Nat :=
  if p.sbslot = 0 ∨ off < p.sbbase + 64 then none else
  let i := (off - p.sbbase - 64) / p.sbslot
  if i < p.window then some i else none

/-- A write into a step buffer while STEP is not the slot's step makes its bytes undefined for an LDP; one at the step makes them good
(R280) (DEDUCED, assumption 47). -/
def Pacer.noteWrite (p : Pacer) (off n : Nat) : Pacer :=
  { p with loose := (List.range n).foldl (fun l i => match p.slotOf (off + i) with
      | some k => tset 0 l (off + i) (if p.step.toNat % p.window = k then 0 else 1)
      | none => l) p.loose }

/-- Bytes written to a team's scratchpad (R163, R164); a word whose check fails is repaired by a write that covers it, and a partial
write of it is not made (R402). -/
def State.spadWrite (s : State) (team off : Nat) (bytes : List Byte) : State × Except WalkErr Unit :=
  match s.team? team with
  | none => (s, .ok ())
  | some t =>
    let whole (o : Nat) : Bool := decide (off ≤ o / 8 * 8) && decide (o / 8 * 8 + 8 ≤ off + bytes.length)
    let hit := ((List.range bytes.length).map (off + ·)).filter fun o => s.spadWordBad t o
    match hit.find? fun o => !whole o with
    | some o => (s, .error (.abort 2 (whereSpad t.core (t.spadBase + o))))
    | none =>
      let s := if hit = [] then s else s.spadRepair team off bytes.length
      (s.modTeam team fun t => { t with spad := t.spad.write off bytes, pacer := t.pacer.map fun p => p.noteWrite off bytes.length }, .ok ())

/-- A table set before anything is loaded into it. -/
def TableSet.empty : TableSet := ⟨[], [], [], []⟩

/-- An array of a team's table set on a partition: 0 weights, 1 side memory, 2 codebooks, 3 zero points (R149). -/
def TableSet.array (k : TableSet) (arr : Nat) : Memory :=
  match arr with
  | 0 => k.weights
  | 1 => k.side
  | 2 => k.code
  | _ => k.zero

/-- The state of a block-transfer channel as a load sees it (R266). -/
def Channel.word (c : Channel) (off : Nat) : W64 :=
  match off with
  | 0 => c.issued
  | 8 => c.finished
  | 16 => BitVec.ofNat 64 (c.queue.length + if c.busy then 256 else 0)
  | _ => 0

/-- Channel state bytes: an aligned 8-byte load reads a word, every other load reads 0 (R266). -/
def channelBytes (t : Tenant) (off n : Nat) : List Byte :=
  if n = 8 ∧ off % 8 = 0 then leBytes 8 ((tget Channel.reset t.chans (off / 4096)).word (off % 4096)).toNat
  else List.replicate n 0

/-- What the k-th read over the fabric returns, up to 128 bytes (R389: the other package's memory; DESIGN CHOICE, assumption 5). -/
def fabricBytes (k n : Nat) : List Byte :=
  ((List.range ((n + 7) / 8)).flatMap fun i => leBytes 8 (Config.fabricData (16 * k + i)).toNat).take n

/-- One lane's load (R183): its bytes, or why not. `nt` streaming, `l2` an acquire at dev or sys scope. -/
def State.loadAt (s : State) (g : Group) (t : Team) (l : Launch) (a : LaneAcc) (nt l2 : Bool) : State × LaneEnd :=
  let fail (s : State) (e : WalkErr) := s.failed l a.target.va a.target.tia a.lane false e
  let t := (s.team? t.ref).getD t
  match a.target with
  | .spad off =>
    match s.spadBad t off a.size with
    | some p => (s, .dead 2 p)
    | none => (s, .ok (t.spad.read off a.size))
  | .matrix arr off =>
    match ((List.range a.size).map fun i => whereTable t.core g.part arr (off + i)).find? fun p => s.bad.contains (9, p) with
    | some p => (s, .dead 9 p)
    | none => (s, .ok (((tget TableSet.empty t.tables g.part).array arr).read off a.size))
  | .aperture _ off => (s, .ok (channelBytes (s.tenant l.tid) off a.size))
  | .fabric _ _ _ =>
    ({ s with free := s.free + 1 }, match s.fabricErr with
      | some e => fail s e
      | none => .ok (fabricBytes s.free a.size))
  | .host _ tia =>
    match s.home (gia l.tid tia / 128) true with
    | (s, .error e) => (s, fail s e)
    | (s, .ok h) =>
      match s.homeRead h (gia l.tid tia / 128) (tia % 128) a.size with
      | .ok bs => (s, .ok bs)
      | .error e => (s, fail s e)
  | .glob _ tia =>
    match s.loadLine t.core (gia l.tid tia / 128) (tia % 128) a.size nt l2 with
    | (s, .ok bs) => (s, .ok bs)
    | (s, .error e) => (s, fail s e)

/-- ADMIT with a reason of R317 (R321). -/
def admitTrap (va lane reason : Nat) : Nat × W64 × W64 := (tcAdmit, BitVec.ofNat 64 va, laneDetail lane reason)

/-- One lane's store (R183). A store at a V mapping goes to admission where it is an aligned 8-byte VST or SST, and is refused with
reason ACCESS otherwise (R182, R316, R317). -/
def State.storeAt (s : State) (t : Team) (l : Launch) (a : LaneAcc) (bytes : List Byte) (nt admits : Bool) : State × LaneEnd :=
  let fail (s : State) (e : WalkErr) := s.failed l a.target.va a.target.tia a.lane true e
  match a.target with
  | .spad off =>
    match s.spadWrite t.ref off bytes with
    | (s, .ok _) => (s, .ok [])
    | (s, .error e) => (s, fail s e)
  | .matrix _ _ => (s, .ok [])
  | .aperture _ _ => (s, .ok [])
  | .fabric _ pkg tia =>
    match s.fabricErr with
    | some e => ({ s with free := s.free + 1 }, fail s e)
    | none => ({ s with free := s.free + 1, fabricOut := s.fabricOut ++ [(pkg, tia, bytes)] }, .ok [])
  | .host _ tia =>
    match s.l2Write (gia l.tid tia / 128) true with
    | (s, .error e) => (s, fail s e)
    | (s, .ok h) =>
      match s.homeWrite h (gia l.tid tia / 128) fun i => if tia % 128 ≤ i then bytes[i - tia % 128]? else none with
      | (s, .ok _) => (s, .ok [])
      | (s, .error e) => (s, fail s e)
  | .glob va tia =>
    match s.storeLine t.core (gia l.tid tia / 128) (tia % 128) bytes nt with
    | (s, .ok .done) => (s, .ok [])
    | (s, .ok (.admission _)) => (s, if admits then .view else .trap (admitTrap va a.lane 1))
    | (s, .error e) => (s, fail s e)

/-- The line written back and invalidated in a core's L1; a locked line keeps its place (R166, R175). -/
def State.l1Invalidate (s : State) (core gline : Nat) : State :=
  (s.l1Clean core gline).modCore core fun c => { c with l1 :=
    (c.l1.filter fun l => l.gline ≠ gline ∨ l.lock ≠ 0).map fun l => if l.gline = gline then { l with valid := 0 } else l }

/-- An atomic at its home slice or at its target (R188, R189): the old bytes, after which the new ones stand. -/
def State.atomicAt (s : State) (g : Group) (t : Team) (l : Launch) (a : LaneAcc) (f : List Byte → List Byte) : State × LaneEnd :=
  let fail (s : State) (e : WalkErr) := s.failed l a.target.va a.target.tia a.lane true e
  let atHome (s : State) (tia : Nat) (host : Bool) : State × LaneEnd :=
    let gl := gia l.tid tia / 128
    match s.l2Write gl host with
    | (s, .error e) => (s, fail s e)
    | (s, .ok h) =>
      if (match h with | .uncached leaf => leaf.kind == 3 | _ => false) then (s, .trap (admitTrap a.target.va a.lane 1)) else
      match s.homeRead h gl (tia % 128) a.size with
      | .error e => (s, fail s e)
      | .ok old =>
        let new := f old
        match s.homeWrite h gl fun i => if tia % 128 ≤ i then new[i - tia % 128]? else none with
        | (s, .ok _) => (s, .ok old)
        | (s, .error e) => (s, fail s e)
  match a.target with
  | .glob _ tia => atHome (s.l1Invalidate t.core (gia l.tid tia / 128)) tia false
  | .host _ tia => atHome s tia true
  | .fabric _ pkg tia =>
    match s.fabricErr with
    | some e => ({ s with free := s.free + 1 }, fail s e)
    | none =>
      let old := fabricBytes s.free a.size
      ({ s with free := s.free + 1, fabricOut := s.fabricOut ++ [(pkg, tia, f old)] }, .ok old)
  | _ =>
    match s.loadAt g t l a false false with
    | (s, .ok old) =>
      match s.storeAt t l a (f old) false false with
      | (s, .ok _) => (s, .ok old)
      | r => r
    | r => r

/-! ## How an instruction in flight ends -/

/-- A bit for a lane. -/
def laneBit (l : Nat) : W64 := 1#64 <<< l

/-- A .B128 access that turns out uncacheable is made as two 8-byte halves, the lower first (R180); any other is one piece. -/
def LaneAcc.pieces (a : LaneAcc) (s : State) (tid : Nat) : List LaneAcc :=
  if a.size = 16 ∧ a.uncacheable s tid then
    [{ a with size := 8, data := a.data.take 2, last := false },
      { a with target := a.target.plus 8, size := 8, data := a.data.drop 2, reg := a.reg + 2 }]
  else [a]

/-- The instruction with the accesses of some lanes cut into their pieces. -/
def Flight.cut (f : Flight) (s : State) (tid : Nat) (lanes : W64) : Flight :=
  { f with accs := f.accs.flatMap fun a => if bit lanes a.lane && !bit f.done a.lane then a.pieces s tid else [a] }

/-- The accesses of some lanes that one event performs: of each lane the next piece, in ascending order, but none that `after` puts behind
an access that is left and not chosen. -/
def Flight.turns (f : Flight) (lanes : W64) (after : LaneAcc → LaneAcc → Bool) : List LaneAcc :=
  (f.left.foldl (fun (r : List LaneAcc × List LaneAcc) a =>
    if bit lanes a.lane && !(r.2.any fun b => b.lane = a.lane || after b a) && !r.1.any fun b => b.lane = a.lane
    then (r.1 ++ [a], r.2) else (r.1, r.2 ++ [a])) ([], [])).1

/-- The ends of some lanes together (R179): those that die, the lowest trap and the lowest demand failure with their lanes, the lanes
failed, the lanes done, and those of which a first piece is done. -/
structure Ends where
  dead : List (Nat × Nat × Nat)
  trap : Option (Nat × Nat × W64 × W64)
  demand : Option (Nat × Demand)
  failed : W64
  done : W64
  pieces : W64
  deriving DecidableEq, Repr

def Ends.none : Ends := ⟨[], .none, .none, 0, 0, 0⟩

/-- One more lane's end, the lanes taken in ascending order. -/
def Ends.add (e : Ends) (a : LaneAcc) (r : LaneEnd) : Ends :=
  let b := laneBit a.lane
  match r with
  | .ok _ => if a.last then { e with done := e.done ||| b } else { e with pieces := e.pieces ||| b }
  | .dead u p => { e with dead := e.dead ++ [(a.lane, u, p)], done := e.done ||| b }
  | .trap t => { e with trap := e.trap.orElse fun _ => some (a.lane, t), failed := e.failed ||| b }
  | .demand d => { e with demand := e.demand.orElse fun _ => some (a.lane, d), failed := e.failed ||| b }
  | .view => e

/-- What the ends make of the instruction: the completion mask grows, and the trap and the demand failure of the lowest lanes stand
(R179, R345). -/
def Flight.join (f : Flight) (e : Ends) : Flight :=
  let f := { f with
    done := f.done ||| e.done, failed := f.failed ||| e.failed
    accs := f.accs.filter fun a => a.last || !bit e.pieces a.lane }
  let f := match e.trap with
    | some (l, c, a, d) => if f.trap.isSome ∧ f.trapLane ≤ l then f else { f with trap := some ⟨c, f.pc, a, d, f.tag, false⟩, trapLane := l }
    | none => f
  match e.demand with
  | some (l, d) => if f.demand.isSome ∧ f.demandLane ≤ l then f else { f with demand := some d, demandLane := l }
  | none => f

/-- Of a destination that another write has reached, the lanes in which the instruction is still to be done: undefined after its replay
too (R23, R345). -/
def Busy.kept (b : Busy) (left : W64) : Option Busy :=
  if b.hit &&& left = 0 then none else some { b with lanes := b.hit &&& left, hit := b.hit &&& left }

/-- A replay entry joins the list in program order (R345); a trap decides before a demand failure (R179). Its destination is no longer in
flight, and what another write had reached of it takes a free value (R23). -/
def Group.toReplay (g : Group) (free : Nat) (f : Flight) : Group :=
  let mine := g.busy.filter fun b => b.fid = f.fid
  let left := f.accs.foldl (fun m a => if bit f.done a.lane then m else m ||| laneBit a.lane) 0
  let f := { f with demand := if f.trap.isSome then none else f.demand, hits := mine.filterMap fun b => b.kept left }
  let g := { g with
    flights := g.flights.filter fun k => k.fid ≠ f.fid
    busy := g.busy.filter fun b => b.fid ≠ f.fid
    trap := { g.trap with replay := (g.trap.replay.takeWhile fun k => k.fid < f.fid) ++ f :: g.trap.replay.dropWhile fun k => k.fid < f.fid } }
  mine.foldl (fun g b => g.spoil free b) g

/-- An instruction in flight of a group becomes a replay entry. -/
def State.toReplay (s : State) (grp : Nat) (f : Flight) : State :=
  { s with free := s.free + 1 }.modGroup grp fun g => g.toReplay s.free f

/-- An access of a group completes: what awaits it, a barrier among them, is looked at again (R111). -/
def State.completeAccess (s : State) (g : Group) (fid : Nat) : State := (s.complete g.ref fid id).settleTeam g.team

/-- What the ends of some lanes do to the group (R179, R345, R374): once no lane is left the instruction completes, or its missing lanes
make a replay entry; lanes die, one by one or, for a scalar access, all of them. `vector` tells lanes apart. -/
def State.settleFlight (s : State) (grp : Nat) (f : Flight) (vector : Bool) (e : Ends) : State :=
  match s.group? grp with
  | none => s
  | some g =>
    let k := f.join e
    let s :=
      if k.left ≠ [] then s.modGroup grp fun g => g.modFlight f.fid fun _ => k
      else if k.failed = 0 ∨ g.run = .retired then s.complete grp f.fid id
      else s.toReplay grp k
    let s := if f.accesses then s.settleTeam g.team else s
    if e.dead = [] then s else
    let lanes := e.dead.foldl (fun m (l, _, _) => m ||| laneBit l) 0
    let s := e.dead.foldl (fun s (l, u, p) => s.detected u p (if vector then 1 else 2) (if vector then laneBit l else 0)) s
    if vector then s.killLanes grp lanes else s.killGroup grp

end Sys2Proof.Machine
end

