-- ==== Sys2Proof/Machine/Memory.lean ====
section
/-! DEFINITION. Machine/Memory.lean: lane and scalar loads and stores (R183 to R186), cache and lock operations (R187, R175), fences (R191
to R194), and the completions of loads, stores and cache operations (R22). -/

namespace Sys2Proof.Machine

/-! ## Addresses and sizes (R33, R177) -/

/-- Bytes of a load or store size. -/
def szBytes (sz : Nat) : Nat :=
  match sz with
  | 0 | 1 => 1
  | 2 | 3 => 2
  | 4 => 4
  | 5 => 8
  | _ => 16

/-- The 64-bit value of a pair, low word first (R177). -/
def pair64 (lo hi : W32) : Nat := lo.toNat + hi.toNat * 2 ^ 32

/-- A lane's address: the pair va, va+1, or the 32-bit offset in va (R177). -/
def Iss.addrOf (x : Iss) (va : Nat) (offset : Bool) (l : Nat) : Nat :=
  if offset then (x.v (x.op 1 va) 0 l).toNat else pair64 (x.v (x.op 2 va) 0 l) (x.v (x.op 2 va) 1 l)

/-- The accesses of a lane instruction: one for each executing lane (R181), with the words of `regs` registers of an operand. -/
def Iss.asks (x : Iss) (ex : W64) (va : Nat) (offset : Bool) (os : List Loc) : List Ask :=
  (bitList ex).map fun l => ⟨l, x.addrOf va offset l, offset, (List.range os.length).map fun i => x.v os i l⟩

/-- A word-list as little-endian bytes, and back (R2). -/
def wordsBytes (ws : List W32) : List Byte := ws.flatMap fun w => leBytes 4 w.toNat
def bytesWords (bs : List Byte) : List W32 :=
  (List.range ((bs.length + 3) / 4)).map fun i => BitVec.ofNat 32 (leNat ((bs.drop (4 * i)).take 4))

/-- What a loaded value becomes in its registers (R183). -/
def loadWords (sz : Nat) (bs : List Byte) : List W32 :=
  match sz with
  | 1 => [(BitVec.ofNat 8 (leNat bs)).signExtend 32]
  | 3 => [(BitVec.ofNat 16 (leNat bs)).signExtend 32]
  | _ => bytesWords bs

/-- A memory instruction of the lanes issues: the checks of R178, then it is in flight. Without an executing lane it completes at once. -/
def laneAccess (x : Iss) (i : Instr) (u : AccUse) (look slot size : Nat) (ex : W64) (asks : List Ask) (dst : List Loc) (s : State) : State :=
  let c := s.ctx x.l.cid
  if asks = [] then s.advance x else
  match checkAll x c (s.tenant x.l.tid).channels u size asks with
  | some d => s.deny x d
  | none =>
    let (file, first, n) := dstOf dst
    s.fly x { x.flight i look slot with exec := ex, accs := placeAll x c size asks, file := file, dst := first, ndst := n } ex

/-- Feature groups of a lane access at issue (R37). -/
def laneFeats (x : Iss) (s : State) (u : AccUse) (ex : W64) (va : Nat) (offset : Bool) : List Nat :=
  if offset then [] else segFeats (s.ctx x.l.cid) u ((bitList ex).map fun l => x.addrOf va false l)

def never (_ : Iss) (_ : State) : Bool := false

def execVld (vd va : BitVec 7) (sz : BitVec 3) (sp : BitVec 2) (la : BitVec 4) (m : BitVec 2) (s : State) :
    Host.Outcome State Fault Refusal :=
  issue (.vld vd va sz sp la m) (fun x =>
    let ex := x.exec m.toNat
    laneAccess x (.vld vd va sz sp la m) .load la.toNat 1 (szBytes sz.toNat) ex (x.asks ex va.toNat (sp = 1) [])
      (x.op (szRegs sz.toNat) vd.toNat)) s

/-- VLD.PR (R184): m1 to m3 serve as execution mask and as report mask. -/
def execVldPr (vd va : BitVec 7) (sz : BitVec 3) (la : BitVec 4) (m : BitVec 2) (s : State) : Host.Outcome State Fault Refusal :=
  issue (.vldPr vd va sz la m) (fun x =>
    let ex := x.exec m.toNat
    laneAccess x (.vldPr vd va sz la m) .load la.toNat 1 (szBytes sz.toNat) ex (x.asks ex va.toNat false [])
      (x.op (szRegs sz.toNat) vd.toNat)) s

/-- VST.B64 is the form that apertures and admission take (R182). -/
def storeUse (size : Nat) : AccUse := if size = 8 then .store8 else .store

def execVst (vs va : BitVec 7) (sz : BitVec 3) (sp : BitVec 2) (la : BitVec 4) (m : BitVec 2) (s : State) :
    Host.Outcome State Fault Refusal :=
  issueIf (.vst vs va sz sp la m) never
    (fun x s => laneFeats x s (storeUse (szBytes sz.toNat)) (x.exec m.toNat) va.toNat (sp = 1))
    (fun x =>
      let ex := x.exec m.toNat
      laneAccess x (.vst vs va sz sp la m) (storeUse (szBytes sz.toNat)) la.toNat 2 (szBytes sz.toNat) ex
        (x.asks ex va.toNat (sp = 1) (x.op (szRegs sz.toNat) vs.toNat)) []) s

def execVlda (vd va : BitVec 7) (sz : BitVec 3) (scope : BitVec 2) (la : BitVec 4) (m : BitVec 2) (s : State) :
    Host.Outcome State Fault Refusal :=
  issueIf (.vlda vd va sz scope la m) never (fun x s => laneFeats x s .loadAcq (x.exec m.toNat) va.toNat false)
    (fun x =>
      let ex := x.exec m.toNat
      laneAccess x (.vlda vd va sz scope la m) .loadAcq la.toNat 1 (szBytes sz.toNat) ex (x.asks ex va.toNat false [])
        (x.op (szRegs sz.toNat) vd.toNat)) s

def execVstl (vs va : BitVec 7) (sz : BitVec 3) (scope : BitVec 2) (la : BitVec 4) (m : BitVec 2) (s : State) :
    Host.Outcome State Fault Refusal :=
  issueIf (.vstl vs va sz scope la m) never (fun x s => laneFeats x s .storeRel (x.exec m.toNat) va.toNat false)
    (fun x =>
      let ex := x.exec m.toNat
      laneAccess x (.vstl vs va sz scope la m) .storeRel la.toNat 2 (szBytes sz.toNat) ex
        (x.asks ex va.toNat false (x.op (szRegs sz.toNat) vs.toNat)) []) s

/-! ## Scalar accesses (R186) -/

/-- A scalar memory instruction issues with its one access, which reports as lane 0 (R178) (DEDUCED, assumption 94). -/
def scalarAccess (x : Iss) (i : Instr) (u : AccUse) (look slot size addr : Nat) (data : List W32) (opnds : List W64) (sd : Option Nat)
    (s : State) : State :=
  let c := s.ctx x.l.cid
  let asks : List Ask := [⟨0, addr, false, data⟩]
  match checkAll x c (s.tenant x.l.tid).channels u size asks with
  | some d => s.deny x d
  | none =>
    s.fly x { x.flight i look slot with
      exec := 1, accs := placeAll x c size asks, opnds := opnds, file := .scalar
      dst := match sd with | some n => x.g.scalNo n | none => 0
      ndst := match sd with | some n => if n = 0 then 0 else 1 | none => 0 } 1

/-- The words of a 64-bit value, low word first; only the low one for 4 bytes. -/
def words64 (size : Nat) (v : W64) : List W32 := if size = 4 then [v.setWidth 32] else [v.setWidth 32, (v >>> 32).setWidth 32]

/-- Address of SLD and SST: sa + sext(imm13 with bit 0 cleared) (R177); `off` holds imm13[12:1]. -/
def scalarAddr (x : Iss) (sa : Nat) (off : BitVec 12) : Nat := (x.s sa + (off.signExtend 64 <<< 1)).toNat

/-- Size of a scalar access: 4 or 8 bytes. -/
def dwBytes (dw : BitVec 1) : Nat := if dw = 1 then 8 else 4

def execSld (sd sa : BitVec 6) (off : BitVec 12) (dw : BitVec 1) (s : State) : Host.Outcome State Fault Refusal :=
  issue (.sld sd sa off dw) (fun x =>
    scalarAccess x (.sld sd sa off dw) .load 0 4 (dwBytes dw) (scalarAddr x sa.toNat off) [] [] (some sd.toNat)) s

def execSst (sd sa : BitVec 6) (off : BitVec 12) (dw : BitVec 1) (s : State) : Host.Outcome State Fault Refusal :=
  issueIf (.sst sd sa off dw) never
    (fun x s => segFeats (s.ctx x.l.cid) (storeUse (dwBytes dw)) [scalarAddr x sa.toNat off])
    (fun x => scalarAccess x (.sst sd sa off dw) (storeUse (dwBytes dw)) 0 4 (dwBytes dw) (scalarAddr x sa.toNat off)
      (words64 (dwBytes dw) (x.s sd.toNat)) [] none) s

/-! ## Cache and lock operations (R187) -/

/-- PREF is a hint: a failed check makes it do nothing (R187). -/
def bodyPref (x : Iss) (sa : BitVec 6) (l2only : BitVec 1) (s : State) : State :=
  let c := s.ctx x.l.cid
  let asks : List Ask := [⟨0, (x.s sa.toNat).toNat, false, []⟩]
  match checkAll x c (s.tenant x.l.tid).channels .cacheOp 1 asks with
  | some _ => s.advance x
  | none => s.fly x { x.flight (.pref sa l2only) 15 4 with exec := 1, accs := placeAll x c 1 asks } 0

def execPref (sa : BitVec 6) (l2only : BitVec 1) (s : State) : Host.Outcome State Fault Refusal :=
  issue (.pref sa l2only) (fun x => bodyPref x sa l2only) s
def execClock (sd sa : BitVec 6) (s : State) : Host.Outcome State Fault Refusal :=
  issue (.clock sd sa) (fun x => scalarAccess x (.clock sd sa) .cacheOp 0 4 1 (x.s sa.toNat).toNat [] [] (some sd.toNat)) s
def execCunlk (sa : BitVec 6) (s : State) : Host.Outcome State Fault Refusal :=
  issue (.cunlk sa) (fun x => scalarAccess x (.cunlk sa) .cacheOp 0 4 1 (x.s sa.toNat).toNat [] [] none) s
def execCinv (sa : BitVec 6) (s : State) : Host.Outcome State Fault Refusal :=
  issue (.cinv sa) (fun x => scalarAccess x (.cinv sa) .cacheOp 0 4 1 (x.s sa.toNat).toNat [] [] none) s
def execCwb (sa : BitVec 6) (s : State) : Host.Outcome State Fault Refusal :=
  issue (.cwb sa) (fun x => scalarAccess x (.cwb sa) .cacheOp 0 4 1 (x.s sa.toNat).toNat [] [] none) s

/-! ## Fences (R191 to R194) -/

/-- The mark of a fence: what issued before it, kept over its wait. -/
def Iss.mark (x : Iss) (s : State) : Nat :=
  match x.q.hold.map Hold.kind with
  | some (.drain m) => m
  | _ => s.next

/-- Instructions of the group issued before a mark that satisfy a test are all complete. -/
def Group.drained (g : Group) (mark : Nat) (p : Flight → Bool) : Bool := g.flights.all fun f => mark ≤ f.fid || !p f

/-- A fence holds its quad-set until its condition holds, and then takes its cache actions: 1 core, 2 dev, 3 sys (R192) (DEDUCED, assumption
83). -/
def fenceBody (x : Iss) (scope : Nat) (rel acq : Bool) (p : Flight → Bool) (s : State) : State :=
  let m := x.mark s
  if !x.g.drained m p then s.hold x (.drain m) false else
  let s := if rel ∧ 2 ≤ scope then s.releaseL1 x.t.core x.l.tid else s
  let s := if acq ∧ 2 ≤ scope then s.acquireL1 x.t.core x.l.tid else s
  s.advance x

def execFence (scope : BitVec 2) (s : State) : Host.Outcome State Fault Refusal :=
  issue (.fence scope) (fun x => fenceBody x scope.toNat true true Flight.accesses) s
def execFenceAcq (scope : BitVec 2) (s : State) : Host.Outcome State Fault Refusal :=
  issue (.fenceAcq scope) (fun x => fenceBody x scope.toNat false true Flight.reads) s
def execFenceRel (scope : BitVec 2) (s : State) : Host.Outcome State Fault Refusal :=
  issue (.fenceRel scope) (fun x => fenceBody x scope.toNat true false Flight.accesses) s

/-- FENCE.LT (R193): a mark after the group's earlier stores; it holds nothing. -/
def execFenceLt (s : State) : Host.Outcome State Fault Refusal :=
  issue .fenceLt (fun x s => s.onGroup x fun g => { g with ltMark := s.next }) s

/-- Every access that another group of the tenant within the scope issued before its last light mark is performed, replay lists included
(R193, R199, R208). -/
def lightDrained (s : State) (x : Iss) (scope : Nat) : Bool :=
  s.groups.all fun g =>
    g.ref = x.g.ref || match s.homeOf g with
      | some (t, l) => l.tid ≠ x.l.tid || (scope = 1 && t.core ≠ x.t.core) || g.released g.ltMark
      | none => true

/-- FENCE.HV (R193): as FENCE for its own group, then the light marks of the others, then the tenant's lines in every L1. -/
def bodyFenceHv (x : Iss) (scope : Nat) (s : State) : State :=
  let m := x.mark s
  if !(x.g.drained m Flight.accesses) ∨ !lightDrained s x scope then s.hold x (.drain m) false else
  let s := if scope < 2 then s else s.cores.foldl (fun s (c, _) => (s.releaseL1 c x.l.tid).acquireL1 c x.l.tid) s
  s.advance x

def execFenceHv (scope : BitVec 2) (s : State) : Host.Outcome State Fault Refusal :=
  issue (.fenceHv scope) (fun x => bodyFenceHv x scope.toNat) s

/-- What MOFENCE waits for: scratchpad stores and atomics, and lane-register loads (R194). -/
def mofenceWaits (f : Flight) : Bool :=
  match f.instr with
  | .vld .. | .vldPr .. | .vlda .. | .ldp .. => true
  | i => isAccess i && f.accs.any fun a => match a.target with | .spad _ => true | _ => false

def execMofence (s : State) : Host.Outcome State Fault Refusal :=
  issue .mofence (fun x => fenceBody x 1 false false mofenceWaits) s

/-! ## Completions of loads and stores -/

/-- Whether a load streams, and whether it reads beyond L1 as an acquire (R169, R173, R185). -/
def loadMode : Instr → Bool × Bool
  | .vld _ _ _ sp _ _ => (sp = 2, false)
  | .vlda _ _ _ scope _ _ => (false, scope.toNat ≠ 0)
  | _ => (false, false)

/-- The registers that a loaded value fills, by the instruction's size. -/
def loadedWords (i : Instr) (bs : List Byte) : List W32 :=
  match i with
  | .vld _ _ sz _ _ _ => loadWords sz.toNat bs
  | .vldPr _ _ sz _ _ => loadWords sz.toNat bs
  | _ => bytesWords bs

/-- One access of a load in flight performed: its value lands, a probe's failure reports (R174, R183, R184). -/
def loadLane (grp : Nat) (f : Flight) (t : Team) (l : Launch) (acc : State × Ends) (a : LaneAcc) : State × Ends :=
  let (s, e) := acc
  let mode := loadMode f.instr
  match s.group? grp with
  | none => (s, e)
  | some g =>
    match reportMask f.instr, (match a.target with
      | .glob _ tia => s.probeFails t.core l.tid tia a.size false
      | .host _ tia => s.probeFails t.core l.tid tia a.size true
      | .fabric _ _ _ => s.fabricRefused
      | _ => false) with
    | some m, true =>
      ({ s with free := s.free + 1 }.modGroup grp fun g => (g.landWords f 0 a.lane (List.replicate f.ndst 0)).land (.mask m) a.lane 0,
        e.add { a with last := true } (.ok []))
    | _, _ =>
      match s.loadAt g t l a mode.1 mode.2 with
      | (s, .ok bs) => (s.modGroup grp fun g => g.landWords f a.reg a.lane (loadedWords f.instr bs), e.add a (.ok bs))
      | (s, r) => (s, e.add a r)

/-- Loads that LOAD_DATA_RETURN completes. -/
def isLoad : Instr → Bool
  | .vld .. | .vldPr .. | .vlda .. | .sld .. => true
  | _ => false

/-- A flight of a group with its team and launch; nothing of a saved team moves before it is restored, and nothing on a core that a
debugger has suspended (R330, R355, R359). -/
def State.flightAt (s : State) (grp fid : Nat) : Option (Group × Flight × Team × Launch) :=
  match s.flight? grp fid with
  | none => none
  | some (g, f) => match s.homeOf g with
    | some (t, l) => if t.state = .saved ∨ s.suspended t.core then none else some (g, f, t, l)
    | none => none

/-- An access in flight whose turn has come (R197). -/
def accessDue (s : State) (grp fid : Nat) (p : Instr → Bool) : Bool :=
  match s.flightAt grp fid with
  | some (g, f, _, l) => p f.instr && s.performable g f l.tid
  | none => false

/-- A scalar load lands (R186). -/
def scalarLand (grp : Nat) (f : Flight) (v : W64) (s : State) : State :=
  s.modGroup grp fun g => if f.ndst = 0 then g else g.landScal f.dst v

/-- No order holds between the accesses of one load (R180). -/
def unordered (_ _ : LaneAcc) : Bool := false

/-- LOAD_DATA_RETURN (R22): of the load's accesses left, those of the lanes named are performed; which of them come first is not fixed
(DEDUCED, assumption 26). -/
def bodyLoad (grp fid : Nat) (lanes : W64) (s : State) : State :=
  match s.flightAt grp fid with
  | none => s
  | some (g, f, t, l) =>
    if s.mustReplay g f l.tid then s.toReplay grp f else
    let f := f.cut s l.tid lanes
    match f.instr with
    | .sld .. =>
      match f.left with
      | [] => s.completeAccess g fid
      | a :: _ =>
        match s.loadAt g t l a false false with
        | (s, .ok bs) => (scalarLand grp f (BitVec.ofNat 64 (leNat bs)) s).completeAccess g fid
        | (s, r) => s.settleFlight grp f false (Ends.none.add a r)
    | _ =>
      let (s, e) := (f.turns lanes unordered).foldl (loadLane grp f t l) (s, Ends.none)
      let s := s.settleFlight grp f true e
      if (loadMode f.instr).2 then s.acquireL1 t.core l.tid else s

def execLoadDataReturn (grp : Nat) (part : Portion) (s : State) : Host.Outcome State Fault Refusal :=
  event (accessDue s grp part.fid isLoad) (bodyLoad grp part.fid part.lanes s) s

/-- The store goes to admission lane by lane: VST.B64 and SST.B64 (R316). -/
def admits : Instr → Bool
  | .vst _ _ sz _ _ _ => sz.toNat = 5
  | .sst _ _ _ dw => dw = 1
  | _ => false

/-- VSTL at dev or sys scope releases before its stores are visible (R185). -/
def storeScope : Instr → Nat
  | .vstl _ _ _ scope _ _ => scope.toNat
  | _ => 0

/-- One access of a store performed (R183); a releasing store's bytes go to the line's home slice at once (R185, R204). -/
def storeLane (f : Flight) (t : Team) (l : Launch) (acc : State × Ends) (a : LaneAcc) : State × Ends :=
  let (s, e) := acc
  let nt := match f.instr with | .vst _ _ _ sp _ _ => sp = 2 | _ => false
  let (s, r) := s.storeAt t l a ((wordsBytes a.data).take a.size) nt (admits f.instr)
  let s := match a.target with
    | .glob _ tia => if storeScope f.instr ≠ 0 then s.l1Clean t.core (gia l.tid tia / 128) else s
    | _ => s
  (s, e.add a r)

/-- A store has an access that STORE_COMPLETE performs: not one at an aperture, not one bound for admission. -/
def State.storable (s : State) (f : Flight) (tid : Nat) : Bool :=
  (f.left.all fun a => match a.target with | .aperture _ _ => false | _ => true)
    && (f.left = [] || f.left.any fun a => !(admits f.instr && s.viewAt tid a))

/-- The turn of a store has come; one with an admission that is not acknowledged waits for that (R319). -/
def storeDue (s : State) (grp fid : Nat) : Bool :=
  accessDue s grp fid isStore && match s.flightAt grp fid with
    | some (g, f, _, l) => (s.mustReplay g f l.tid || s.storable f l.tid) && s.adms.all fun m => m.src ≠ some (grp, fid)
    | none => false

/-- Of the lanes that write one byte the highest supplies it (R180): a lane that would follow a failed one there is missing with it. -/
def Flight.behind (f : Flight) : W64 :=
  f.left.foldl (fun m b =>
    if f.missing.any fun a => bit f.failed a.lane && a.lane < b.lane && a.touches b then m ||| laneBit b.lane else m) 0

/-- STORE_COMPLETE (R22): of the store's accesses left, those of the lanes named are performed, bytes that several lanes write in
ascending order (R180) (DEDUCED, assumption 26); a lane bound for admission is left. -/
def bodyStore (grp fid : Nat) (lanes : W64) (s : State) : State :=
  match s.flightAt grp fid with
  | none => s
  | some (g, f, t, l) =>
    if s.mustReplay g f l.tid then s.toReplay grp f else
    let f := { f with failed := f.failed ||| f.behind }.cut s l.tid lanes
    let s := if storeScope f.instr ≠ 0 then s.releaseL1 t.core l.tid else s
    let (s, e) := (f.turns lanes LaneAcc.touches).foldl (storeLane f t l) (s, Ends.none)
    s.settleFlight grp f (match f.instr with | .sst .. => false | _ => true) e

def execStoreComplete (grp : Nat) (part : Portion) (s : State) : Host.Outcome State Fault Refusal :=
  event (storeDue s grp part.fid) (bodyStore grp part.fid part.lanes s) s

/-! ## Cache operations taking effect (R175, R187) -/

/-- Cache operations. -/
def isCacheOp : Instr → Bool
  | .pref .. | .clock .. | .cunlk .. | .cinv .. | .cwb .. => true
  | _ => false

/-- The line of an access at an ordinary segment. -/
def LaneAcc.line (a : LaneAcc) (tid : Nat) : Option Nat :=
  match a.target with
  | .glob _ tia => some (gia tid tia / 128)
  | _ => none

/-- Lines that a context holds locked on a core, and the locked lines of a set (R175). -/
def Core.locked (c : Core) (tid idx : Nat) : Nat := (c.l1.filter fun l => glineTid l.gline = tid && l.lock.getLsbD idx).length
def Core.lockedSet (c : Core) (gline : Nat) : Nat := (c.l1.filter fun l => l.gline % 128 = gline % 128 && l.lock != 0).length

/-- No context holds the line locked. -/
def Core.unlocked (c : Core) (gline : Nat) : Bool := match c.l1? gline with | some l => l.lock == 0 | none => true

/-- CLOCK (R175): the statuses in their order; the line is filled whole where it can be locked. A line of a V page, which L1 never holds, answers
3 as an uncacheable one does (DEDUCED, assumption 125); a line that another context holds locked is locked again whatever its set holds
(DEDUCED, assumption 126). -/
def State.lockLine (s : State) (core cid gline : Nat) : State × Except WalkErr Nat :=
  let idx := cid % 4
  let held := match (s.coreOf core).l1? gline with | some l => l.lock.getLsbD idx | none => false
  let cached := ((s.coreOf core).l1? gline).isSome
  match (if cached then (s, .ok false) else match s.home gline false with
      | (s, .error e) => (s, (.error e : Except WalkErr Bool))
      | (s, .ok (.line _)) => (s, .ok false)
      | (s, .ok _) => (s, .ok true)) with
  | (s, .error e) => (s, .error e)
  | (s, .ok true) => (s, .ok 3)
  | (s, .ok false) =>
    if held then (s, .ok 0)
    else if (s.ctx cid).lockq ≤ (s.coreOf core).locked (cid / 4) idx then (s, .ok 1)
    else if 4 ≤ (s.coreOf core).lockedSet gline ∧ (s.coreOf core).unlocked gline then (s, .ok 2)
    else match s.loadLine core gline 0 128 false false with
      | (s, .error e) => (s, .error e)
      | (s, .ok _) => (s.modCore core fun c => { c with l1 := c.l1.map fun l =>
          if l.gline = gline then { l with lock := l.lock ||| (1#4 <<< idx) } else l }, .ok 0)

/-- PREF (R187): the line filled as a load would; .L2 fills L2 only. Whatever fails, nothing happens. -/
def State.prefetch (s : State) (core gline : Nat) (l2only : Bool) : State :=
  if l2only then (match s.home gline false with | (t, .ok _) => t | _ => s)
  else match s.loadLine core gline 0 128 false false with | (t, .ok _) => t | _ => s

/-- CACHE_OPERATION_COMPLETE (R22, R187): the effect, with a CLOCK's status; PREF is ignored from throttle stage 1 on (R398). -/
def bodyCacheOp (grp fid : Nat) (s : State) : State :=
  match s.flightAt grp fid with
  | none => s
  | some (g, f, t, l) =>
    if s.mustReplay g f l.tid then s.toReplay grp f else
    match f.left with
    | [] => s.complete grp fid id
    | a :: _ =>
      let status (s : State) (n : Nat) := (scalarLand grp f (BitVec.ofNat 64 n) s).complete grp fid id
      match a.line l.tid, f.instr with
      | none, .clock .. => status s 3
      | none, _ => s.complete grp fid id
      | some gl, .clock .. =>
        match s.lockLine t.core l.cid gl with
        | (s, .ok n) => status s n
        | (s, .error e) => s.settleFlight grp f false (Ends.none.add a (s.failed l a.target.va a.target.tia 0 false e))
      | some gl, .pref _ l2only =>
        (if s.lodge.stage = 0 then s.prefetch t.core gl (l2only = 1) else s).complete grp fid id
      | some gl, .cunlk _ => (s.modCore t.core fun c => { c with l1 := c.l1.map fun k =>
          if k.gline = gl then { k with lock := k.lock &&& ~~~(1#4 <<< (l.cid % 4)) } else k }).complete grp fid id
      | some gl, .cinv _ => (s.l1Drop t.core gl).complete grp fid id
      | some gl, _ => (s.l1Clean t.core gl).complete grp fid id

def execCacheOperationComplete (grp fid : Nat) (s : State) : Host.Outcome State Fault Refusal :=
  event (accessDue s grp fid isCacheOp) (bodyCacheOp grp fid s) s

/-! ## Fills and permission (R166, R167) -/

/-- The line that leaves a core's L1 set, where one does: the next in the order of replacement (R167). -/
def State.l1Evict (s : State) (core set : Nat) : State :=
  match (s.coreOf core).l1Victim set with
  | some v => s.l1Drop core v
  | none => s

/-- L1_FILL: a line comes to a core's L1; where the event says so, a line of its L1 set is replaced first, with its dirty bytes written back
(R167). What L2 replaces for it, if anything, its slice says and not the event: a full set's line, or one of the tenant's own at its cap
(R171, R361). -/
def bodyL1Fill (core gline : Nat) (victim : Option Nat) (s : State) : State :=
  let s := if victim.isSome then s.l1Evict core (gline % 128) else s
  match s.home gline false with
  | (t, .ok (.line l)) => t.l1FillFrom core gline false l
  | _ => s

/-- A fill is due for a line of a live tenant. -/
def execL1Fill (core gline : Nat) (victim _l2victim : Option Nat) (s : State) : Host.Outcome State Fault Refusal :=
  event (core < Config.cores && (s.tenant (glineTid gline)).live) (bodyL1Fill core gline victim s) s

/-- WRITE_PERMISSION_GRANT (R166): a line of a core's L1 obtains WP from its L2 slice, which gains it first (R13) and says the frame (R301). -/
def bodyGrantWp (core gline : Nat) (s : State) : State :=
  match s.l2Write gline false with
  | (t, .ok (.line n)) => t.modLine core gline fun l => { l with wp := true, stamp := n.stamp }
  | _ => s

def execWritePermissionGrant (core gline : Nat) (s : State) : Host.Outcome State Fault Refusal :=
  event (((s.coreOf core).l1? gline).any fun l => !l.wp) (bodyGrantWp core gline s) s

end Sys2Proof.Machine
end

