-- ==== Sys2Proof/Machine/Atomics.lean ====
section
/-! DEFINITION. Machine/Atomics.lean: lane and scalar atomics (R188 to R190) and their performance; division in flight (R80, R123). -/

namespace Sys2Proof.Machine

/-- The new value of an atomic on n-bit values (R188): `old`, the operand, and for CAS the new value. -/
def atomicNew (n op old x y : Nat) : Nat :=
  let so := sext n old
  let sx := sext n x
  match op with
  | 0 => (old + x) % 2 ^ n
  | 1 => (old + 2 ^ n - x % 2 ^ n) % 2 ^ n
  | 2 => if sx < so then x else old
  | 3 => if so < sx then x else old
  | 4 => min old x
  | 5 => max old x
  | 6 => old &&& x
  | 7 => old ||| x
  | 8 => old ^^^ x
  | 9 => x
  | 10 => if old = x then y else old
  | 11 => if x ≤ old then 0 else old + 1
  | 12 => (fadd fF32 0 old x).1
  | 13 => (fadd fF16 0 (old % 65536) (x % 65536)).1 % 65536 + 65536 * ((fadd fF16 0 (old / 65536) (x / 65536)).1 % 65536)
  | 14 => (fminmax fF32 false old x).1
  | _ => (fminmax fF32 true old x).1

/-- Operand and, for CAS, new value of an atomic from the words it carries (R189, R190). -/
def atomicOpnd (size op : Nat) (ws : List W32) : Nat × Nat :=
  let k := size / 4
  (leNat (wordsBytes (ws.take k)), if op = 10 then leNat (wordsBytes (ws.drop k)) else 0)

/-- The bytes that an atomic leaves (R188). -/
def atomicBytes (op : Nat) (ws : List W32) (old : List Byte) : List Byte :=
  let (x, y) := atomicOpnd old.length op ws
  leBytes old.length (atomicNew (8 * old.length) op (leNat old) x y)

/-- vb's registers: the operand, twice as many for CAS (R189). -/
def atomicRegs (size op : Nat) : Nat := size / 4 * if op = 10 then 2 else 1

/-- A lane atomic issues; vd = v127 is the detached reduction form (R189, R24). -/
def bodyVatom (x : Iss) (i : Instr) (vd va vb op size : Nat) (s : State) : State :=
  let ex := x.exec 0
  laneAccess x i .atomic (if vd = 127 then 15 else 0) 3 size ex (x.asks ex va false (x.op (atomicRegs size op) vb))
    (if vd = 127 then [] else x.op (size / 4) vd) s

/-- SYSATOM where an address lies in a host or fabric window (R37). -/
def atomFeats (va : Nat) (x : Iss) (s : State) : List Nat := laneFeats x s .atomic (x.exec 0) va false

def execVatom (vd va vb : BitVec 7) (op : BitVec 4) (s : State) : Host.Outcome State Fault Refusal :=
  issueIf (.vatom vd va vb op) never (atomFeats va.toNat)
    (fun x => bodyVatom x (.vatom vd va vb op) vd.toNat va.toNat vb.toNat op.toNat 4) s
def execVatomAr (vd va vb : BitVec 7) (op : BitVec 4) (s : State) : Host.Outcome State Fault Refusal :=
  issueIf (.vatomAr vd va vb op) never (atomFeats va.toNat)
    (fun x => bodyVatom x (.vatomAr vd va vb op) vd.toNat va.toNat vb.toNat op.toNat 4) s
def execVatomW (vd va vb : BitVec 7) (op : BitVec 4) (s : State) : Host.Outcome State Fault Refusal :=
  issueIf (.vatomW vd va vb op) never (atomFeats va.toNat)
    (fun x => bodyVatom x (.vatomW vd va vb op) vd.toNat va.toNat vb.toNat op.toNat 8) s

/-- The operand words of SATOM: sb, and for CAS sb + 1 (R190). -/
def satomWords (x : Iss) (sb op : Nat) (dw : BitVec 1) : List W32 :=
  words64 (dwBytes dw) (x.s sb) ++ if op = 10 then words64 (dwBytes dw) (x.s (sb + 1)) else []

def execSatom (sd sa sb : BitVec 6) (op : BitVec 4) (ord : BitVec 2) (dw : BitVec 1) (s : State) : Host.Outcome State Fault Refusal :=
  issueIf (.satom sd sa sb op ord dw) never (fun x s => segFeats (s.ctx x.l.cid) .atomic [(x.s sa.toNat).toNat])
    (fun x => scalarAccess x (.satom sd sa sb op ord dw) .atomic 0 3 (dwBytes dw) (x.s sa.toNat).toNat
      (satomWords x sb.toNat op.toNat dw) [] (some sd.toNat)) s

/-! ## ATOMIC_PERFORM (R188 to R190) -/

def isAtomic : Instr → Bool
  | .vatom .. | .vatomAr .. | .vatomW .. | .satom .. => true
  | _ => false

/-- op4 of an atomic. -/
def atomicOp : Instr → Nat
  | .vatom _ _ _ op | .vatomAr _ _ _ op | .vatomW _ _ _ op => op.toNat
  | .satom _ _ _ op _ _ => op.toNat
  | _ => 0

/-- Release and acquire halves of an atomic, all at dev scope (R189, R190). -/
def atomicOrder : Instr → Bool × Bool
  | .vatomAr .. => (true, true)
  | .satom _ _ _ _ ord _ => (2 ≤ ord.toNat, ord.toNat % 2 = 1)
  | _ => (false, false)

/-- One access of an atomic: its old value lands (R189). -/
def atomicLane (grp : Nat) (f : Flight) (t : Team) (l : Launch) (acc : State × Ends) (a : LaneAcc) : State × Ends :=
  let (s, e) := acc
  match s.group? grp with
  | none => (s, e)
  | some g =>
    match s.atomicAt g t l a (atomicBytes (atomicOp f.instr) a.data) with
    | (s, .ok old) =>
      let s := match f.instr with
        | .satom .. => scalarLand grp f (BitVec.ofNat 64 (leNat old)) s
        | _ => s.modGroup grp fun g => g.landWords f 0 a.lane (bytesWords old)
      (s, e.add a (.ok old))
    | (s, r) => (s, e.add a r)

/-- The lanes named, without those of a word that some other lane left addresses too and is not named: the lanes of one word are applied
one after another, with no other access between them (R189). -/
def Flight.words (f : Flight) (lanes : W64) : W64 :=
  f.left.foldl (fun m a => if f.left.any fun b => !bit lanes b.lane && a.touches b then m &&& ~~~laneBit a.lane else m) lanes

/-- ATOMIC_PERFORM (R22): of the lanes left, those named are performed, word by word in ascending lane order (R189), between the release
and the acquire action (R169) (DEDUCED, assumption 26). -/
def bodyAtomic (grp fid : Nat) (lanes : W64) (s : State) : State :=
  match s.flightAt grp fid with
  | none => s
  | some (g, f, t, l) =>
    if s.mustReplay g f l.tid then s.toReplay grp f else
    let s := if (atomicOrder f.instr).1 then s.releaseL1 t.core l.tid else s
    let (s, e) := (f.turns (f.words lanes) unordered).foldl (atomicLane grp f t l) (s, Ends.none)
    let s := s.settleFlight grp f (match f.instr with | .satom .. => false | _ => true) e
    if (atomicOrder f.instr).2 then s.acquireL1 t.core l.tid else s

def execAtomicPerform (grp : Nat) (part : Portion) (s : State) : Host.Outcome State Fault Refusal :=
  event (accessDue s grp part.fid isAtomic) (bodyAtomic grp part.fid part.lanes s) s

/-! ## Division in flight (R80, R123) -/

/-- VFDIV starts: its operands are those of issue; DIVIDE_COMPLETE forms and writes the quotients. -/
def bodyVfdiv (x : Iss) (i : Instr) (vd va vb m n : Nat) (det : Bool) (s : State) : State :=
  let ex := x.exec m
  if ex = 0 then s.advance x else
  let (file, first, k) := dstOf (x.op n vd)
  let words (o : List Loc) (l : Nat) := (List.range n).map fun i => x.v o i l
  s.fly x { x.flight i (if det then 15 else 0) 7 with
    exec := ex, file := file, dst := first, ndst := k
    accs := (bitList ex).map fun l => ⟨l, .spad 0, 0, words (x.op n va) l ++ words (x.op n vb) l, 0, 0, true⟩ } ex

def execVfdiv (vd va vb : BitVec 7) (m : BitVec 2) (f64 : BitVec 1) (det : BitVec 1) (s : State) : Host.Outcome State Fault Refusal :=
  issue (.vfdiv vd va vb m f64 det) (fun x => bodyVfdiv x (.vfdiv vd va vb m f64 det) vd.toNat va.toNat vb.toNat m.toNat
    (f64Regs f64.toNat) (det = 1)) s

/-- The quotient of one lane, with its flags (R80). -/
def quotient (f64 : Bool) (rm : Nat) (ws : List W32) : List W32 × BitVec 5 :=
  if f64 then
    let r := fdiv fF64 rm (leNat (wordsBytes (ws.take 2))) (leNat (wordsBytes (ws.drop 2)))
    (bytesWords (leBytes 8 r.1), r.2)
  else
    let r := fdiv fF32 rm (leNat (wordsBytes (ws.take 1))) (leNat (wordsBytes (ws.drop 1)))
    (bytesWords (leBytes 4 r.1), r.2)

def isDivide : Instr → Bool
  | .sdiv .. | .sdivu .. | .srem .. | .sremu .. | .vfdiv .. => true
  | _ => false

/-- What a division writes when it completes; flags are those of lanes still alive (R10, R57). -/
def divideLand (f : Flight) (g : Group) : Group :=
  let scal (signed rem : Bool) (wd : BitVec 1) : Group :=
    match f.opnds with
    | [a, b] => if f.ndst = 0 then g else g.landScal f.dst (divResult signed rem wd a b)
    | _ => g
  match f.instr with
  | .sdiv _ _ _ _ wd => scal true false wd
  | .sdivu _ _ _ _ wd => scal false false wd
  | .srem _ _ _ _ wd => scal true true wd
  | .sremu _ _ _ _ wd => scal false true wd
  | .vfdiv _ _ _ _ f64 _ =>
    f.accs.foldl (fun g a =>
      if bit g.regs.dead a.lane then g else
      let q := quotient (f64 = 1) (fmtRm f.fmt) a.data
      (g.landWords f 0 a.lane q.1).orFp q.2) g
  | _ => g

/-- DIVIDE_COMPLETE (R22). -/
def execDivideComplete (grp fid : Nat) (s : State) : Host.Outcome State Fault Refusal :=
  match s.flight? grp fid with
  | none => event false s s
  | some (_, f) => event (isDivide f.instr) (s.complete grp fid (divideLand f)) s

end Sys2Proof.Machine
end

