-- ==== Sys2Proof/Machine/Convert.lean ====
section
/-! DEFINITION. Machine/Convert.lean: VCVT (R34, R52, R53, R84). -/

namespace Sys2Proof.Machine

/-- One side of a conversion: a floating format or an integer format, in a container of w bits (R34, R45). -/
inductive CKind where
  | flt (f : FFmt) (w : Nat)
  | int (signed : Bool) (n w : Nat)
  deriving DecidableEq, Repr

def CKind.width : CKind → Nat
  | .flt _ w => w
  | .int _ _ w => w

/-- The 8-bit kinds k and the 4-bit kinds j (R34). -/
def kind8 (k : Nat) : CKind :=
  match k with
  | 0 => .flt fE5M2 8 | 1 => .flt fE4M3 8 | 2 => .flt fE3M4 8 | 3 => .flt fE3M2 8 | 4 => .flt fE2M3 8 | 5 => .flt fU8F 8
  | 6 => .int true 8 8 | _ => .int false 8 8
def kind4 (j : Nat) : CKind :=
  match j with
  | 0 => .flt fE2M1 4 | 1 => .int true 4 4 | _ => .int false 4 4

/-- Source, destination and elements of a conversion code (R34). -/
def convKinds (code : Nat) : CKind × CKind × Nat :=
  let f32 : CKind := .flt fF32 32
  let f64 : CKind := .flt fF64 64
  let i32 : CKind := .int true 32 32
  let u32 : CKind := .int false 32 32
  let f16 : CKind := .flt fF16 16
  let b16 : CKind := .flt fBF16 16
  if 0x38 ≤ code then (kind4 (code - 0x38), f32, 8)
  else if 0x30 ≤ code then (f32, kind4 (code - 0x30), 8)
  else if 0x28 ≤ code then (kind8 (code - 0x28), f32, 4)
  else if 0x20 ≤ code then (f32, kind8 (code - 0x20), 4)
  else match code with
    | 0x00 => (f32, f64, 1) | 0x01 => (f64, f32, 1) | 0x02 => (f32, i32, 1) | 0x03 => (f32, u32, 1)
    | 0x04 => (i32, f32, 1) | 0x05 => (u32, f32, 1) | 0x06 => (f64, i32, 1) | 0x07 => (i32, f64, 1)
    | 0x08 => (f64, u32, 1) | 0x09 => (u32, f64, 1) | 0x10 => (f32, f16, 2) | 0x11 => (f32, b16, 2)
    | 0x12 => (f16, f32, 2) | 0x13 => (b16, f32, 2) | 0x14 => (f16, b16, 2) | _ => (b16, f16, 2)

/-- Ends of an integer format's range (R47). -/
def intLo (signed : Bool) (n : Nat) : Int := if signed then -(2 ^ (n - 1) : Nat) else 0
def intHi (signed : Bool) (n : Nat) : Int := if signed then (2 ^ (n - 1) : Nat) - 1 else (2 ^ n : Nat) - 1

/-- One element converted: its code and flags (R52, R53). -/
def convElem (src dst : CKind) (rm : Nat) (sat : Bool) (c : Nat) : Nat × BitVec 5 :=
  match src, dst with
  | .flt f _, .flt g _ => fconvSigned g rm sat (fdec f c) (f.signed && decide (c / 2 ^ (f.eb + f.mb) % 2 = 1))
  | .flt f _, .int sg n _ => let r := toIntSat rm (intLo sg n) (intHi sg n) (fdec f c); (iwrap n r.1, r.2)
  | .int sg n _, .flt g _ => ofInt g rm sat (if sg then sext n c else (c % 2 ^ n : Nat))
  | .int .., .int .. => (c, 0)

/-- Element i of a source held in registers (R84). -/
def convSrc (k : CKind) (r : Nat → W32) (i : Nat) : Nat :=
  if k.width = 64 then (r 0).toNat + (r 1).toNat * 2 ^ 32 else if k.width = 32 then (r i).toNat else elem (r 0) k.width i

/-- Register i of a destination from its elements (R84). -/
def convDst (k : CKind) (n : Nat) (e : Nat → Nat) (i : Nat) : W32 :=
  if k.width = 64 then BitVec.ofNat 32 (e 0 / 2 ^ (32 * i))
  else if k.width = 32 then BitVec.ofNat 32 (e i)
  else BitVec.ofNat 32 ((List.range n).foldl (fun a j => a + e j % 2 ^ k.width * 2 ^ (k.width * j)) 0)

/-- R84: every destination register of an executing lane is written; the rounding is the word's own. -/
def bodyVcvt (x : Iss) (vd va code m rnd : Nat) (s : State) : State :=
  let k := convKinds code
  let ex := x.exec m
  let src := x.op (convRegs code).1 va
  let r (l i : Nat) : Nat × BitVec 5 := convElem k.1 k.2.1 rnd (fmtSat x.q.fmt) (convSrc k.1 (fun j => x.v src j l) i)
  s.onGroup x fun g =>
    (g.wrDest ex (x.op (convRegs code).2 vd) fun i l => convDst k.2.1 k.2.2 (fun e => (r l e).1) i).orFp
      ((bitList ex).foldl (fun f l => (List.range k.2.2).foldl (fun f i => f ||| (r l i).2) f) 0)

def execVcvt (vd va code : BitVec 7) (m rnd : BitVec 2) (s : State) : Host.Outcome State Fault Refusal :=
  issue (.vcvt vd va code m rnd) (fun x => bodyVcvt x vd.toNat va.toNat code.toNat m.toNat rnd.toNat) s

end Sys2Proof.Machine
end

