-- ==== Sys2Proof/Machine/Matrix.lean ====
section
/-! DEFINITION. Machine/Matrix.lean: the matrix engine (R217 to R245): quarters and tiles, layout words and B descriptors, the swizzle, the
arithmetic of R60 to R62, the two events of an operation, the table loads, MZERO and the switch of a partition's table set. -/

namespace Sys2Proof.Machine

/-! ## Formats (R44 to R50, R60) -/

/-- Container width of a format code (R44). -/
def mContainer (c : Nat) : Nat :=
  match c with
  | 0x00 | 0x1F => 64
  | 0x01 | 0x02 | 0x0C | 0x1D | 0x1E => 32
  | 0x03 | 0x04 | 0x0D => 16
  | 0x0A | 0x10 | 0x11 | 0x16 | 0x17 | 0x19 | 0x1A => 4
  | 0x12 | 0x18 | 0x1B => 2
  | 0x13 => 1
  | _ => 8

/-- Floating formats of the codes 0x00 to 0x0B (R44, R46). -/
def mFloat (c : Nat) : FFmt :=
  match c with
  | 0x00 => fF64
  | 0x01 => fF32
  | 0x02 => fF19
  | 0x03 => fBF16
  | 0x04 => fF16
  | 0x05 => fE5M2
  | 0x06 => fE4M3
  | 0x07 => fE3M4
  | 0x08 => fE3M2
  | 0x09 => fE2M3
  | 0x0A => fE2M1
  | _ => fU8F

def isFloatFmt (c : Nat) : Bool := decide (c < 0x0C)
def isIntFmt (c : Nat) : Bool := decide (0x0C ≤ c) && decide (c ≤ 0x12)
def isZFmt (c : Nat) : Bool := decide (0x14 ≤ c) && decide (c ≤ 0x18)
def isKFmt (c : Nat) : Bool := decide (0x19 ≤ c) && decide (c ≤ 0x1C)
def isCplxFmt (c : Nat) : Bool := decide (0x1D ≤ c) && decide (c ≤ 0x1F)

/-- Bits used by a Z or K code (R44). -/
def zkBits (c : Nat) : Nat :=
  match c with
  | 0x14 => 8
  | 0x15 => 6
  | 0x16 | 0x19 => 4
  | 0x17 | 0x1A => 3
  | 0x18 | 0x1B => 2
  | _ => 5

/-- The pairings of R60, with the accumulator format that each needs. -/
def matrixAcc (af bf : Nat) (zscale : Bool) : Option Nat :=
  if zscale && !isZFmt bf then none
  else if isFloatFmt af && (isFloatFmt bf || isKFmt bf) then some (if af = 0 ∨ bf = 0 then 0x00 else 0x01)
  else if isIntFmt af && isIntFmt bf then some 0x0C
  else if isIntFmt af && isZFmt bf then some (if zscale then 0x01 else 0x0C)
  else if af = 0x13 ∧ bf = 0x13 then some 0x0C
  else if isCplxFmt af && isCplxFmt bf then some 0x1F
  else none

/-- An element at operand fetch (R46 to R50). -/
inductive MElem where
  | flt (v : FVal)
  | int (i : Int)
  | cpx (re im : FVal)
  deriving DecidableEq, Repr

def MElem.f : MElem → FVal
  | .flt v => v
  | .int i => .fin (i < 0) i.natAbs 0
  | .cpx re _ => re
def MElem.i : MElem → Int
  | .int i => i
  | .flt _ => 0
  | .cpx _ _ => 0
def MElem.im : MElem → FVal
  | .cpx _ im => im
  | .flt _ => .fin false 0 0
  | .int _ => .fin false 0 0

/-- The value of a code of a format other than Z and K (R46, R47, R50). -/
def mdec (fmt code : Nat) : MElem :=
  if isFloatFmt fmt then .flt (fdec (mFloat fmt) (if fmt = 2 then code / 8192 else code))
  else match fmt with
    | 0x0C => .int (sext 32 code)
    | 0x0D => .int (sext 16 code)
    | 0x0E => .int (sext 8 code)
    | 0x0F => .int (code % 256 : Nat)
    | 0x10 => .int (sext 4 code)
    | 0x11 => .int (code % 16 : Nat)
    | 0x12 => .int (sext 2 code)
    | 0x13 => .int (if code % 2 = 1 then 1 else -1)
    | 0x1D => .cpx (fdec fF16 (code % 65536)) (fdec fF16 (code / 65536))
    | 0x1E => .cpx (fdec fBF16 (code % 65536)) (fdec fBF16 (code / 65536))
    | _ => .cpx (fdec fF32 (code % 2 ^ 32)) (fdec fF32 (code / 2 ^ 32))

/-! ## Sums (R61) -/

/-- c + s rounded once into the accumulator format: an exact zero is +0, or −0 in RD, unless both addends are −0; a NaN is the default
NaN (R61). For +0 + +0 in RD the rule's words give −0, and the IEEE 754 rules that it names give +0: the words are followed (DESIGN
CHOICE, assumption 35). -/
def maccum (f : FFmt) (rm : Nat) (c : Nat) (v : FVal) : Nat :=
  match fdec f c, v with
  | .fin na ma ea, .fin nb mb eb =>
    match addFin rm na ma ea nb mb eb with
    | .fin n m e => if m = 0 then fsign f ((na && nb && ma = 0 && mb = 0) || rm = 2) else (fconv f rm false (.fin n m e)).1
    | r => (fconv f rm false r).1
  | a, b => (fconv f rm false (faddV rm a b).1).1

/-- The exact sum of a chunk's products: NaN, infinities and −0 as R61 says. -/
def chunkSum : List FVal → FVal
  | [] => .fin false 0 0
  | p :: ps => ps.foldl (fun a b => (faddV 0 a b).1) p

/-- A list cut into pieces of n. -/
def piecesOf {α : Type} (n : Nat) (l : List α) : List (List α) :=
  (List.range ((l.length + n - 1) / n)).map fun q => (l.drop (n * q)).take n

/-- A product of R61; a pruned element gives +0. -/
def mprod (p : MElem × Option MElem) : FVal :=
  match p.2 with
  | some b => (fmulV p.1.f b.f).1
  | none => .fin false 0 0

/-- The exact integer sum of products. -/
def isum (ps : List (MElem × Option MElem)) : Int :=
  ps.foldl (fun a p => match p.2 with | some b => a + p.1.i * b.i | none => a) 0

/-- The two real and the two imaginary terms of a complex product (R50). -/
def realTerms (p : MElem × Option MElem) : List FVal :=
  match p.2 with
  | some b => [(fmulV p.1.f b.f).1, fneg (fmulV p.1.im b.im).1]
  | none => [.fin false 0 0]
def imagTerms (p : MElem × Option MElem) : List FVal :=
  match p.2 with
  | some b => [(fmulV p.1.f b.im).1, (fmulV p.1.im b.f).1]
  | none => [.fin false 0 0]

/-- I32 accumulation of one chunk: wrapped, or clamped with SAT (R61). -/
def iaccum (sat : Bool) (c : Nat) (v : Int) : Nat :=
  let t := sext 32 c + v
  iwrap 32 (if sat then max (-(2 ^ 31 : Nat)) (min ((2 ^ 31 : Nat) - 1) t) else t)

/-- One accumulator element after an operation (R61): `c` its code, C32 holding the real part low; `scales` the block scales of a scaled
operation. Where the exact integer sum p of a block is 0, p is +0, so that scale·p has the sign of the scale (DESIGN CHOICE, assumption 112:
the rule gives the product no sign). -/
def matrixElem (cf rm : Nat) (sat scaled : Bool) (scales : List FVal) (c : Nat) (ps : List (MElem × Option MElem)) : Nat :=
  if cf = 0x00 then ps.foldl (fun c p => maccum fF64 rm c (mprod p)) c
  else if cf = 0x1F then
    (piecesOf 8 ps).foldl (fun c ch =>
      maccum fF32 rm (c % 2 ^ 32) (chunkSum (ch.flatMap realTerms))
        + 2 ^ 32 * maccum fF32 rm (c / 2 ^ 32) (chunkSum (ch.flatMap imagTerms))) c
  else if cf = 0x0C then (piecesOf 8 ps).foldl (fun c ch => iaccum sat c (isum ch)) c
  else if scaled then
    ((piecesOf 32 ps).zip scales).foldl (fun c (ch, sc) => maccum fF32 rm c (fmulV sc (MElem.int (isum ch)).f).1) c
  else (piecesOf 8 ps).foldl (fun c ch => maccum fF32 rm c (chunkSum (ch.map mprod))) c

/-! ## Words and places (R220 to R227) -/

/-- Fields of a layout word (R220). -/
def lwSpan (w : W64) : Nat := bits w 39 37
def lwT (w : W64) : Bool := bit w 36
def lwStride (w : W64) : Nat := bits w 35 20
def lwBase (w : W64) : Nat := bits w 19 0

/-- Fields of a B descriptor (R224). -/
def bdZpoff (w : W64) : Nat := bits w 49 38
def bdSpoff (w : W64) : Nat := bits w 37 24
def bdWboff (w : W64) : Nat := bits w 17 0

/-- What an operation computes with: formats, codebook, K, registers of an A row, accumulator registers (R218, R219, R236). -/
structure MOp where
  mms : Bool
  af : Nat
  bf : Nat
  cf : Nat
  cb : Nat
  k : Nat
  w : Nat
  acc : Nat
  deriving DecidableEq, Repr

/-- From FMT and the B descriptor. -/
def mop (mms : Bool) (fmt bd : W64) : MOp :=
  let af := bits fmt 4 0
  let cf := bits fmt 14 10
  { mms := mms, af := af, cf := cf
    bf := if bits bd 22 18 ≠ 0 then bits bd 22 18 else bits fmt 9 5
    cb := if bit bd 52 then bits bd 51 50 else bits fmt 20 19
    k := (if mms then 1024 else 512) / mContainer af
    w := if mms then 32 else 16
    acc := if cf = 0x00 ∨ cf = 0x1F then 32 else 16 }

/-- Stored rows of the B tile, and its bytes (R225, R237). -/
def MOp.rows (o : MOp) : Nat := if o.mms then o.k / 2 else o.k
def MOp.tileBytes (o : MOp) : Nat := o.rows * (2 * mContainer o.bf)

/-- Blocks of 32 along K (R226). -/
def MOp.blocks (o : MOp) : Nat := (o.k + 31) / 32

/-- Logical offsets of the bytes of A row r, in the order of the packed row (R221). -/
def rowOffsets (o : MOp) (lw : W64) (r : Nat) : List Nat :=
  let e := mContainer o.af / 8
  if lwT lw then (List.range o.k).flatMap fun k => (List.range e).map fun i => lwBase lw + k * lwStride lw + r * e + i
  else (List.range (4 * o.w)).map fun i => lwBase lw + r * lwStride lw + i

/-- Quarters with an executing lane (R217). -/
def quarters (ex : W64) : List Nat := (List.range 8).filter fun q => ex.toNat / 256 ^ q % 256 ≠ 0

/-- Lanes of a quarter. -/
def quarterLanes (q : Nat) : W64 := 255#64 <<< (8 * q)

/-- A metadata nibble (R227): group g, column n. -/
def nibble (side : Memory) (spoff g n : Nat) : Nat := (side.get (spoff + 8 * g + n / 2)).toNat / 16 ^ (n % 2) % 16

/-- Bits set among the low n of a number. -/
def onesBelow (v n : Nat) : Nat := (List.range n).countP fun i => v / 2 ^ i % 2 = 1

/-- The stored row that holds element k of column n, none where it is pruned (R225, R227). -/
def storedRow (o : MOp) (side : Memory) (spoff k n : Nat) : Option Nat :=
  if !o.mms then some k else
  let v := nibble side spoff (k / 4) n
  if v / 2 ^ (k % 4) % 2 = 1 then some (2 * (k / 4) + onesBelow v (k % 4)) else none

/-- A code of the B tile expanded (R48, R49, R225). -/
def bElem (o : MOp) (set : TableSet) (zpoff code k n : Nat) : MElem :=
  if isZFmt o.bf then
    .int ((code % 2 ^ zkBits o.bf : Nat) - ((set.zero.get (4 * (zpoff + 16 * (k / 32) + n))).toNat % 2 ^ zkBits o.bf : Nat))
  else if isKFmt o.bf then .flt (fdec fBF16 (leNat (set.code.read (64 * o.cb + 2 * (code % 2 ^ zkBits o.bf)) 2)))
  else mdec o.bf code

/-- The tile as one number: the code of stored row j, column n lies at container 16j + n (R225). -/
def MOp.tile (o : MOp) (set : TableSet) (bd : W64) : Nat := leNat (set.weights.read (bdWboff bd) o.tileBytes)
def tileCode (o : MOp) (tile j n : Nat) : Nat := tile / 2 ^ (mContainer o.bf * (16 * j + n)) % 2 ^ mContainer o.bf

/-- Column n of B: K elements, none where pruned. -/
def bColumn (o : MOp) (set : TableSet) (bd : W64) (tile n : Nat) : List (Option MElem) :=
  (List.range o.k).map fun k =>
    (storedRow o set.side (bdSpoff bd) k n).map fun j => bElem o set (bdZpoff bd) (tileCode o tile j n) k n

/-- Block scales of column n (R226). -/
def blockScales (o : MOp) (set : TableSet) (bd : W64) (n : Nat) : List FVal :=
  (List.range o.blocks).map fun b => fdec fBF16 (leNat (set.zero.read (4 * (bdZpoff bd + 16 * b + n) + 2) 2))

/-- The K elements of a packed A row (R45). -/
def rowElems (o : MOp) (row : Nat) : List MElem :=
  (List.range o.k).map fun k => mdec o.af (row / 2 ^ (mContainer o.af * k) % 2 ^ mContainer o.af)

/-! ## Issue (R233, R235 to R237) -/

/-- A table set of a team on a partition; one never held is all zero (R228). -/
def Team.tableSet (t : Team) (part : Nat) : TableSet := tget TableSet.empty t.tables part

/-- vc or va names its registers: a multiple of 8, all below the declared count; no scalar window as the destination (R26, R147, R218,
R219). -/
def matrixSpan (g : Group) (count n : Nat) (dest : Bool) : Option (List Loc) :=
  match g.span count 8 n with
  | none => none
  | some os => if dest && os.any (fun o => match o with | .scal _ => true | _ => false) then none else some os

/-- R233 check 1, apart from features. -/
def matrixUndef (mms : Bool) (vc : Nat) (va : Option Nat) (sB : Nat) (x : Iss) (_ : State) : Bool :=
  let o := mop mms x.q.fmt (x.s sB)
  matrixAcc o.af o.bf (bit x.q.fmt 18) != some o.cf || (mms && isCplxFmt o.af)
    || (matrixSpan x.g o.acc vc true).isNone
    || (match va with | some n => (matrixSpan x.g o.w n false).isNone | none => false)

/-- Feature groups of the effective formats (R37). -/
def matrixFeats (mms : Bool) (sB : Nat) (x : Iss) (_ : State) : List Nat :=
  let o := mop mms x.q.fmt (x.s sB)
  (if o.af = 0 ∨ o.bf = 0 then [fgF64] else []) ++ (if isCplxFmt o.af then [fgCplx] else []) ++ (if o.bf = 0x1C then [fgK5] else [])

def lowest (l : List Nat) : Option Nat :=
  match l with
  | [] => none
  | a :: as => some (as.foldl min a)

/-- Every logical offset that the acting quarters read (R221). -/
def aOffsets (o : MOp) (lw : W64) (ex : W64) : List Nat :=
  (quarters ex).flatMap fun q => (List.range 8).flatMap fun i => rowOffsets o lw (8 * q + i)

/-- A trap of R233: cause, %taddr, %tdetail. -/
abbrev MTrap := Nat × Nat × Nat

/-- Checks 2 to 5, for a layout word (R233); 4 and 5 concern bytes of acting quarters. -/
def layoutCheck (o : MOp) (t : Team) (lw ex : W64) : Option MTrap :=
  let offs := aOffsets o lw ex
  if bits lw 63 40 ≠ 0 ∨ lwBase lw % 16 ≠ 0 ∨ lwStride lw % 16 ≠ 0 then some (tcLayout, 0, 2)
  else if lwT lw ∧ mContainer o.af < 8 then some (tcLayout, 0, 3)
  else match lowest (offs.filter fun a => t.spadBytes ≤ a) with
    | some a => some (tcPerm, a, 3 * 256)
    | none => (lowest ((offs.map (· / 2048)).filter fun b => (tget 0 t.tags b).toNat ≠ lwSpan lw)).map fun b => (tcLayout, 2048 * b, 1)

/-- The first metadata nibble without exactly two bits set: group, then column (R233 check 10). -/
def badNibble (o : MOp) (side : Memory) (bad : Nat → Bool) (spoff : Nat) : Option (Nat × Nat) :=
  (List.range (4 * o.k)).findSome? fun i =>
    if !bad (spoff + 8 * (i / 16)) && onesBelow (nibble side spoff (i / 16) (i % 16)) 4 ≠ 2 then some (i / 16, i % 16) else none

/-- Checks 6 to 10, for the B descriptor (R233); 7 to 10 concern bytes that acting quarters read (DEDUCED, assumption 37). SPOFF is a field
of MMS alone: MMA ignores it (R237). `bad` tells the metadata bytes whose word fails its check: they are not looked at here, and the quarters
that read them abort (R373, R374). -/
def descriptorCheck (o : MOp) (set : TableSet) (bad : Nat → Bool) (bd ex : W64) : Option MTrap :=
  if bits bd 63 53 ≠ 0 ∨ bit bd 23 ∨ bdWboff bd % 64 ≠ 0 ∨ (o.mms ∧ bdSpoff bd % 8 ≠ 0) then some (tcLayout, 0, 4)
  else if ex = 0 then none
  else if Config.weightBytes < bdWboff bd + o.tileBytes then some (tcLayout, 0, 5)
  else if isZFmt o.bf ∧ 4096 < bdZpoff bd + 16 * o.blocks then some (tcLayout, 0, 6)
  else if o.mms ∧ Config.sideBytes < bdSpoff bd + 2 * o.k then some (tcLayout, 0, 7)
  else if o.mms then (badNibble o set.side bad (bdSpoff bd)).map fun (g, n) => (tcSparsemeta, bdSpoff bd + 8 * g, n)
  else none

/-- A matrix operation issues (R233, R236): registers are taken as at issue; the words stay with the flight until the operands are
consumed. MMS checks the metadata that the group's earlier loads have brought (R232) (DEDUCED, assumption 36). -/
def bodyMatrix (x : Iss) (i : Instr) (mms : Bool) (vc : Nat) (a : W64 ⊕ Nat) (sB : Nat) (zero : BitVec 1) (la : Nat) (s : State) : State :=
  let bd := x.s sB
  let o := mop mms x.q.fmt bd
  let ex := x.exec 0
  if mms && x.g.flights.any (fun f => isTableOp f.instr) then s.hold x .cond false else
  match (match a with | .inl lw => layoutCheck o x.t lw ex | .inr _ => none).orElse
      (fun _ => descriptorCheck o (x.t.tableSet x.g.part) (fun a => s.bad.contains (9, whereTable x.t.core x.g.part 1 a)) bd ex) with
  | some (cause, addr, detail) => s.raise x cause (BitVec.ofNat 64 addr) (BitVec.ofNat 64 detail)
  | none =>
    if ex = 0 then s.onGroup x fun g => { g with regs := { g.regs with opc := g.regs.opc + 1 } } else
    let cs := (matrixSpan x.g o.acc vc true).getD []
    let rs := match a with | .inl _ => [] | .inr va => (matrixSpan x.g o.w va false).getD []
    let (file, first, n) := dstOf cs
    let opnds := match a with
      | .inl lw => [bd, lw]
      | .inr _ => match dstOf rs with | (.lane, f, k) => [bd, BitVec.ofNat 64 f, BitVec.ofNat 64 k] | _ => [bd, 0, 0]
    let snap := (bitList ex).foldl (fun t l =>
      let t := (List.range rs.length).foldl (fun t j => tset 0 t (64 * j + l) (x.v rs j l)) t
      if zero = 1 then t else (List.range cs.length).foldl (fun t j => tset 0 t (64 * (32 + j) + l) (x.v cs j l)) t) []
    s.fly x { x.flight i la 5 with exec := ex, opnds := opnds, snap := snap, file := file, dst := first, ndst := n } ex

def execMma (vc : BitVec 7) (sA sB : BitVec 5) (zero : BitVec 1) (la : BitVec 4) (s : State) : Host.Outcome State Fault Refusal :=
  issueIf (.mma vc sA sB zero la) (matrixUndef false vc.toNat none sB.toNat) (matrixFeats false sB.toNat)
    (fun x => bodyMatrix x (.mma vc sA sB zero la) false vc.toNat (.inl (x.s sA.toNat)) sB.toNat zero la.toNat) s
def execMmaR (vc va : BitVec 7) (sB : BitVec 5) (zero : BitVec 1) (la : BitVec 4) (s : State) : Host.Outcome State Fault Refusal :=
  issueIf (.mmaR vc va sB zero la) (matrixUndef false vc.toNat (some va.toNat) sB.toNat) (matrixFeats false sB.toNat)
    (fun x => bodyMatrix x (.mmaR vc va sB zero la) false vc.toNat (.inr va.toNat) sB.toNat zero la.toNat) s
def execMms (vc : BitVec 7) (sA sB : BitVec 5) (zero : BitVec 1) (la : BitVec 4) (s : State) : Host.Outcome State Fault Refusal :=
  issueIf (.mms vc sA sB zero la) (matrixUndef true vc.toNat none sB.toNat) (matrixFeats true sB.toNat)
    (fun x => bodyMatrix x (.mms vc sA sB zero la) true vc.toNat (.inl (x.s sA.toNat)) sB.toNat zero la.toNat) s
def execMmsR (vc va : BitVec 7) (sB : BitVec 5) (zero : BitVec 1) (la : BitVec 4) (s : State) : Host.Outcome State Fault Refusal :=
  issueIf (.mmsR vc va sB zero la) (matrixUndef true vc.toNat (some va.toNat) sB.toNat) (matrixFeats true sB.toNat)
    (fun x => bodyMatrix x (.mmsR vc va sB zero la) true vc.toNat (.inr va.toNat) sB.toNat zero la.toNat) s

/-! ## The partition (R228, R229, R231, R232) -/

/-- Matrix work in flight on a partition of a core, with its group. -/
def State.onPart (s : State) (core part : Nat) : List (Group × Flight) :=
  (s.groups.filter fun g => g.part = part ∧ (s.team? g.team).map Team.core = some core).flatMap fun g =>
    (g.flights.filter fun f => isMatrixOp f.instr || isTableOp f.instr).map fun f => (g, f)

/-- MMS of an operation in flight. -/
def isMms : Instr → Bool
  | .mms .. | .mmsR .. => true
  | _ => false

/-- The set held by a partition is the team's (R228). -/
def State.owns (s : State) (t : Team) (part : Nat) : Bool := tget 0 (s.coreOf t.core).owner part = t.ref + 1

/-- A team's oldest matrix work on a partition that still needs the set. -/
def State.waitsSet (s : State) (t : Team) (part : Nat) : Option Nat :=
  lowest (((s.onPart t.core part).filter fun p => p.1.team = t.ref && !p.2.consumed).map fun p => p.2.fid)

/-- TABLE_SET_SWITCH is due: another team's set is held, and the other teams' operations that have begun or come before are complete
(R228, R229). -/
def switchDue (s : State) (team part : Nat) : Bool :=
  match s.team? team with
  | none => false
  | some t =>
    !s.owns t part && match s.waitsSet t part with
      | none => false
      | some fid => (s.onPart t.core part).all fun p => p.1.team = team || (decide (fid < p.2.fid) && !p.2.consumed)

/-- The partition's set is the team's; the owner's stays as it is with its team, but for words that fail their check (R228, R374). -/
def State.switchSet (s : State) (t : Team) (part : Nat) : State :=
  ((s.loseTables t.core part).modCore t.core fun c => { c with owner := tset 0 c.owner part (t.ref + 1) }).restoreLost t
    fun b => b.1 = 9 && b.2 / 2 ^ 54 % 4 = part

/-- TABLE_SET_SWITCH (R228). -/
def execTableSetSwitch (team part : Nat) (s : State) : Host.Outcome State Fault Refusal :=
  match s.team? team with
  | none => event false s s
  | some t => event (switchDue s team part) (s.switchSet t part) s

/-- A store of the team in flight has written a part of an aligned 16-byte chunk among the offsets and has yet to write another part of it:
a fetch sees the chunk wholly old or wholly new (R212, R232, R243). -/
def State.halfMade (s : State) (t : Team) (offs : List Nat) : Bool :=
  (s.groupsOf t.ref).any fun g => g.flights.any fun f => isStore f.instr && f.accs.any fun a => match a.target with
    | .spad o => bit f.done a.lane && (f.left.any fun b => match b.target with | .spad p => o / 16 == p / 16 | _ => false)
        && offs.any fun k => k / 16 == o / 16
    | _ => false

/-- The scratchpad offsets that the acting quarters of an operation in flight read (R221, R222); none for the register form. -/
def Flight.tileOffsets (f : Flight) : List Nat :=
  match f.opnds with
  | [bd, lw] => (aOffsets (mop (isMms f.instr) f.fmt bd) lw f.exec).map (swizzle (lwSpan lw))
  | _ => []

/-- MATRIX_OPERANDS_CONSUMED is due (R229, R231, R232): operations of the partition consume in issue order, and the loads that the group
issued before have been written. A load that has failed its translation holds nothing back: the operation was issued under its lookahead and
runs to completion (R345), with the table as it is (DESIGN CHOICE, assumption 120). -/
def consumeDue (s : State) (grp fid : Nat) : Bool :=
  match s.flightAt grp fid with
  | none => false
  | some (g, f, t, _) =>
    isMatrixOp f.instr && !f.consumed && s.owns t g.part
      && (s.onPart t.core g.part).all (fun p => decide (fid ≤ p.2.fid) || !isMatrixOp p.2.instr || p.2.consumed)
      && ((g.before fid).all fun e => !isTableOp e.instr) && !s.halfMade t f.tileOffsets

/-- A table byte that fails its check, among those of a range (R371 unit 9). -/
def State.tableBad (s : State) (core part arr off n : Nat) : Option (Nat × Nat) :=
  (((List.range n).map fun i => whereTable core part arr (off + i)).find? fun p => s.bad.contains (9, p)).map fun p => (9, p)

/-- The tables that an operation reads, looked through for a word that fails its check (R374). -/
def State.matrixBad (s : State) (o : MOp) (core part : Nat) (bd : W64) (tile : Nat) : Option (Nat × Nat) :=
  ((s.tableBad core part 0 (bdWboff bd) o.tileBytes).orElse fun _ =>
    if o.mms then s.tableBad core part 1 (bdSpoff bd) (2 * o.k) else none).orElse fun _ =>
      if isKFmt o.bf then (List.range (16 * o.rows)).findSome? fun j =>
        s.tableBad core part 2 (64 * o.cb + 2 * (tileCode o tile (j / 16) (j % 16) % 2 ^ zkBits o.bf)) 2
      else if isZFmt o.bf then
        (List.range (16 * o.blocks)).findSome? fun j => s.tableBad core part 3 (4 * (bdZpoff bd + j)) 4
      else none

/-- Z of an operation. -/
def zeroesAcc : Instr → Bool
  | .mma _ _ _ z _ | .mmaR _ _ _ z _ | .mms _ _ _ z _ | .mmsR _ _ _ z _ => z = 1
  | _ => false

/-- A row of lane l as a number: its registers as at issue, free values where they were written since (R232), or its bytes. -/
def aRow (f : Flight) (o : MOp) (t : Team) (free l : Nat) : Nat :=
  match f.opnds with
  | [_, lw] => leNat ((rowOffsets o lw l).map fun a => t.spad.get (swizzle (lwSpan lw) a))
  | _ =>
    leNat (wordsBytes ((List.range o.w).map fun j =>
      if bit f.spoiled l then (freeVal free (64 * j + l)).setWidth 32 else tget 0 f.snap (64 * j + l)))

/-- Column n of lane l as at issue, or zero (R219, R236). -/
def accOf (f : Flight) (o : MOp) (l n : Nat) : Nat :=
  if zeroesAcc f.instr then 0
  else if o.acc = 16 then (tget 0 f.snap (64 * (32 + n) + l)).toNat
  else pair64 (tget 0 f.snap (64 * (32 + 2 * n) + l)) (tget 0 f.snap (64 * (32 + 2 * n + 1) + l))

/-- The accumulator words of one lane (R236). -/
def laneResult (f : Flight) (o : MOp) (t : Team) (free : Nat) (cols : List (List (Option MElem) × List FVal)) (l : Nat) : List W32 :=
  let row := rowElems o (aRow f o t free l)
  (cols.zipIdx).flatMap fun (c, n) =>
    let v := matrixElem o.cf (fmtRm f.fmt) (fmtSat f.fmt) (bit f.fmt 18) c.2 (accOf f o l n) (row.zip c.1)
    if o.acc = 16 then [BitVec.ofNat 32 v] else [BitVec.ofNat 32 v, BitVec.ofNat 32 (v / 2 ^ 32)]

/-- The place that fails a check among what a quarter reads: a table, or its A bytes (R374). -/
def State.quarterBad (s : State) (f : Flight) (o : MOp) (t : Team) (table : Option (Nat × Nat)) (q : Nat) : Option (Nat × Nat) :=
  table.orElse fun _ => match f.opnds with
    | [_, lw] => (List.range 8).findSome? fun i =>
        (rowOffsets o lw (8 * q + i)).findSome? fun a => (s.spadBad t (swizzle (lwSpan lw) a) 1).map fun p => (2, p)
    | _ => none

/-- MATRIX_OPERANDS_CONSUMED (R231): A, B and the tables are read and the results formed; %opc counts it; a quarter that reads a word
which fails its check loses its lanes (R238). -/
def bodyConsume (grp fid : Nat) (s : State) : State :=
  match s.flightAt grp fid with
  | none => s
  | some (g, f, t, _) =>
    let bd := f.opnds.headD 0
    let o := mop (isMms f.instr) f.fmt bd
    let set := t.tableSet g.part
    let tile := o.tile set bd
    let cols := (List.range 16).map fun n => (bColumn o set bd tile n, blockScales o set bd n)
    let table := s.matrixBad o t.core g.part bd tile
    let bad := (quarters f.exec).filterMap fun q => (s.quarterBad f o t table q).map fun p => (q, p)
    let out := (bitList f.exec).foldl (fun r l =>
      if bad.any fun b => b.1 = l / 8 then r else
      ((laneResult f o t s.free cols l).zipIdx).foldl (fun r (v, j) => tset 0 r (64 * j + l) v) r) []
    let s := { s with free := s.free + 1 }.modGroup grp fun g =>
      { g.modFlight fid (fun k => { k with consumed := true, snap := out }) with regs := { g.regs with opc := g.regs.opc + 1 } }
    let s := s.settleTeam g.team
    bad.foldl (fun s (q, u, p) => (s.detected u p 1 (quarterLanes q)).killLanes grp (quarterLanes q)) s

def execMatrixOperandsConsumed (grp fid : Nat) (s : State) : Host.Outcome State Fault Refusal :=
  event (consumeDue s grp fid) (bodyConsume grp fid s) s

/-- MATRIX_RESULT_WRITTEN (R231): in issue order among the group's operations; dead lanes are not written. -/
def resultDue (s : State) (grp fid : Nat) : Bool :=
  match s.flight? grp fid with
  | none => false
  | some (g, f) => isMatrixOp f.instr && f.consumed && (g.before fid).all fun e => !isMatrixOp e.instr

def resultLand (f : Flight) (g : Group) : Group :=
  (bitList f.exec).foldl (fun g l => g.landWords f 0 l ((List.range f.ndst).map fun j => tget 0 f.snap (64 * j + l))) g

def execMatrixResultWritten (grp fid : Nat) (s : State) : Host.Outcome State Fault Refusal :=
  match s.flight? grp fid with
  | none => event false s s
  | some (_, f) => event (resultDue s grp fid) (s.complete grp fid (resultLand f)) s

/-! ## Matrix-support loads (R239 to R245) -/

/-- Fields of the source descriptor (R240) and of the destination and length word (R241). -/
def srcSp (w : W64) : Bool := bit w 63
def srcSpan (w : W64) : Nat := bits w 62 60
def srcAddr (w : W64) : Nat := bits w 47 0
def ldLen (w : W64) : Nat := bits w 50 32
def ldDst (w : W64) : Nat := bits w 18 0

/-- Granule and limit of a table (R242), by its array number of R149. -/
def tableGranule (arr : Nat) : Nat :=
  match arr with
  | 0 => 64
  | 1 => 8
  | 2 => 2
  | _ => 4

/-- Pieces of a global source: none crosses a 64 KiB boundary, so that each lies in one segment (R293). -/
def srcPieces (a n : Nat) : List (Nat × Nat) :=
  ((List.range (n / 65536 + 2)).map fun i =>
    let lo := max a ((a / 65536 + i) * 65536)
    let hi := min (a + n) ((a / 65536 + i + 1) * 65536)
    (lo, hi - lo)).filter fun p => p.2 ≠ 0

/-- The lowest byte of a range for which a test holds. -/
def lowByte (a n : Nat) (p : Nat → Bool) : Option Nat := (List.range n).findSome? fun i => if p (a + i) then some (a + i) else none

/-- The scratchpad offset that a source byte means: itself for SP = 1, its place in a window segment otherwise (R177, R244). -/
def srcOffset (c : Ctx) (sp : Bool) (a : Nat) : Option Nat :=
  if sp then some a else match c.place a with | some (_, .spad o) => some o | _ => none

/-- The checks of R244 in their order, after UNDEF and MASKED (DEDUCED, assumption 38) (DEDUCED, assumption 39). -/
def loadCheck (x : Iss) (c : Ctx) (arr : Nat) (src dst : W64) : Option Denied :=
  let sp := srcSp src
  let a := srcAddr src
  let n := ldLen dst
  let layout (d : Nat) : Denied := .trap tcLayout 0 (BitVec.ofNat 64 d)
  let globalBad (p : Nat → Bool) : Option Nat := if sp then none else lowByte a n p
  let first (b : Option Nat) (reason : Nat) (k : Option Denied) : Option Denied :=
    match b with | some v => some (denyAt tcPerm v 0 reason) | none => k
  if bits src 59 48 ≠ 0 ∨ (!sp ∧ srcSpan src ≠ 0) ∨ (sp ∧ 2 ^ 32 ≤ a) ∨ bits dst 63 51 ≠ 0 ∨ bits dst 31 19 ≠ 0 then some (layout 8)
  else if ldDst dst % tableGranule arr ≠ 0 ∨ n % tableGranule arr ≠ 0 then some (layout 9)
  else if aliasSize arr < ldDst dst + n then some (layout 10)
  else first (globalBad fun v => decide (2 ^ 48 ≤ v)) 6 <|
    if (globalBad fun v => !leaseByte x.l.leases false v).isSome then some .lease else
    let denied := globalBad fun v => match c.segOf v with | some i => !bit (c.seg i 3) 0 | none => true
    first denied (if denied.all fun v => (c.segOf v).isNone then 1 else 2) <|
    first (globalBad fun v => match c.place v with | some (_, .aperture _ _) => true | _ => false) 5 <|
    first ((lowByte a n fun v => match srcOffset c sp v with | some o => decide (x.t.spadBytes ≤ o) | none => false).map
      fun v => (srcOffset c sp v).getD v) 3 <|
    if a % 16 ≠ 0 then some (denyAt tcMisalign a 0 0) else
    (lowByte a n fun v => match srcOffset c sp v with
      | some o => (tget 0 x.t.tags (o / 2048)).toNat != srcSpan src
      | none => false).map fun v => .trap tcLayout (BitVec.ofNat 64 ((srcOffset c sp v).getD 0 / 2048 * 2048)) 1

/-- A matrix-support load issues; without a byte to load it completes at once (R243). -/
def bodyTableLoad (x : Iss) (i : Instr) (arr : Nat) (src dst : W64) (la : Nat) (s : State) : State :=
  let c := s.ctx x.l.cid
  match loadCheck x c arr src dst with
  | some d => s.deny x d
  | none =>
    if ldLen dst = 0 then s.advance x else
    let accs : List LaneAcc := if srcSp src then [] else
      (srcPieces (srcAddr src) (ldLen dst)).filterMap fun p => (c.place p.1).map fun t => ⟨0, t.2, p.2, [], t.1, 0, true⟩
    s.fly x { x.flight i la 5 with exec := 1, opnds := [src, dst], accs := accs } 0

def execWbload (sa sb : BitVec 5) (la : BitVec 4) (s : State) : Host.Outcome State Fault Refusal :=
  issue (.wbload sa sb la) (fun x => bodyTableLoad x (.wbload sa sb la) 0 (x.s sa.toNat) (x.s sb.toNat) la.toNat) s
def execSpload (sa sb : BitVec 5) (la : BitVec 4) (s : State) : Host.Outcome State Fault Refusal :=
  issue (.spload sa sb la) (fun x => bodyTableLoad x (.spload sa sb la) 1 (x.s sa.toNat) (x.s sb.toNat) la.toNat) s
def execCbload (sa sb : BitVec 5) (la : BitVec 4) (s : State) : Host.Outcome State Fault Refusal :=
  issue (.cbload sa sb la) (fun x => bodyTableLoad x (.cbload sa sb la) 2 (x.s sa.toNat) (x.s sb.toNat) la.toNat) s
def execZpload (sa sb : BitVec 5) (la : BitVec 4) (s : State) : Host.Outcome State Fault Refusal :=
  issue (.zpload sa sb la) (fun x => bodyTableLoad x (.zpload sa sb la) 3 (x.s sa.toNat) (x.s sb.toNat) la.toNat) s
def execMzero (la : BitVec 4) (s : State) : Host.Outcome State Fault Refusal :=
  issue (.mzero la) (fun x s => s.fly x { x.flight (.mzero la) la.toNat 5 with exec := 1 } 0) s

/-! ## TABLE_LOAD_WRITE (R243) -/

/-- Pieces of n bytes that cross no 128-byte line, from an address of 16-byte alignment. -/
def linePieces (a n : Nat) : List (Nat × Nat) :=
  ((List.range (n / 128 + 2)).map fun i =>
    let lo := max a ((a / 128 + i) * 128)
    let hi := min (a + n) ((a / 128 + i + 1) * 128)
    (lo - a, hi - lo)).filter fun p => p.2 ≠ 0

/-- The bytes of one access of any length, line by line. -/
def State.readLong (s : State) (g : Group) (t : Team) (l : Launch) (a : LaneAcc) : State × LaneEnd :=
  (linePieces a.target.va a.size).foldl (fun (acc : State × LaneEnd) p =>
    match acc with
    | (s, .ok bs) =>
      match s.loadAt g t l { a with target := a.target.plus p.1, size := p.2 } false false with
      | (s, .ok more) => (s, .ok (bs ++ more))
      | r => r
    | r => r) (s, .ok [])

/-- The scratchpad offsets that a load reads, for SP = 1 (R240, R243). -/
def Flight.sourceOffsets (f : Flight) : List Nat :=
  match f.opnds with
  | [src, dst] => if srcSp src then (List.range (ldLen dst)).map fun i => swizzle (srcSpan src) (srcAddr src + i) else []
  | _ => []

/-- The source of a load, read whole (R243). -/
def State.tableSource (s : State) (g : Group) (t : Team) (l : Launch) (f : Flight) : State × LaneEnd :=
  match f.opnds with
  | [src, _] =>
    if srcSp src then
      let offs := f.sourceOffsets
      match offs.findSome? fun o => s.spadBad t o 1 with
      | some p => (s, .dead 2 p)
      | none => (s, .ok (offs.map t.spad.get))
    else f.accs.foldl (fun (acc : State × LaneEnd) a =>
      match acc with
      | (s, .ok bs) => match s.readLong g t l a with | (s, .ok more) => (s, .ok (bs ++ more)) | r => r
      | r => r) (s, .ok [])
  | _ => (s, .ok [])

/-- Array of a load (R242). -/
def loadArray : Instr → Nat
  | .wbload .. => 0
  | .spload .. => 1
  | .cbload .. => 2
  | _ => 3

/-- A table set with bytes written into one array. -/
def TableSet.write (k : TableSet) (arr off : Nat) (bs : List Byte) : TableSet :=
  match arr with
  | 0 => { k with weights := k.weights.write off bs }
  | 1 => { k with side := k.side.write off bs }
  | 2 => { k with code := k.code.write off bs }
  | _ => { k with zero := k.zero.write off bs }

/-- What a matrix-support instruction writes: the array, or every one, its first byte and its bytes. -/
def Flight.writesTable (f : Flight) : Option Nat × Nat × Nat :=
  match f.instr, f.opnds with
  | .mzero _, _ => (none, 0, 2 ^ 18)
  | i, [_, dst] => (some (loadArray i), ldDst dst, ldLen dst)
  | i, _ => (some (loadArray i), 0, 0)

/-- Two of them write a common byte of a table. -/
def Flight.tableMeets (e f : Flight) : Bool :=
  isTableOp e.instr && isTableOp f.instr && (match e.writesTable.1, f.writesTable.1 with | some a, some b => a = b | _, _ => true)
    && rangesMeet e.writesTable.2.1 e.writesTable.2.2 f.writesTable.2.1 f.writesTable.2.2

/-- A load of another group of the team, issued earlier and not done, that writes the same bytes of the partition's tables: it writes
first (R243). -/
def State.tableBehind (s : State) (g : Group) (f : Flight) : Bool :=
  s.groups.any fun k => k.ref ≠ g.ref && k.team = g.team && k.part = g.part && k.unfinished.any fun e => e.fid < f.fid && e.tableMeets f

/-- TABLE_LOAD_WRITE is due (R232, R243): earlier operations of the partition have consumed their operands, earlier loads are written,
the set is the team's, and the source's own order allows the read (R197). -/
def tableDue (s : State) (grp fid : Nat) : Bool :=
  match s.flightAt grp fid with
  | none => false
  | some (g, f, t, l) =>
    isTableOp f.instr && s.owns t g.part
      && (s.onPart t.core g.part).all (fun p => decide (fid ≤ p.2.fid) || p.2.consumed)
      && !s.tableBehind g f && !s.conflicts l.tid f (g.before fid) && !s.copyAhead g f && !f.outOfTurn g
      && !s.halfMade t f.sourceOffsets

/-- A word of a table that a load covers whole is repaired (R402). -/
def State.tableRepair (s : State) (core part arr off n : Nat) : State :=
  { s with bad := s.bad.filter fun b => !(b.1 = 9 && (List.range (n / 8 + 1)).any fun i =>
      let w := (off + 7) / 8 * 8 + 8 * i
      decide (w + 8 ≤ off + n) && b.2 == whereTable core part arr w) }

/-- A word of a table that fails its check and that a write of a range covers only in part (R402). -/
def State.tablePartial (s : State) (core part arr off n : Nat) : Option Nat :=
  ([off / 8 * 8, (off + n) / 8 * 8].filter fun w => decide (w < off ∨ off + n < w + 8) && decide (w < off + n)).findSome? fun w =>
    if s.bad.contains (9, whereTable core part arr w) then some (whereTable core part arr w) else none

/-- TABLE_LOAD_WRITE: the source is read whole, then the range is written as one write; MZERO clears the set (R243, R245). A load behind
a missing one to the same bytes waits for its replay (R243, R345). A partial write of a word that fails its check kills the group and
writes nothing (R402). -/
def bodyTableWrite (grp fid : Nat) (s : State) : State :=
  match s.flightAt grp fid with
  | none => s
  | some (g, f, t, l) =>
    let put (s : State) (k : TableSet) : State := s.modTeam t.ref fun t => { t with tables := tset TableSet.empty t.tables g.part k }
    if s.mustReplay g f l.tid ∨ g.trap.replay.any (fun e => e.fid < f.fid && e.tableMeets f) then s.toReplay grp f else
    match f.instr with
    | .mzero _ =>
      let s := (List.range 4).foldl (fun s arr => s.tableRepair t.core g.part arr 0 (aliasSize arr)) s
      (put s TableSet.empty).complete grp fid id
    | _ =>
      let arr := loadArray f.instr
      let dst := ldDst (f.opnds.getD 1 0)
      let one : LaneAcc := ⟨0, .matrix arr dst, 0, [], 0, 0, true⟩
      match s.tableSource g t l f with
      | (s, .ok bs) =>
        match s.tablePartial t.core g.part arr dst bs.length with
        | some p => s.settleFlight grp { f with accs := [] } false (Ends.none.add one (.dead 9 p))
        | none =>
          let s := s.tableRepair t.core g.part arr dst bs.length
          (put s ((t.tableSet g.part).write arr dst bs)).completeAccess g fid
      | (s, r) => s.settleFlight grp f false (Ends.none.add one r)

def execTableLoadWrite (grp fid : Nat) (s : State) : Host.Outcome State Fault Refusal :=
  event (tableDue s grp fid) (bodyTableWrite grp fid s) s

end Sys2Proof.Machine
end

