-- ==== Sys2Proof/Machine/Record.lean ====
section
/-! DEFINITION. Machine/Record.lean: fault records and residency records (R307 to R309): how one is made, and what it holds. -/

namespace Sys2Proof.Machine

/-- The first number from `seed` up, below 2³² and not 0, that a list does not hold. -/
def freshNumber (seed : Nat) (used : List Nat) : Nat :=
  ((List.range (used.length + 2)).map fun k => (seed + k) % 2 ^ 32).find? (fun v => v ≠ 0 ∧ !used.contains v) |>.getD 1

/-- A record's words but for TOKEN (R309): context, VA, page, KIND, the walk's reason and level, HANDLE, TEAMIX and GID. -/
def recordWords (cid va tia kind : Nat) (reason level : Nat) (write : Bool) (token handle team gid : Nat) : List W64 :=
  [BitVec.ofNat 64 (cid % 256 * 2 ^ 48 + va % 2 ^ 48), BitVec.ofNat 64 (tia % 2 ^ 48 / 65536 * 65536),
    BitVec.ofNat 64 (kind * 2 ^ 62 + level % 4 * 2 ^ 60 + (if reason = 2 then 2 ^ 59 else 0) + (if write then 2 ^ 58 else 0) + token),
    BitVec.ofNat 64 (handle % 2 ^ 32 * 2 ^ 32 + team % 65536 * 65536 + gid % 65536)]

/-- A token that none of the tenant's outstanding records has (R330; DESIGN CHOICE, assumption 4). -/
def State.newToken (s : State) (tid : Nat) : Nat := freshNumber (Config.tokenSeed s.free % 2 ^ 32) ((s.tenant tid).recs.map (·.token))

/-- A record becomes outstanding, with the next record number (R308); FILL_ARRIVAL writes it into its slot. -/
def State.postRecord (s : State) (tid : Nat) (what : RecordOf) (words : Nat → List W64) : State × Nat :=
  let token := s.newToken tid
  ({ s with free := s.free + 1 }.modTenant tid fun t =>
    { t with recs := t.recs ++ [(⟨token, t.nextRec, what, words token, false⟩ : FaultRec)], nextRec := (t.nextRec + 1) % 2 ^ 24 }, token)

/-- The record of a group's demand failure (R307, R309): KIND 0, or 1 for a matrix-support load. -/
def State.postGroupRecord (s : State) (g : Group) (t : Team) (l : Launch) (d : Demand) (tableLoad : Bool) : State :=
  (s.postRecord l.tid (if tableLoad then .load g.ref else .group g.ref) fun token =>
    recordWords l.cid d.va d.tia (if tableLoad then 1 else 0) d.reason d.level d.write token l.handle t.idx
      (if tableLoad then 0 else g.gid)).1

end Sys2Proof.Machine
end

