-- ==== Sys2Proof/Machine/Copy.lean ====
section
/-! DEFINITION. Machine/Copy.lean: CPY and the copy unit (R246 to R259, R264, R265, R270), conditional commit (R253), and the sequence
stages with their fills (R260 to R263). -/

namespace Sys2Proof.Machine

/-! ## Operand words (R246 to R248) -/

/-- Fields of a copy address word (R246). -/
def cwSp (w : W64) : Bool := bit w 63
def cwRemote (w : W64) : Bool := cwSp w && bit w 62
def cwTeam (w : W64) : Nat := bits w 51 32
def cwBase (w : W64) : Nat := if cwSp w then bits w 19 0 else bits w 47 0

/-- A side of a copy. -/
def cwSide (w : W64) : Side :=
  if cwRemote w then .remote (cwTeam w) (bits w 19 0) else if cwSp w then .own (bits w 19 0) else .glob (bits w 47 0)

/-- ROWS, and the bytes of a destination row and of a source row (R247, R250). -/
def shRows (w : W64) : Nat := if bits w 33 24 = 0 then 1024 else bits w 33 24
def shDrow (w : W64) : Nat := 16 * bits w 11 0
def shSrow (zf : Bool) (w : W64) : Nat := if zf then 16 * bits w 23 12 else shDrow w
def shSstride (w : W64) : Nat := 16 * bits w 49 34
def shDstride (w : W64) : Nat := 16 * bits w 63 50

/-- FIRE, STAGE and SEQN of the extension word (R248). -/
def exFire (w : W64) : W32 := (w >>> 32).setWidth 32
def exStage (w : W64) : Nat := bits w 31 29
def exSeq (w : W64) : Nat := bits w 23 0

/-- What a CPY asks for, as its scalars say at issue. -/
structure CpyAsk where
  dw : W64
  sw : W64
  sh : W64
  ext : W64
  z : Nat
  mc : Bool
  ver : Bool
  step : Bool
  seq : Bool
  nt : Bool
  zf : Bool
  deriving DecidableEq, Repr

/-- The first byte of the rows of a side for which a test holds, in row order. -/
def rowByte (rows stride len base : Nat) (p : Nat → Bool) : Option Nat :=
  (List.range rows).findSome? fun r => lowByte (base + r * stride) len p

/-! ## Issue (R249, R251) -/

/-- Check 2: reserved fields and shapes; check 3: the size of a VER copy; check 4: the direction. The detail of LAYOUT. -/
def cpyLayout (a : CpyAsk) : Option Nat :=
  let resv (w : W64) : Bool := bits w 61 52 != 0 || (cwSp w && bits w 31 20 != 0)
  let extBad : Bool := (a.mc && bits a.ext 63 16 != 0) || (a.seq && (bits a.ext 28 24 != 0 || (!a.step && bits a.ext 63 32 != 0)))
  if resv a.dw || resv a.sw || extBad || bits a.sh 11 0 = 0 || bits a.sh 11 0 < bits a.sh 23 12 || (!a.zf && bits a.sh 23 12 != 0) then some 11
  else if a.ver && decide (65536 < shRows a.sh * shDrow a.sh) then some 11
  else if (!cwSp a.dw && !cwSp a.sw) || cwRemote a.sw || (a.mc && !cwRemote a.dw) || (a.seq && !cwSp a.dw) then some 12
  else none

/-- The first byte of the global side, source or destination with its version word, for which a test holds (R251, R253). -/
def cpyGlobal (a : CpyAsk) (p : Bool → Nat → Bool) : Option Nat :=
  if !cwSp a.sw then rowByte (shRows a.sh) (shSstride a.sh) (shSrow a.zf a.sh) (cwBase a.sw) (p false)
  else if !cwSp a.dw then
    (if a.ver then lowByte (cwBase a.dw - 8) 8 (p true) else none).orElse fun _ =>
      rowByte (shRows a.sh) (shDstride a.sh) (shDrow a.sh) (cwBase a.dw) (p true)
  else none

/-- Logical base of an own-team destination: a slot of its stage for SEQ (R262), none while that stage is not initialised. -/
def cpyOwnBase (a : CpyAsk) (t : Team) : Option Nat :=
  if !cwSp a.dw || cwRemote a.dw then none
  else if !a.seq then some (cwBase a.dw)
  else
    let st := tget Stage.none t.stages (exStage a.ext)
    if st.depth = 0 then none else some (st.base + 64 + exSeq a.ext % st.depth * st.slotBytes + cwBase a.dw)

/-- A SEQ copy's stage of the own team is missing, or its rows pass the end of a slot (check 11). -/
def cpyStageBad (a : CpyAsk) (t : Team) : Bool :=
  let st := tget Stage.none t.stages (exStage a.ext)
  a.seq && !cwRemote a.dw
    && (st.depth == 0 || decide (st.slotBytes < cwBase a.dw + (shRows a.sh - 1) * shDstride a.sh + shDrow a.sh))

/-- The checks of R251 from 2 on, in their order (DEDUCED, assumption 40). -/
def cpyCheck (x : Iss) (c : Ctx) (a : CpyAsk) : Option Denied :=
  let layout (d : Nat) : Denied := .trap tcLayout 0 (BitVec.ofNat 64 d)
  let first (b : Option Nat) (reason : Nat) (k : Option Denied) : Option Denied :=
    match b with | some v => some (denyAt tcPerm v 0 reason) | none => k
  let ownSrc (p : Nat → Bool) : Option Nat :=
    if cwSp a.sw then rowByte (shRows a.sh) (shSstride a.sh) (shSrow a.zf a.sh) (cwBase a.sw) p else none
  let ownDst (p : Nat → Bool) : Option Nat :=
    match cpyOwnBase a x.t with
    | some b => (if a.ver then (if b < 8 then some (2 ^ 64 - 8 + b) else lowByte (b - 8) 8 p) else none).orElse fun _ =>
        rowByte (shRows a.sh) (shDstride a.sh) (shDrow a.sh) b p
    | none => none
  let beyond (o : Nat) : Bool := decide (x.t.spadBytes ≤ o)
  let retagged (o : Nat) : Bool := (tget 0 x.t.tags (o / 2048)).toNat != a.z
  let window (v : Nat) : Option Nat := match c.place v with | some (_, .spad o) => some o | _ => none
  let high (w : W64) : Bool := !cwSp w && bits w 62 48 != 0
  let seg (v : Nat) : Nat := ((c.place v).map (·.1)).getD 0
  match cpyLayout a with
  | some d => some (layout d)
  | none =>
  if high a.dw then some (denyAt tcPerm a.dw.toNat 0 6)
  else if high a.sw then some (denyAt tcPerm a.sw.toNat 0 6)
  else if !cwSp a.dw ∧ a.ver ∧ cwBase a.dw < 8 then some (denyAt tcPerm (2 ^ 64 - 8 + cwBase a.dw) 0 6)
  else first (cpyGlobal a fun _ v => decide (2 ^ 48 ≤ v)) 6 <|
    if (cpyGlobal a fun w v => !leaseByte x.l.leases w v).isSome then some .lease else
    first (cpyGlobal a fun _ v => (c.segOf v).isNone) 1 <|
    first (cpyGlobal a fun w v => !bit (c.seg (seg v) 3) (if w then 1 else 0)) 2 <|
    first (cpyGlobal a fun _ v => match c.place v with | some (_, .aperture _ _) => true | _ => false) 5 <|
    first ((cpyGlobal a fun _ v => (window v).any beyond).bind window) 3 <|
    first (ownSrc beyond) 3 <|
    first (ownDst beyond) 3 <|
    if cwBase a.dw % 16 ≠ 0 then some (denyAt tcMisalign (cwBase a.dw) 0 0)
    else if cwBase a.sw % 16 ≠ 0 then some (denyAt tcMisalign (cwBase a.sw) 0 0)
    else match (ownSrc retagged).orElse fun _ => if cwSp a.sw then none else
          (cpyGlobal a fun w v => !w && (window v).any retagged).bind window with
      | some o => some (.trap tcLayout (BitVec.ofNat 64 (o / 2048 * 2048)) 1)
      | none => if cpyStageBad a x.t then some (layout 13) else none

/-- Copies that a core's unit holds, and its armed table (R249, R264), which those of a saved team have left with it. -/
def State.queued (s : State) (core : Nat) : Nat :=
  (s.copies.filter fun c => c.core = core ∧ c.phase ≠ .offered ∧ c.phase ≠ .armed).length
def State.armedCount (s : State) (core : Nat) : Nat :=
  (s.copies.filter fun c => c.core = core ∧ c.phase = .armed ∧ !(s.team? c.team).any fun t => t.state = .saved).length

/-- There is room for a command: in the armed table for STEP, in the queue otherwise. -/
def State.copyRoom (s : State) (core : Nat) (step : Bool) : Bool :=
  if step then decide (s.armedCount core < Config.armedMax) else decide (s.queued core < Config.copyQueueMax)

/-- The pieces of destination rows that lie each in one aligned 64-byte block (R250): row, first byte in the row, bytes. -/
def chunkList (rows len base stride : Nat) : List (Nat × Nat × Nat) :=
  (List.range rows).flatMap fun r =>
    let d := base + r * stride
    ((List.range (len / 64 + 2)).map fun i =>
      let lo := max d ((d / 64 + i) * 64)
      let hi := min (d + len) ((d / 64 + i + 1) * 64)
      (r, lo - d, hi - lo)).filter fun p => p.2.2 ≠ 0

/-- Destination base of a copy that does not go into a slot. -/
def Side.base : Side → Nat
  | .glob va => va
  | .own o => o
  | .remote _ o => o

/-- A copy that the unit takes: armed, to be presented to its stage, or moving at once; without STEP it joins the open batch (R249,
R264). -/
def State.acceptCopy (s : State) (job : Nat) : State :=
  match s.copy? job with
  | none => s
  | some c =>
    let s := s.modCopy job fun c => { c with
      phase := if c.step then .armed else if c.seq then .present else .moving
      chunks := if c.seq then [] else chunkList c.rows c.drow c.dst.base c.dstride }
    if c.step then s else s.modGroup c.grp fun g =>
      { g with batch := { g.batch with openJobs := g.batch.openJobs ++ [job], openHas := true } }

/-- CPY (R249): checked, then taken by the copy unit, or offered to it while there is no room. -/
def bodyCpy (x : Iss) (a : CpyAsk) (s : State) : State :=
  match x.q.hold with
  | some h => s.hold x h.kind h.bounded
  | none =>
    match cpyCheck x (s.ctx x.l.cid) a with
    | some d => s.deny x d
    | none =>
      let job := s.next
      let room := s.copyRoom x.t.core a.step
      let c : Copy := {
        job := job, tid := x.l.tid, cid := x.l.cid, launch := x.l.ref, team := x.t.ref, grp := x.g.ref, core := x.t.core
        z := a.z, ver := a.ver, step := a.step, seq := a.seq, mc := a.ext.setWidth 16, multi := a.mc, nt := a.nt, zf := a.zf
        src := cwSide a.sw, dst := cwSide a.dw, rows := shRows a.sh, drow := shDrow a.sh, srow := shSrow a.zf a.sh
        sstride := shSstride a.sh, dstride := shDstride a.sh, ext := a.ext, phase := .offered, slot := none, chunks := []
        limit := waitClocks x.g.regs.waitlim, waited := 0, segs := (s.ctx x.l.cid).segs, reason := 0, lines := [] }
      let s := { s with copies := s.copies ++ [c] }.fresh
      if room then (s.acceptCopy job).advance x
      else s.hold x (if a.step then .armed job else .copyq job) a.step

def execCpy (sD sS sN : BitVec 5) (z : BitVec 3) (mc ver step seq nt zf : BitVec 1) (s : State) : Host.Outcome State Fault Refusal :=
  issueIf (.cpy sD sS sN z mc ver step seq nt zf) (fun x _ => step = 1 && !x.l.kernel.paced) (fun _ _ => [])
    (fun x => bodyCpy x {
      dw := x.s sD.toNat, sw := x.s sS.toNat, sh := x.s sN.toNat, z := z.toNat
      ext := if mc = 1 ∨ ver = 1 ∨ seq = 1 then x.s (sN.toNat + 1) else 0
      mc := mc = 1, ver := ver = 1, step := step = 1, seq := seq = 1, nt := nt = 1, zf := zf = 1 }) s

/-- The copy that a quad-set is held for. -/
def QSet.offered (q : QSet) : Option Nat :=
  match q.hold.map Hold.kind with
  | some (.copyq job) | some (.armed job) => some job
  | _ => none

/-- COPY_COMMAND_ACCEPT (R249): the unit takes the command of a held CPY once there is room, and the CPY completes. -/
def acceptDue (s : State) (grp tag : Nat) : Bool :=
  match s.issAt grp tag with
  | none => false
  | some x => match x.q.offered.bind s.copy? with
    | some c => !s.lodge.drain && !s.suspended c.core && s.copyRoom c.core c.step
    | none => false

def execCopyCommandAccept (grp tag : Nat) (s : State) : Host.Outcome State Fault Refusal :=
  match s.issAt grp tag with
  | none => event false s s
  | some x => event (acceptDue s grp tag) ((s.acceptCopy (x.q.offered.getD 0)).advance x) s

/-! ## Moving (R250 to R255, R265) -/

/-- What becomes of a part of a copy. -/
inductive Moved where
  | ok (bytes : List Byte)
  | fail (reason : Nat)
  | demand (d : Demand)
  deriving DecidableEq, Repr

/-- Reason codes (R252). -/
def crTranslate : Nat := 1
def crCode : Nat := 2
def crVersion : Nat := 3
def crAbort : Nat := 4
def crTeam : Nat := 5
def crBounds : Nat := 6
def crStale : Nat := 7
def crView : Nat := 8
def crStage : Nat := 9
def crWindow : Nat := 10
def crTemplate : Nat := 11
def crChain : Nat := 12
def crAlign : Nat := 13

/-- A failed translation of a copy's global side: it waits on a record in a demand range and fails otherwise (R252, R265, R307); an
uncorrectable error joins its log record (R373, R382, R403). -/
def State.moveErr (s : State) (l : Launch) (va tia : Nat) (write : Bool) (e : WalkErr) : State × Moved :=
  match e with
  | .abort u p => (s.detected u p 8 0, .fail crAbort)
  | .fail _ _ => match s.failed l va tia 0 write e with | .demand d => (s, .demand d) | _ => (s, .fail crTranslate)

/-- Bytes of a team's scratchpad as its copy unit reads them (R373). -/
def State.spadMove (s : State) (t : Team) (o n : Nat) : State × Moved :=
  match s.spadBad t o n with
  | some p => (s.detected 2 p 8 0, .fail crAbort)
  | none => (s, .ok (t.spad.read o n))

/-- One read of n source bytes at global address `b` for those from `a` on: through the issuing core's L1, at the host or over the fabric (R250); a scratchpad
window segment (R177) is placed through R222 with code z, 16 bytes at a time. -/
def State.copyFetch (s : State) (c : Copy) (t : Team) (l : Launch) (a b n : Nat) : State × Moved :=
  match c.place s b with
  | some (.glob _ tia) =>
    match s.loadLine c.core (gia c.tid tia / 128) (tia % 128) n c.nt false with
    | (s, .ok bs) => (s, .ok bs)
    | (s, .error e) => s.moveErr l a tia false e
  | some (.host _ tia) =>
    match s.home (gia c.tid tia / 128) true with
    | (s, .error e) => s.moveErr l a tia false e
    | (s, .ok h) => match s.homeRead h (gia c.tid tia / 128) (tia % 128) n with
      | .ok bs => (s, .ok bs)
      | .error e => s.moveErr l a tia false e
  | some (.fabric _ _ tia) =>
    match s.fabricErr with
    | some e => ({ s with free := s.free + 1 } : State).moveErr l a tia false e
    | none => ({ s with free := s.free + 1 }, .ok (fabricBytes s.free n))
  | some (.spad o) => s.spadMove t (swizzle c.z o) 16
  | _ => (s, .fail crTranslate)

/-- 16 source bytes at an address of the source side (R250). A 64-byte line of a global source is read as one read, which serves every chunk
that takes bytes of it. -/
def State.copyRead16 (s : State) (c : Copy) (t : Team) (l : Launch) (a : Nat) : State × Moved :=
  match c.src with
  | .own _ => s.spadMove t (swizzle c.z a) 16
  | .remote _ _ => (s, .fail crTeam)
  | .glob _ =>
    match c.place s a with
    | some (.spad _) => s.copyFetch c t l a a 16
    | _ =>
      let part (bs : List Byte) : List Byte := (bs.drop (a % 64)).take 16
      match ((s.copy? c.job).getD c).lines.find? fun e => e.1 = a / 64 with
      | some e => (s, .ok (part e.2))
      | none =>
        match s.copyFetch c t l a (a / 64 * 64) 64 with
        | (s, .ok bs) => (s.modCopy c.job fun c => { c with lines := c.lines ++ [(a / 64, bs)] }, .ok (part bs))
        | r => r

/-- Source bytes b to b+n−1 of row r; bytes beyond the source row are 0 and not read (R250). -/
def State.copyRead (s : State) (c : Copy) (t : Team) (l : Launch) (r b n : Nat) : State × Moved :=
  (List.range (n / 16)).foldl (fun (acc : State × Moved) i =>
    match acc with
    | (s, .ok bs) =>
      let o := b + 16 * i
      if c.srow ≤ o then (s, .ok (bs ++ List.replicate 16 0)) else
      match s.copyRead16 c t l (c.src.base + r * c.sstride + o) with
      | (s, .ok more) => (s, .ok (bs ++ more))
      | k => k
    | k => k) (s, .ok [])

/-- The indexes of a copy's destination teams (R254). -/
def Copy.teamIdx (c : Copy) : List Nat :=
  match c.dst with
  | .remote t _ => if c.multi then (List.range 16).filterMap fun i => if c.mc.getLsbD i then some (t + i) else none else [t]
  | _ => []

/-- A remote team: of the same launch, placed and not ended, on the issuing die (R252 TEAM, R254). -/
def State.remoteTeam (s : State) (c : Copy) (idx : Nat) : Option Team :=
  s.teams.find? fun t => t.launch = c.launch ∧ t.idx = idx ∧ t.state ≠ .ended ∧ dieOf t.core = dieOf c.core

/-- The destination teams of a scratchpad destination, none where one is missing. -/
def State.destTeams (s : State) (c : Copy) : List (Option Team) :=
  match c.dst with
  | .own _ => [s.team? c.team]
  | .remote _ _ => c.teamIdx.map (s.remoteTeam c)
  | .glob _ => []

/-- Bytes written into a team's scratchpad at a logical offset under code z, 16 at a time; the blocks written take the tag z (R222,
R223) (DEDUCED, assumption 43). -/
def State.spadPut (s : State) (team z off : Nat) (bs : List Byte) : State :=
  let s := (List.range ((bs.length + 15) / 16)).foldl (fun s i =>
    (s.spadWrite team (swizzle z (off + 16 * i)) ((bs.drop (16 * i)).take 16)).1) s
  s.modTeam team fun t => { t with
    tags := (List.range ((off + bs.length + 2047) / 2048 - off / 2048)).foldl (fun g k => tset 0 g (off / 2048 + k) (BitVec.ofNat 3 z)) t.tags }

/-- One chunk written into one team: TEAM or BOUNDS where it cannot be (R252). -/
def State.chunkToTeam (s : State) (c : Copy) (t : Option Team) (off : Nat) (bs : List Byte) : State × Moved :=
  match t with
  | none => (s, .fail crTeam)
  | some t => if t.spadBytes < off + bs.length then (s, .fail crBounds) else (s.spadPut t.ref c.z off bs, .ok [])

/-- A destination line is written back and invalidated in the L1 of the issuing core, and of the core to which the team has moved since: the
write is one of the group's own (R250, R255). -/
def State.copyOwn (s : State) (c : Copy) (gline : Nat) : State :=
  let s := s.l1Invalidate c.core gline
  match s.team? c.team with
  | some t => if t.core = c.core then s else s.l1Invalidate t.core gline
  | none => s

/-- A destination line may be written: CODE, VIEW or a demand failure otherwise (R252). -/
def State.chunkToLine (s : State) (c : Copy) (l : Launch) (va tia : Nat) (host : Bool) (bs : List Byte) : State × Moved :=
  let gl := gia c.tid tia / 128
  let s := if host then s else s.copyOwn c gl
  let leaf : State × Moved :=
    if (s.l2.any fun k => k.gline = gl && k.wp) && !host then (s, .ok []) else
    match s.translate c.tid tia with
    | (s, .ok k) => (s, if k.kind = 1 then .fail crCode else if k.kind = 3 then .fail crView else .ok [])
    | (s, .error e) => s.moveErr l va tia true e
  match leaf with
  | (s, .ok _) =>
    match s.l2Write gl host c.nt with
    | (s, .error e) => s.moveErr l va tia true e
    | (s, .ok h) =>
      match s.homeWrite h gl fun i => if tia % 128 ≤ i then bs[i - tia % 128]? else none with
      | (s, .ok _) => (s, .ok [])
      | (s, .error e) => s.moveErr l va tia true e
  | r => r

/-- One chunk written at its destination address (R250, R254): every destination team that can take it gets it. -/
def State.chunkWrite (s : State) (c : Copy) (l : Launch) (a : Nat) (bs : List Byte) : State × Moved :=
  match c.dst with
  | .glob _ =>
    match c.place s a with
    | some (.glob va tia) => s.chunkToLine c l va tia false bs
    | some (.host va tia) => s.chunkToLine c l va tia true bs
    | some (.fabric va pkg tia) =>
      match s.fabricErr with
      | some e => ({ s with free := s.free + 1 } : State).moveErr l va tia true e
      | none => ({ s with free := s.free + 1, fabricOut := s.fabricOut ++ [(pkg, tia, bs)] }, .ok [])
    | some (.spad o) => (s.spadPut c.team c.z o bs, .ok [])
    | _ => (s, .fail crTranslate)
  | _ =>
    (s.destTeams c).foldl (fun (acc : State × Moved) t =>
      let (s, r) := acc.1.chunkToTeam c t a bs
      (s, match acc.2 with | .ok _ => r | k => k)) (s, .ok [])

/-- Logical base of the destination: the slot's start for an accepted fill (R262). -/
def State.copyBase (s : State) (c : Copy) : Nat :=
  match c.slot, (s.destTeams c).head? with
  | some i, some (some t) => let st := tget Stage.none t.stages (exStage c.ext); st.base + 64 + i * st.slotBytes + c.dst.base
  | _, _ => c.dst.base

/-- The source reads may be made: every access that the group issued before the CPY is performed (R255), the source read of a matrix-support
load among them (R243), but no operand fetch, nor a read of the scratchpad by such a load (R194, R232). -/
def State.sourceReady (s : State) (c : Copy) : Bool :=
  match s.group? c.grp with
  | none => true
  | some g => g.unfinished.all fun f => c.job ≤ f.fid || !(isAccess f.instr || isTableLoad f.instr && f.missing != [])

/-- The team whose slot an accepted fill holds: wherever it has been restored since (R262, R270). -/
def State.slotTeam (s : State) (c : Copy) : Option Team :=
  match c.dst with
  | .own _ => s.team? c.team
  | .remote idx _ => s.teams.find? fun t => t.launch = c.launch ∧ t.idx = idx ∧ t.state ≠ .ended
  | .glob _ => none

/-- No core of the copy is suspended: neither its own nor one that it writes into, the one included where the team whose slot it fills is
now (R270); and no power-fail drain has stopped the copy units (R401). -/
def State.copyRuns (s : State) (c : Copy) : Bool :=
  !s.lodge.drain && !s.suspended c.core && ((s.destTeams c).all fun t => match t with | some t => !s.suspended t.core | none => true)
    && !(c.slot.isSome && (s.slotTeam c).any fun t => s.suspended t.core)

/-- The record of a copy's demand failure; its remaining chunks wait on it (R265, R309: KIND 1, GID 0). -/
def State.copyWaits (s : State) (c : Copy) (t : Team) (l : Launch) (d : Demand) : State :=
  let (s, token) := s.postRecord c.tid (.copy c.job) fun token =>
    recordWords c.cid d.va d.tia 1 d.reason d.level d.write token l.handle t.idx 0
  s.modCopy c.job fun c => { c with phase := .waiting token }

/-- The first reason of a copy stands (R252). -/
def Copy.failing (c : Copy) (reason : Nat) : Copy := if c.reason = 0 then { c with reason := reason } else c

/-- The copy with its team and launch. -/
def State.copyAt (s : State) (job : Nat) : Option (Copy × Team × Launch) :=
  match s.copy? job with
  | none => none
  | some c => match s.team? c.team, s.launch? c.launch with | some t, some l => some (c, t, l) | _, _ => none

/-- COPY_CHUNK_WRITE (R250): one chunk, the `chunk`-th of those left, is read and written whole; a failure leaves it unwritten (DEDUCED,
assumption 41). -/
def bodyChunk (job chunk : Nat) (s : State) : State :=
  match s.copyAt job with
  | none => s
  | some (c, t, l) =>
    match c.chunks[chunk]? with
    | none => s
    | some (r, b, n) =>
      let drop (s : State) (f : Copy → Copy) : State := s.modCopy job fun c => { f c with chunks := c.chunks.eraseIdx chunk }
      match s.copyRead c t l r b n with
      | (s, .demand d) => s.copyWaits c t l d
      | (s, .fail k) => drop s (·.failing k)
      | (s, .ok bs) =>
        match s.chunkWrite c l (s.copyBase c + r * c.dstride + b) bs with
        | (s, .demand d) => s.copyWaits c t l d
        | (s, .fail k) => drop s (·.failing k)
        | (s, .ok _) => drop s id

def chunkDue (s : State) (job chunk : Nat) : Bool :=
  match s.copy? job with
  | none => false
  | some c => c.phase = .moving && !c.ver && decide (chunk < c.chunks.length) && s.sourceReady c && s.copyRuns c

def execCopyChunkWrite (job chunk : Nat) (s : State) : Host.Outcome State Fault Refusal :=
  event (chunkDue s job chunk) (bodyChunk job chunk s) s

/-! ## Conditional commit (R253) -/

/-- The whole source of a VER copy, chunk by chunk. -/
def State.readAll (s : State) (c : Copy) (t : Team) (l : Launch) : State × Except Moved (List (Nat × List Byte)) :=
  c.chunks.foldl (fun (acc : State × Except Moved (List (Nat × List Byte))) p =>
    match acc with
    | (s, .ok ds) =>
      match s.copyRead c t l p.1 p.2.1 p.2.2 with
      | (s, .ok bs) => (s, .ok (ds ++ [(s.copyBase c + p.1 * c.dstride + p.2.1, bs)]))
      | (s, e) => (s, .error e)
    | k => k) (s, .ok [])

/-- Every chunk written, or the first that cannot be. -/
def State.writeAll (s : State) (c : Copy) (l : Launch) (ds : List (Nat × List Byte)) : State × Moved :=
  ds.foldl (fun (acc : State × Moved) d => match acc with | (s, .ok _) => s.chunkWrite c l d.1 d.2 | k => k) (s, .ok [])

/-- The version word in the destination's space (R253). -/
def State.versionRead (s : State) (c : Copy) (l : Launch) (a : Nat) : State × Moved :=
  let team (t : Option Team) (o : Nat) : State × Moved :=
    match t with
    | none => (s, .fail crTeam)
    | some t => if t.spadBytes < o + 8 then (s, .fail crBounds) else s.spadMove t (swizzle c.z o) 8
  let line (s : State) (tia : Nat) (host : Bool) : State × Moved :=
    match s.home (gia c.tid tia / 128) host with
    | (s, .error e) => s.moveErr l a tia true e
    | (s, .ok h) => match s.homeRead h (gia c.tid tia / 128) (tia % 128) 8 with
      | .ok bs => (s, .ok bs)
      | .error e => s.moveErr l a tia true e
  match c.dst with
  | .own _ => team (s.team? c.team) a
  | .remote idx _ => team (s.remoteTeam c idx) a
  | .glob _ =>
    match c.place s a with
    | some (.glob _ tia) => line (s.copyOwn c (gia c.tid tia / 128)) tia false
    | some (.host _ tia) => line s tia true
    | some (.fabric va _ tia) =>
      match s.fabricErr with
      | some e => ({ s with free := s.free + 1 } : State).moveErr l va tia true e
      | none => ({ s with free := s.free + 1 }, .ok (fabricBytes s.free 8))
    | some (.spad o) => team (s.team? c.team) o
    | _ => (s, .fail crTranslate)

/-- VERSION_COMMIT (R253): the source is read, then in one step the version word is compared and, where it is EXP, every chunk and then
EXP + 1 are written. A chunk that cannot be written leaves the whole step undone, and a remote destination at offset 0, below which there
is no version word, fails with BOUNDS (DEDUCED, assumption 42). -/
def bodyVersion (job : Nat) (s : State) : State :=
  match s.copyAt job with
  | none => s
  | some (c, t, l) =>
    let stop (s : State) (k : Moved) : State :=
      match k with
      | .demand d => (s.modCopy job fun c => { c with lines := [] }).copyWaits c t l d
      | .fail r => s.modCopy job fun c => { c.failing r with chunks := [] }
      | .ok _ => s.modCopy job fun c => { c with chunks := [] }
    match s.readAll c t l with
    | (s, .error e) => stop s e
    | (s, .ok ds) =>
      if s.copyBase c < 8 then stop s (.fail crBounds) else
      let a := s.copyBase c - 8
      match s.versionRead c l a with
      | (s, .ok old) =>
        if BitVec.ofNat 64 (leNat old) ≠ c.ext then stop s (.fail crVersion) else
        match s.writeAll c l ds with
        | (u, .ok _) =>
          match u.chunkWrite c l a (leBytes 8 (c.ext + 1).toNat) with
          | (u, .ok _) => stop u (.ok [])
          | (_, e) => stop s e
        | (_, e) => stop s e
      | (s, e) => stop s e

def versionDue (s : State) (job : Nat) : Bool :=
  match s.copy? job with
  | none => false
  | some c => c.phase = .moving && c.ver && !c.chunks.isEmpty && s.sourceReady c && s.copyRuns c

def execVersionCommit (job : Nat) (s : State) : Host.Outcome State Fault Refusal :=
  event (versionDue s job) (bodyVersion job s) s

/-! ## Completion (R256, R262, R264) -/

/-- The team whose stage a SEQ copy fills. -/
def State.stageTeam (s : State) (c : Copy) : Option Team :=
  match c.dst with
  | .own _ => s.team? c.team
  | .remote idx _ => s.remoteTeam c idx
  | .glob _ => none

/-- Slot of a sequence. -/
def Stage.slotOf (st : Stage) (n : Nat) : Slot := st.slots.getD (n % st.depth) ⟨.free, 0, 0, false⟩

/-- L moves on over released sequences, and each slot that it passes becomes FREE (R263). A fill that is still writing a slot released
ahead of L is waited for, as SQREL itself waits for it (DEDUCED, assumption 113). -/
def State.advanceLow (team stage : Nat) : Nat → State → State
  | 0, s => s
  | k + 1, s =>
    match s.team? team with
    | none => s
    | some t =>
      let st := tget Stage.none t.stages stage
      let slot := st.slotOf st.low
      if slot.released ∧ slot.state ≠ .filling then
        let s := s.modTeam team fun t => { t with stages := tput t.stages stage { st with low := (st.low + 1) % 2 ^ 24 } }
        State.advanceLow team stage k (s.setSlot team stage (st.low % st.depth) slot.freed)
      else s

/-- A slot goes on through a fill: its state, sequence and reason, a release that is recorded already being kept (R262, R263). -/
def State.fillSlot (s : State) (t : Team) (stage i : Nat) (state : SlotState) (n reason : Nat) : State :=
  let st := tget Stage.none t.stages stage
  State.advanceLow t.ref stage st.depth
    (s.setSlot t.ref stage i ⟨state, n, reason, (st.slots.getD i ⟨.free, 0, 0, false⟩).released⟩)

/-- %cstat of a STEP copy's group after a failure: REASON, and ARMF where no slot was reached (R256, R264) (DEDUCED, assumption 49). -/
def Group.armedFailed (g : Group) (reason : Nat) (slot : Bool) : Group :=
  if g.run = .retired then g else
  { g with batch := { g.batch with reason := BitVec.ofNat 4 reason, armf := g.batch.armf || !slot } }

/-- Why a copy ends, 0 for success. -/
def Copy.outcome (c : Copy) : Nat := match c.phase with | .ended r => r | _ => c.reason

/-- COPY_COMPLETION (R256): the slot's status word is written (R262), the batch or %cstat learns of it, and the copy is gone. -/
def bodyCompletion (job : Nat) (s : State) : State :=
  match s.copy? job with
  | none => s
  | some c =>
    let r := c.outcome
    let s := match c.slot, s.slotTeam c with
      | some i, some t => s.fillSlot t (exStage c.ext) i (if r = 0 then .filled else .failed) (exSeq c.ext) r
      | _, _ => s
    let s := s.modGroup c.grp fun g => if c.step then (if r = 0 then g else g.armedFailed r c.slot.isSome) else g.copyDone job r
    { s with copies := s.copies.filter fun k => k.job ≠ job }

/-- A copy is done; a suspended core takes neither its status word nor its batch's news (R270). -/
def completionDue (s : State) (job : Nat) : Bool :=
  match s.copy? job with
  | none => false
  | some c => s.copyRuns c && match c.phase with
    | .ended _ => true
    | .moving => c.chunks.isEmpty
    | _ => false

def execCopyCompletion (job : Nat) (s : State) : Host.Outcome State Fault Refusal :=
  event (completionDue s job) (bodyCompletion job s) s

/-! ## CSEAL and CYIELD (R257, R259) -/

def execCseal (s : State) : Host.Outcome State Fault Refusal :=
  issue .cseal (fun x s => if 15 ≤ x.g.unf then s.hold x .seal false else s.onGroup x Group.seal) s

/-- CYIELD: at once where UNF ≤ n holds, parked otherwise; its target is looked at when the transfer is made (R21). -/
def bodyCyield (x : Iss) (n : Nat) (target : W64) (s : State) : State :=
  if x.g.unf ≤ n then s.jump x target else s.hold x (.cyield target n) false

def execCyield (num : BitVec 4) (off : BitVec 16) (s : State) : Host.Outcome State Fault Refusal :=
  issue (.cyield num off) (fun x => bodyCyield x num.toNat (branchTarget x off)) s

/-- Where a parked quad-set goes, once it may run and UNF ≤ n (R259). -/
def Iss.wakes (x : Iss) (s : State) : Option W64 :=
  match x.q.hold.map Hold.kind with
  | some (.cyield target n) =>
    if x.g.run = .run ∧ x.mayRun ∧ !x.g.trap.waits ∧ !s.suspended x.t.core ∧ x.g.unf ≤ n then some target else none
  | _ => none

/-- CYIELD_WAKE (R259). -/
def execCyieldWake (grp tag : Nat) (s : State) : Host.Outcome State Fault Refusal :=
  match s.issAt grp tag with
  | none => event false s s
  | some x =>
    match x.wakes s with
    | some target => event true (s.jump x target) s
    | none => event false s s

/-! ## Sequence stages (R260 to R263) -/

/-- Stage 7 of a paced team with a step buffer is the pacer's own (R280). -/
def Team.stepBuffer (t : Team) (stage : Nat) : Bool := match t.pacer with | some p => stage == 7 && p.sbslot != 0 | none => false

/-- d of R262: how far a sequence lies above L, modulo 2²⁴. -/
def seqAhead (n low : Nat) : Nat := (n % 2 ^ 24 + 2 ^ 24 - low % 2 ^ 24) % 2 ^ 24

/-- A held or refused fill fails with a reason: a copy ends, a record stays with its group and the failure is logged (R262, R308) (DEDUCED,
assumption 46). -/
def State.fillFails (s : State) (src : FillSrc) (reason : Nat) : State :=
  match src with
  | .copy job => s.modCopy job fun c => { c with phase := .ended reason }
  | .record tid token =>
    (s.modTenant tid fun t => { t with recs := t.recs.map fun r => if r.token = token then { r with written := true } else r }).logErr
      2 2 tid 0 8 0 0

/-- A stage initialised: L = 0, every slot FREE, the status area 0, held fills failed (R260). -/
def State.initStage (s : State) (team stage depth slot base : Nat) : State :=
  match s.team? team with
  | none => s
  | some t =>
    let old := tget Stage.none t.stages stage
    let s := (s.modTeam team fun t => { t with
      stages := tput t.stages stage ⟨depth, slot, base, 0, List.replicate depth ⟨.free, 0, 0, false⟩, []⟩
      spad := t.spad.write base (List.replicate 64 0) }).spadRepair team base 64
    let s := old.held.foldl (fun s h => s.fillFails h.1 crStale) s
    s.tenants.foldl (fun s (tid, _) =>
      match s.faultStage tid with
      | some (u, k) => if u.ref = team ∧ k = stage then s.modTenant tid fun t => { t with nextRec := 0 } else s
      | none => s) s

/-- Fields of a stage descriptor (R260). -/
def sdId (w : W64) : Nat := bits w 47 45
def sdDm1 (w : W64) : Nat := bits w 44 42
def sdSlot (w : W64) : Nat := bits w 41 20
def sdBase (w : W64) : Nat := bits w 19 0

/-- SQINIT (R260): fills already writing the stage complete first (DEDUCED, assumption 44). -/
def bodySqinit (x : Iss) (d : W64) (s : State) : State :=
  if bits d 63 48 ≠ 0 ∨ sdDm1 d = 0 ∨ sdSlot d = 0 ∨ sdSlot d % 16 ≠ 0 ∨ sdBase d % 64 ≠ 0 ∨ x.t.stepBuffer (sdId d) then
    s.raise x tcLayout 0 13
  else if x.t.spadBytes < sdBase d + 64 + (sdDm1 d + 1) * sdSlot d then
    s.raise x tcPerm (BitVec.ofNat 64 (max (sdBase d) x.t.spadBytes)) (laneDetail 0 3)
  else if (tget Stage.none x.t.stages (sdId d)).slots.any fun k => k.state = .filling then s.hold x .cond true
  else (s.initStage x.t.ref (sdId d) (sdDm1 d + 1) (sdSlot d) (sdBase d)).advance x

def execSqinit (ss : BitVec 6) (s : State) : Host.Outcome State Fault Refusal :=
  issue (.sqinit ss) (fun x => bodySqinit x (x.s ss.toNat)) s

/-- SQWAIT's condition (R263): slot n mod D holds FILLED(n) or FAILED(n), or n has been released. -/
def Stage.waitOver (st : Stage) (n : Nat) : Bool :=
  let k := st.slotOf n
  ((k.state == .filled || k.state == .failed) && k.seq == n % 2 ^ 24)
    || (decide (1 ≤ seqAhead st.low n) && decide (seqAhead st.low n ≤ 2 ^ 23))

/-- SQWAIT (R263): its read of the status is an acquire at dev scope. -/
def bodySqwait (x : Iss) (stage n : Nat) (s : State) : State :=
  let st := tget Stage.none x.t.stages stage
  if st.depth = 0 ∨ x.t.stepBuffer stage then s.raise x tcLayout 0 13
  else if st.waitOver n then (s.acquireL1 x.t.core x.l.tid).advance x
  else s.hold x (.seq stage n) true

def execSqwait (ss sn : BitVec 6) (s : State) : Host.Outcome State Fault Refusal :=
  issue (.sqwait ss sn) (fun x => bodySqwait x (sdId (x.s ss.toNat)) (bits (x.s sn.toNat) 23 0)) s

/-- n is released (R263): nothing outside the window or twice. -/
def State.releaseSeq (s : State) (t : Team) (stage n : Nat) : State :=
  let st := tget Stage.none t.stages stage
  let slot := st.slotOf n
  if seqAhead n st.low < st.depth ∧ !slot.released then
    State.advanceLow t.ref stage st.depth (s.modTeam t.ref fun t =>
      { t with stages := tput t.stages stage { st with slots := st.slots.set (n % st.depth) { slot with released := true } } })
  else s

/-- SQREL (R263): the group's earlier loads complete, then a fill that is writing slot n, then n is released (DEDUCED,
assumption 92). -/
def bodySqrel (x : Iss) (stage n : Nat) (s : State) : State :=
  let st := tget Stage.none x.t.stages stage
  let m := x.mark s
  let loads : Bool := x.g.drained m Flight.loads
  let past : Bool := match x.q.hold.map Hold.kind with | some (.seqRel _ _) => true | _ => false
  if st.depth = 0 ∨ x.t.stepBuffer stage then s.raise x tcLayout 0 13
  else if !past ∧ !loads then s.hold x (.drain m) false
  else if (st.slotOf n).state = .filling ∧ (st.slotOf n).seq = n then s.hold x (.seqRel stage n) true
  else (s.releaseSeq x.t stage n).advance x

def execSqrel (ss sn : BitVec 6) (s : State) : Host.Outcome State Fault Refusal :=
  issue (.sqrel ss sn) (fun x => bodySqrel x (sdId (x.s ss.toNat)) (bits (x.s sn.toNat) 23 0)) s

/-! ## Fills (R262) -/

/-- How a fill stands to its stage (R262). -/
inductive FillFate where
  | accept (slot : Nat)
  | hold
  | fail (reason : Nat)
  deriving DecidableEq, Repr

def Stage.fate (st : Stage) (n : Nat) : FillFate :=
  let d := seqAhead n st.low
  if d < st.depth then (if (st.slotOf n).state = .free then .accept (n % st.depth) else .fail crStale)
  else if d < 2 ^ 23 then .hold
  else .fail crStale

/-- A copy at its stage: TEAM, STAGE and BOUNDS first (R252, R262, R280). -/
def State.copyFate (s : State) (c : Copy) : FillFate :=
  match s.stageTeam c with
  | none => .fail crTeam
  | some t =>
    let st := tget Stage.none t.stages (exStage c.ext)
    if st.depth = 0 ∨ t.stepBuffer (exStage c.ext) then .fail crStage
    else if st.slotBytes < c.dst.base + (c.rows - 1) * c.dstride + c.drow then .fail crBounds
    else st.fate (exSeq c.ext)

/-- The stage without a held fill, and with one. -/
def Team.unhold (t : Team) (stage : Nat) (src : FillSrc) : Team :=
  let st := tget Stage.none t.stages stage
  { t with stages := if st = Stage.none then t.stages else tput t.stages stage { st with held := st.held.filter fun h => h.1 ≠ src } }
def Team.held (t : Team) (stage : Nat) (src : FillSrc) (n : Nat) : Team :=
  let st := tget Stage.none t.stages stage
  { t with stages := tput t.stages stage { st with held := st.held ++ [(src, n)] } }

/-- A copy arrives at its stage: accepted, held ahead of the window, or failed (R262). -/
def bodyFillCopy (job : Nat) (s : State) : State :=
  match s.copy? job with
  | none => s
  | some c =>
    let stage := exStage c.ext
    let n := exSeq c.ext
    let unheld : State := match s.slotTeam c with | some t => s.modTeam t.ref fun t => t.unhold stage (.copy job) | none => s
    match s.copyFate c, s.stageTeam c with
    | .accept i, some t =>
      let s := unheld.fillSlot t stage i .filling n 0
      s.modCopy job fun c =>
        let c := { c with slot := some i, phase := .moving }
        { c with chunks := chunkList c.rows c.drow (s.copyBase c) c.dstride }
    | .hold, some t =>
      if c.phase = .held then s
      else (s.modTeam t.ref fun t => t.held stage (.copy job) n).modCopy job fun c => { c with phase := .held, waited := 0 }
    | .fail r, _ => unheld.fillFails (.copy job) r
    | _, none => unheld.fillFails (.copy job) crTeam

/-- A record arrives at the pager's stage and is written at the start of its slot (R262, R308, R309); a step buffer's stage takes none
(R280). -/
def bodyFillRecord (tid token : Nat) (s : State) : State :=
  match s.faultStage tid, (s.tenant tid).recs.find? fun r => r.token = token with
  | some (t, stage), some r =>
    let st := tget Stage.none t.stages stage
    let n := r.seq % 2 ^ 24
    match (if t.stepBuffer stage then .fail crStage else st.fate n) with
    | .accept i =>
      let s := (s.spadWrite t.ref (st.base + 64 + i * st.slotBytes) (r.words.flatMap fun w => leBytes 8 w.toNat)).1
      let s := (s.modTeam t.ref fun t => t.unhold stage (.record tid token)).fillSlot t stage i .filled n 0
      s.modTenant tid fun t => { t with recs := t.recs.map fun r => if r.token = token then { r with written := true } else r }
    | .hold => if st.held.any fun h => h.1 = .record tid token then s else s.modTeam t.ref fun t => t.held stage (.record tid token) n
    | .fail k => (s.modTeam t.ref fun t => t.unhold stage (.record tid token)).fillFails (.record tid token) k
  | _, _ => s

/-- A fill is to be presented, or is held and no longer ahead of the window. -/
def fillDue (s : State) (src : FillSrc) : Bool :=
  match src with
  | .copy job =>
    match s.copy? job with
    | none => false
    | some c => s.copyRuns c && (c.phase = .present || (c.phase = .held && s.copyFate c != .hold))
  | .record tid token =>
    match s.faultStage tid, (s.tenant tid).recs.find? fun r => r.token = token with
    | some (t, stage), some r =>
      let st := tget Stage.none t.stages stage
      !r.written && !s.lodge.drain && !s.suspended t.core && (!(st.held.any fun h => h.1 = .record tid token) || st.fate (r.seq % 2 ^ 24) != .hold)
    | _, _ => false

/-- FILL_ARRIVAL (R262). -/
def execFillArrival (src : FillSrc) (s : State) : Host.Outcome State Fault Refusal :=
  event (fillDue s src) (match src with | .copy job => bodyFillCopy job s | .record tid token => bodyFillRecord tid token s) s

/-- FILL_WINDOW_TIMEOUT (R262): a fill held longer than the issuing group's WAITLIM fails with WINDOW. -/
def execFillWindowTimeout (job : Nat) (s : State) : Host.Outcome State Fault Refusal :=
  match s.copy? job with
  | none => event false s s
  | some c =>
    event (c.phase = .held && !s.lodge.drain && decide (c.limit ≤ c.waited))
      ((match s.slotTeam c with | some t => s.modTeam t.ref fun t => t.unhold (exStage c.ext) (.copy job) | none => s).fillFails
        (.copy job) crWindow) s

/-- An armed copy fires (R264, R290): not of a team that is saved, nor on a suspended core. -/
def fireDue (s : State) (job : Nat) : Bool :=
  match s.copyAt job with
  | none => false
  | some (c, t, _) =>
    let reached : Bool := match t.pacer with | some p => stepGe p.step (exFire c.ext) | none => false
    c.phase = .armed && reached && !s.lodge.drain && t.state != .saved && t.state != .ended && !s.suspended c.core

/-- ARMED_COPY_FIRE (R264, R289): the team's step has reached FIRE; a saved team's copies fire after its restore. The acquire at dev scope
lets its source reads see what the neighbours wrote before their PDONE (R279, R289). -/
def execArmedCopyFire (job : Nat) (s : State) : Host.Outcome State Fault Refusal :=
  match s.copyAt job with
  | none => event false s s
  | some (c, _, l) => event (fireDue s job) ((s.acquireL1 c.core l.tid).modCopy job fun c => { c with phase := .present }) s

end Sys2Proof.Machine
end

