-- ==== Sys2Proof/Machine/Cross.lean ====
section
/-! DEFINITION. Machine/Cross.lean: cross-lane exchange, broadcast, specials and lane access (R85 to R92, R158), and the mask
instructions (R93, R94). -/

namespace Sys2Proof.Machine

/-- A source lane is absent: dead, or its quad is not in the issuing set (R85). -/
def Iss.absent (x : Iss) (l : Nat) : Bool := bit x.g.regs.dead l || !bit (quadLanes x.q.quads) l

/-- The kernel runs in COMPAT16 mode (R158). -/
def Iss.compat (x : Iss) : Bool := x.l.kernel.compat16

/-- Source lane of a shuffle, none out of range (R86, R87, R158). Modes: 0 index, 1 xor, 2 up, 3 down, 4 rotate. -/
def shuffleSrc (compat : Bool) (w mode l n : Nat) : Option Nat :=
  if compat then
    match mode with
    | 0 => some (n % w)
    | 1 => some (l ^^^ (n % 16))
    | 2 => some ((l + 16 - n % 16) % 16)
    | 3 => some ((l + n % 16) % 16)
    | _ => some ((l + n) % w)
  else
    let r : Int := match mode with
      | 0 => ((n % w : Nat) : Int)
      | 1 => ((l ^^^ (n % 64) : Nat) : Int)
      | 2 => (l : Int) - (n % 64 : Nat)
      | 3 => ((l + n % 64 : Nat) : Int)
      | _ => (((l + n) % w : Nat) : Int)
    if 0 ≤ r ∧ r < w then some r.toNat else none

/-- A shuffle (R86, R87): `amt l` is the lane's operand; in the .D form the m field names the report mask, whose bits are only set. -/
def bodyShuffle (x : Iss) (vd va mode m : Nat) (rep : Bool) (amt : Nat → Nat) (s : State) : State :=
  let ex := x.exec (if rep then 0 else m)
  let src (l : Nat) := shuffleSrc x.compat x.g.width mode l (amt l)
  let lost (l : Nat) : Bool := match src l with | some k => x.absent k | none => false
  let old := x.op 1 va
  s.onGroup x fun g =>
    let g := g.wrDest ex (x.op 1 vd) fun _ l =>
      match src l with
      | none => x.v old 0 l
      | some k => if x.absent k then 0 else x.v old 0 k
    if rep then g.wrMask m ((maskOf lost) &&& ex) (BitVec.allOnes 64) else g

def execVshfl (vd va : BitVec 7) (rep : BitVec 1) (vx : BitVec 6) (m ty : BitVec 2) (s : State) : Host.Outcome State Fault Refusal :=
  issue (.vshfl vd va rep vx m ty) (fun x => bodyShuffle x vd.toNat va.toNat ty.toNat m.toNat (rep = 1)
    fun l => (x.v (x.op 1 vx.toNat) 0 l).toNat) s

/-- Modes of VSHFLI: 0 xor, 1 up, 2 down, 3 rotate (R87). -/
def execVshfli (vd va : BitVec 7) (rep : BitVec 1) (num : BitVec 6) (m ty : BitVec 2) (s : State) : Host.Outcome State Fault Refusal :=
  issue (.vshfli vd va rep num m ty) (fun x => bodyShuffle x vd.toNat va.toNat (ty.toNat + 1) m.toNat (rep = 1) fun _ => num.toNat) s

/-- An instruction that writes one scalar of the group. -/
def writeScalar (x : Iss) (sd : Nat) (v : W64) (s : State) : State := s.onGroup x fun g => g.wrScal (x.g.scalNo sd) v

/-- The vote of R88 over the executing lanes: 0 ANY, 1 ALL, 2 UNI. -/
def voteOf (kind : Nat) (vs : List W32) : Bool :=
  match kind with
  | 0 => vs.any (· ≠ 0)
  | 1 => vs.all (· ≠ 0)
  | _ => vs.all fun v => v = vs.headD 0

/-- The source values of the executing lanes, ascending. -/
def Iss.laneValues (x : Iss) (m va : Nat) : List W32 := (bitList (x.exec m)).map fun l => x.v (x.op 1 va) 0 l

def execVvote (sd : BitVec 6) (va : BitVec 7) (m ty : BitVec 2) (s : State) : Host.Outcome State Fault Refusal :=
  issue (.vvote sd va m ty) (fun x => writeScalar x sd.toNat (boolW64 (voteOf ty.toNat (x.laneValues m.toNat va.toNat)))) s

/-- Integer folds of R89: operations 0 to 8 over V, with the identity for an empty V. -/
def foldInt (op : Nat) (vs : List W32) : W64 :=
  match op with
  | 0 => (vs.foldl (· + ·) 0#32).signExtend 64
  | 1 => vs.foldl (fun a v => a + v.setWidth 64) 0#64
  | 2 => (vs.foldl (fun a v => if v.slt a then v else a) 0x7FFFFFFF#32).signExtend 64
  | 3 => (vs.foldl (fun a v => if a.slt v then v else a) 0x80000000#32).signExtend 64
  | 4 => (vs.foldl (fun a v => if v.ult a then v else a) 0xFFFFFFFF#32).setWidth 64
  | 5 => (vs.foldl (fun a v => if a.ult v then v else a) 0#32).setWidth 64
  | 6 => (vs.foldl (· &&& ·) 0xFFFFFFFF#32).setWidth 64
  | 7 => (vs.foldl (· ||| ·) 0#32).setWidth 64
  | _ => (vs.foldl (· ^^^ ·) 0#32).setWidth 64

/-- ADD.F32: from −0, ascending, each step rounded in FMT.RM (R89, R90). -/
def addChain (rm : Nat) (vs : List W32) : List (Nat × BitVec 5) :=
  (vs.foldl (fun (acc : List (Nat × BitVec 5) × Nat) v =>
    let r := fadd fF32 rm acc.2 v.toNat
    (acc.1 ++ [r], r.1)) ([], 0x80000000)).1

/-- The flags of a chain. -/
def chainFlags (c : List (Nat × BitVec 5)) : BitVec 5 := c.foldl (fun f r => f ||| r.2) 0

def bodyVfold (x : Iss) (sd va op m : Nat) (s : State) : State :=
  let vs := x.laneValues m va
  if op = 9 then
    let c := addChain (fmtRm x.q.fmt) vs
    s.onGroup x fun g => (g.wrScal (x.g.scalNo sd) (BitVec.ofNat 64 ((c.getLast?.map (·.1)).getD 0x80000000))).orFp (chainFlags c)
  else writeScalar x sd (foldInt op vs) s

def execVfold (sd : BitVec 6) (va op : BitVec 7) (m : BitVec 2) (s : State) : Host.Outcome State Fault Refusal :=
  issue (.vfold sd va op m) (fun x => bodyVfold x sd.toNat va.toNat op.toNat m.toNat) s

/-- R90: an inclusive prefix over the executing lanes, ascending; only they are written. -/
def bodyVscan (x : Iss) (vd va m ty : Nat) (s : State) : State :=
  let ex := x.exec m
  let before (l : Nat) : List W32 := ((bitList ex).filter (· ≤ l)).map fun k => x.v (x.op 1 va) 0 k
  let dst := x.op 1 vd
  if ty = 0 then s.onGroup x fun g => g.wrDest ex dst fun _ l => (before l).foldl (· + ·) 0#32
  else
    let c := addChain (fmtRm x.q.fmt) (x.laneValues m va)
    s.onGroup x fun g => (g.wrDest ex dst fun _ l =>
      BitVec.ofNat 32 ((c.map (·.1)).getD ((before l).length - 1) 0x80000000)).orFp (chainFlags c)

def execVscan (vd va : BitVec 7) (m : BitVec 2) (ty : BitVec 1) (s : State) : Host.Outcome State Fault Refusal :=
  issue (.vscan vd va m ty) (fun x => bodyVscan x vd.toNat va.toNat m.toNat ty.toNat) s

def execVbcast (vd : BitVec 7) (ss : BitVec 6) (m : BitVec 2) (s : State) : Host.Outcome State Fault Refusal :=
  issue (.vbcast vd ss m) (fun x => laneWord x m.toNat vd.toNat fun _ => (x.s ss.toNat).setWidth 32) s

/-- ITEM of a lane: 0xFFFF_FFFF if it has never been given one (R91). -/
def Group.item (g : Group) (l : Nat) : W32 := tget 0xFFFFFFFF#32 g.regs.items l

/-- R91: 0 LANEID, 1 QUADID, 2 ITEM. -/
def execVspec (vd va : BitVec 7) (m : BitVec 2) (s : State) : Host.Outcome State Fault Refusal :=
  issue (.vspec vd va m) (fun x => laneWord x m.toNat vd.toNat fun l =>
    match va.toNat with
    | 0 => BitVec.ofNat 32 l
    | 1 => BitVec.ofNat 32 (l / 4)
    | _ => x.g.item l) s

/-- The lane number of VGETL and VPUTL: the field, or the value of a scalar (R92). -/
def laneNo (x : Iss) (byS : BitVec 1) (ln : BitVec 6) : Nat := if byS = 1 then (x.s ln.toNat).toNat else ln.toNat

/-- VGETL (R92); a window of another kind gives its whole operand (R147). -/
def vgetlValue (x : Iss) (o : Loc) (n : Nat) : W64 :=
  match o with
  | .scal k => x.g.rdScal x.free k
  | .mask k => x.g.rdMask x.free k
  | .imm v => v.signExtend 64
  | .zero => 0
  | .lane r => if x.g.width ≤ n ∨ bit x.g.regs.dead n then 0 else (x.g.rdLane x.free r n).setWidth 64

def execVgetl (sd : BitVec 6) (va : BitVec 7) (byS : BitVec 1) (ln : BitVec 6) (s : State) : Host.Outcome State Fault Refusal :=
  issue (.vgetl sd va byS ln)
    (fun x => writeScalar x sd.toNat (vgetlValue x ((x.op 1 va.toNat).getD 0 .zero) (laneNo x byS ln))) s

/-- VPUTL (R92); a window of another kind takes the whole scalar (R147). -/
def vputlWrite (x : Iss) (o : Loc) (n : Nat) (v : W64) (g : Group) : Group :=
  match o with
  | .scal k => g.wrScal k v
  | .mask k => g.wrMask k (BitVec.allOnes 64) v
  | .imm _ => g
  | .zero => g
  | .lane r => if x.g.width ≤ n then g else g.wrLane r n (v.setWidth 32)

def execVputl (vd : BitVec 7) (ss : BitVec 6) (byS : BitVec 1) (ln : BitVec 6) (s : State) : Host.Outcome State Fault Refusal :=
  issue (.vputl vd ss byS ln)
    (fun x s => s.onGroup x (vputlWrite x ((x.op 1 vd.toNat).getD 0 .zero) (laneNo x byS ln) (x.s ss.toNat))) s

/-! ## Masks (R93, R94) -/

/-- A mask operation: only the bits of lanes in the issuing set are written (R93). -/
def maskOp (x : Iss) (md : Nat) (v : W64) (s : State) : State := s.onGroup x fun g => g.wrMask md (quadLanes x.q.quads) v

def execMand (md ma mb : BitVec 3) (s : State) : Host.Outcome State Fault Refusal :=
  issue (.mand md ma mb) (fun x => maskOp x md.toNat (x.g.rdMask x.free ma.toNat &&& x.g.rdMask x.free mb.toNat)) s
def execMor (md ma mb : BitVec 3) (s : State) : Host.Outcome State Fault Refusal :=
  issue (.mor md ma mb) (fun x => maskOp x md.toNat (x.g.rdMask x.free ma.toNat ||| x.g.rdMask x.free mb.toNat)) s
def execMxor (md ma mb : BitVec 3) (s : State) : Host.Outcome State Fault Refusal :=
  issue (.mxor md ma mb) (fun x => maskOp x md.toNat (x.g.rdMask x.free ma.toNat ^^^ x.g.rdMask x.free mb.toNat)) s
def execMandn (md ma mb : BitVec 3) (s : State) : Host.Outcome State Fault Refusal :=
  issue (.mandn md ma mb) (fun x => maskOp x md.toNat (x.g.rdMask x.free ma.toNat &&& ~~~x.g.rdMask x.free mb.toNat)) s
def execMnot (md ma : BitVec 3) (s : State) : Host.Outcome State Fault Refusal :=
  issue (.mnot md ma) (fun x => maskOp x md.toNat (~~~x.g.rdMask x.free ma.toNat)) s
def execMmov (md ma : BitVec 3) (s : State) : Host.Outcome State Fault Refusal :=
  issue (.mmov md ma) (fun x => maskOp x md.toNat (x.g.rdMask x.free ma.toNat)) s

/-- The set B of R94: the issuing set's lanes below the width; in trap mode every lane below the width (R348). -/
def Iss.maskLanes (x : Iss) : W64 := if x.g.trap.mode.isSome then widthLanes x.g.width else x.lanes

/-- Bits [15:0] under COMPAT16 (R94, R158). -/
def compatBits (x : Iss) (v : W64) : W64 := if x.compat then v &&& 0xFFFF#64 else v

def execMget (mn : BitVec 3) (sn : BitVec 6) (s : State) : Host.Outcome State Fault Refusal :=
  issue (.mget mn sn) (fun x => writeScalar x sn.toNat (compatBits x (x.g.rdMask x.free mn.toNat))) s
def execMset (mn : BitVec 3) (sn : BitVec 6) (s : State) : Host.Outcome State Fault Refusal :=
  issue (.mset mn sn) (fun x s => s.onGroup x fun g => g.wrMask mn.toNat (compatBits x x.maskLanes) (x.s sn.toNat)) s
def execMpop (mn : BitVec 3) (sn : BitVec 6) (s : State) : Host.Outcome State Fault Refusal :=
  issue (.mpop mn sn)
    (fun x => writeScalar x sn.toNat (BitVec.ofNat 64 (popCount (x.g.rdMask x.free mn.toNat &&& x.maskLanes)))) s
/-- 64 where no lane of B is set, 16 under COMPAT16 (R94, R158). -/
def execMffs (mn : BitVec 3) (sn : BitVec 6) (s : State) : Host.Outcome State Fault Refusal :=
  issue (.mffs mn sn) (fun x => writeScalar x sn.toNat
    (BitVec.ofNat 64 ((bitList (x.g.rdMask x.free mn.toNat &&& x.maskLanes)).headD (if x.compat then 16 else 64)))) s

end Sys2Proof.Machine
end

