-- ==== Sys2Proof/Machine/Pace.lean ====
section
/-! DEFINITION. Machine/Pace.lean: the pacer's steps and messages (R275 to R278), PDONE, PWAIT, PFIN (R283) and the step-qualified load
(R284 to R288). -/

namespace Sys2Proof.Machine

/-- a > b among steps (R275). -/
def stepGt (a b : W32) : Bool := stepGe a b && a != b

/-- The pacer of a team; a team without one is never asked. -/
def Pacer.none : Pacer := ⟨0, 1, [], [], 0, 0, 0, 0xFFFFFFFF#32, [], 0, [], [], []⟩
def Iss.pacer (x : Iss) : Pacer := x.t.pacer.getD Pacer.none

/-! ## PDONE, PWAIT, PFIN (R283) -/

/-- Quads of a group arrive at the step (R276). -/
def Pacer.arrive (p : Pacer) (gix : Nat) (quads : W16) : Pacer :=
  { p with quads := tset 0 p.quads gix (tget 0 p.quads gix ||| quads) }

def pdoneArrive (x : Iss) (s : State) : State :=
  ((s.modTeam x.t.ref fun t => { t with pacer := t.pacer.map fun p => p.arrive x.g.gix x.q.quads }).settlePacer x.t.ref).advance x

/-- PDONE: the group's earlier accesses are performed, with the release action; quads that have arrived at this step
wait for the next, as all have once the team has finished it (DEDUCED, assumption 48). -/
def bodyPdone (x : Iss) (s : State) : State :=
  let p := x.pacer
  let m := x.mark s
  match x.q.hold.map Hold.kind with
  | some (.pdone step) => if p.step.toNat = step then s.hold x (.pdone step) true else pdoneArrive x s
  | _ =>
    if !(x.g.drained m Flight.accesses) then s.hold x (.drain m) false else
    let s := s.releaseL1 x.t.core x.l.tid
    if p.fin = p.step ∨ x.q.quads &&& tget 0 p.quads x.g.gix ≠ 0 then s.hold x (.pdone p.step.toNat) true else pdoneArrive x s

def execPdone (s : State) : Host.Outcome State Fault Refusal := issue .pdone bodyPdone s

/-- PWAIT: held until STEP > v, then an acquire at dev scope (R279). -/
def bodyPwait (x : Iss) (v : W32) (s : State) : State :=
  if stepGt x.pacer.step v then (s.acquireL1 x.t.core x.l.tid).advance x else s.hold x (.pwait v.toNat) true

def execPwait (sa : BitVec 6) (s : State) : Host.Outcome State Fault Refusal :=
  issue (.pwait sa) (fun x => bodyPwait x ((x.s sa.toNat).setWidth 32)) s

/-- PFIN: the pacer's copy of a neighbour's FIN, all ones beyond the list. -/
def bodyPfin (x : Iss) (sd : Nat) (v : W64) (s : State) : State :=
  let list := if bit v 3 then x.pacer.down else x.pacer.up
  match list[bits v 2 0]? with
  | none => s.onGroup x fun g => g.wrScal (x.g.scalNo sd) (BitVec.allOnes 64)
  | some i => (s.acquireL1 x.t.core x.l.tid).onGroup x fun g => g.wrScal (x.g.scalNo sd) ((x.pacer.finOf i).setWidth 64)

def execPfin (sd sa : BitVec 6) (s : State) : Host.Outcome State Fault Refusal :=
  issue (.pfin sd sa) (fun x => bodyPfin x sd.toNat (x.s sa.toNat)) s

/-! ## Steps and messages (R276 to R278) -/

/-- The conditions of R277 on the pacer's own copies. -/
def Pacer.mayAdvance (p : Pacer) : Bool :=
  p.fin == p.step && (p.up.all fun u => stepGe (p.finOf u) p.step)
    && p.down.all fun d => stepGe (p.finOf d) (p.step + 1 - BitVec.ofNat 32 p.window)

/-- STEP_ADVANCE (R277): not once every group has retired (R276), nor while the team is halted or its core is suspended (R290) (DEDUCED,
assumption 50). -/
def advanceDue (s : State) (team : Nat) : Bool :=
  match s.team? team with
  | none => false
  | some t => t.state = .running && !s.lodge.drain && !s.suspended t.core && (s.groupsOf team).any (fun g => g.run ≠ .retired)
      && match t.pacer with | some p => p.mayAdvance | none => false

def execStepAdvance (team : Nat) (s : State) : Host.Outcome State Fault Refusal :=
  event (advanceDue s team) (s.modTeam team fun t => { t with pacer := t.pacer.map fun p => { p with step := p.step + 1 } }) s

/-- FIN_MESSAGE (R278): the oldest message of a sender to a team arrives. -/
def Pacer.hear (p : Pacer) (src fin : Nat) : Pacer := { p with copies := tset 0 p.copies src ((fin + 1) % 2 ^ 32) }

def bodyFinMessage (team src : Nat) (s : State) : State :=
  match s.finMsgs.find? fun m => m.1 = team ∧ m.2.1 = src with
  | none => s
  | some m =>
    let s : State := { s with finMsgs := s.finMsgs.erase m }
    s.modTeam team fun t => { t with pacer := t.pacer.map fun (p : Pacer) => p.hear src m.2.2 }

def execFinMessage (team src : Nat) (s : State) : Host.Outcome State Fault Refusal :=
  event (!s.lodge.drain && s.finMsgs.any fun m => m.1 = team && m.2.1 = src) (bodyFinMessage team src s) s

/-! ## LDP (R284 to R286) -/

/-- Fields of a step word (R284). -/
def ldpSize (w : W64) : Nat := bits w 43 42
def ldpNbr (w : W64) : Nat := bits w 34 32
def ldpStep (w : W64) : W32 := w.setWidth 32
def ldpRegs (w : W64) : Nat := 2 ^ ldpSize w

/-- The register that vd names is aligned for the size (R25, R147). -/
def ldpAligned (x : Iss) (vd : Nat) (w : W64) : Bool := (x.g.span 1 (ldpRegs w) vd).isSome

/-- An aligned destination whose registers are not all the group's is undefined (R26, R285 check 1); with EXEC empty nothing is checked. -/
def ldpUndef (vd ss m : Nat) (x : Iss) (_ : State) : Bool :=
  let w := x.s ss
  decide (x.exec m ≠ 0) && decide (ldpSize w ≠ 3) && ldpAligned x vd w && (match x.g.span (ldpRegs w) (ldpRegs w) vd with
    | none => true
    | some os => os.any fun o => match o with | .scal _ => true | _ => false)

/-- The team at a pace index of a launch. -/
def State.paceTeam (s : State) (launch idx : Nat) : Option Team := s.teams.find? fun t => t.launch = launch ∧ t.idx = idx

/-- Checks 2 to 5 (R285): cause, address, detail. -/
def ldpCheck (x : Iss) (s : State) (vd : Nat) (w : W64) (offs : List (Nat × Nat)) : Option (Nat × Nat × W64) :=
  let n := 4 * ldpRegs w
  if bits w 63 44 ≠ 0 ∨ bits w 41 35 ≠ 0 ∨ ldpSize w = 3 ∨ !ldpAligned x vd w then some (tcLayout, 0, 14) else
  match (x.pacer.up[ldpNbr w]?).bind (s.paceTeam x.l.ref) with
  | none => some (tcLayout, 0, 15)
  | some t =>
    let slot := (t.pacer.getD Pacer.none).sbslot
    if slot = 0 then some (tcLayout, 0, 15) else
    match offs.find? fun o => slot < o.2 + n with
    | some (l, o) => some (tcPerm, o, laneDetail l 3)
    | none => (offs.find? fun o => o.2 % n ≠ 0).map fun (l, o) => (tcMisalign, o, laneDetail l 0)

/-- LDP issues: its offsets are those of issue (R284). -/
def bodyLdp (x : Iss) (i : Instr) (vd va ss la m : Nat) (s : State) : State :=
  let ex := x.exec m
  let w := x.s ss
  let offs := (bitList ex).map fun l => (l, (x.v (x.op 1 va) 0 l).toNat)
  if ex = 0 then s.advance x else
  match ldpCheck x s vd w offs with
  | some (cause, addr, detail) => s.raise x cause (BitVec.ofNat 64 addr) detail
  | none =>
    let (file, first, n) := dstOf (x.op (ldpRegs w) vd)
    s.fly x { x.flight i la 6 with
      exec := ex, opnds := [w], file := file, dst := first, ndst := n
      accs := offs.map fun (l, o) => ⟨l, .matrix 15 o, 0, [], 0, 0, true⟩ } ex

def execLdp (vd va : BitVec 7) (ss : BitVec 5) (la : BitVec 4) (m : BitVec 2) (s : State) : Host.Outcome State Fault Refusal :=
  issueIf (.ldp vd va ss la m) (ldpUndef vd.toNat ss.toNat m.toNat) (fun _ _ => [])
    (fun x => bodyLdp x (.ldp vd va ss la m) vd.toNat va.toNat ss.toNat la.toNat m.toNat) s

def isLdp : Instr → Bool
  | .ldp .. => true
  | _ => false

/-- An LDP in flight with what it reads: consumer's pacer, producer, step word. -/
def State.ldpAt (s : State) (grp fid : Nat) : Option (Flight × Team × Launch × Pacer × Team × W64) :=
  match s.flightAt grp fid with
  | none => none
  | some (_, f, t, l) =>
    let w := f.opnds.headD 0
    match t.pacer with
    | none => none
    | some p => ((p.up[ldpNbr w]?).bind (s.paceTeam l.ref)).map fun q => (f, t, l, p, q, w)

/-- LDP_PORT_READ is due once the pacer's copy of the producer's FIN has reached the step (R277, R286), unless the producer is saved
(R290). -/
def ldpDue (s : State) (grp fid : Nat) : Bool :=
  match s.ldpAt grp fid with
  | some (f, _, _, p, q, w) => isLdp f.instr && q.state ≠ .saved && stepGe (p.finOf (p.up.getD (ldpNbr w) 0)) (ldpStep w)
  | none => false

/-- A byte of a slot; one written out of its step is undefined (R280). -/
def Team.slotByte (t : Team) (p : Pacer) (free off : Nat) : Byte :=
  if tget 0 p.loose off = 0 then t.spad.get off else (freeVal free off).setWidth 8

/-- LDP_PORT_READ (R286): STALE for an ended producer or an overtaken slot; otherwise every lane from one version of the slot (R288), and
an acquire at dev scope (R279). -/
def bodyLdpRead (grp fid : Nat) (s : State) : State :=
  match s.ldpAt grp fid with
  | none => s
  | some (f, t, l, _, q, w) =>
    let p := q.pacer.getD Pacer.none
    let n := ldpStep w
    let stale (ended : Bool) : State :=
      s.settleFlight grp f true (f.left.foldl (fun (e : Ends) a => e.add a (.trap (tcStale, n.setWidth 64,
        BitVec.ofNat 64 (ldpNbr w + if ended then 8 else 0)))) Ends.none)
    if q.state = .ended then stale true
    else if stepGe p.step (n + BitVec.ofNat 32 p.window) then stale false
    else
      let base := p.sbbase + 64 + n.toNat % p.window * p.sbslot
      let size := 4 * ldpRegs w
      let offOf (a : LaneAcc) : Nat := match a.target with | .matrix _ o => base + o | _ => base
      let (s, e) := f.left.foldl (fun (acc : State × Ends) a =>
        match acc.1.spadBad q (offOf a) size with
        | some pl => (acc.1, acc.2.add a (.dead 2 pl))
        | none =>
          let bs := (List.range size).map fun i => q.slotByte p s.free (offOf a + i)
          (acc.1.modGroup grp fun g => g.landWords f 0 a.lane (bytesWords bs), acc.2.add a (.ok bs))) (s, Ends.none)
      ((s.settleFlight grp f true e).acquireL1 t.core l.tid)

def execLdpPortRead (grp fid : Nat) (s : State) : Host.Outcome State Fault Refusal :=
  event (ldpDue s grp fid) (bodyLdpRead grp fid s) s

end Sys2Proof.Machine
end

