-- ==== Sys2Proof/Machine/Transfer.lean ====
section
/-! DEFINITION. Machine/Transfer.lean: the block-transfer channels (R266 to R269): doorbells from device and host, chains of templates,
and the completion pair. -/

namespace Sys2Proof.Machine

/-! ## Addresses of a channel's context (R267) -/

/-- Where a channel's access at a VA goes: TRANSLATE where no segment takes it (R252). -/
def Ctx.xferTarget (c : Ctx) (va : Nat) (write : Bool) : Except Nat Target :=
  if 2 ^ 48 ≤ va then .error crTranslate else
  match c.place va with
  | some (i, t) =>
    if !bit (c.seg i 3) (if write then 1 else 0) then .error crTranslate else
    match t with
    | .glob .. | .host .. | .fabric .. => .ok t
    | _ => .error crTranslate
  | none => .error crTranslate

/-- A walk's failure as a reason of R252. -/
def xferReason (e : WalkErr) : Nat := match e with | .abort _ _ => crAbort | .fail _ _ => crTranslate

/-- Bytes read at dev scope, or at sys scope through a window (R269). -/
def State.xferRead (s : State) (tid : Nat) (c : Ctx) (va n : Nat) : State × Except Nat (List Byte) :=
  let dev (tia : Nat) (host : Bool) : State × Except Nat (List Byte) :=
    match s.devRead tid tia n host with
    | (s, .ok bs) => (s, .ok bs)
    | (s, .error (.abort u p)) => (s.detected u p 8 0, .error crAbort)
    | (s, .error e) => (s, .error (xferReason e))
  match c.xferTarget va false with
  | .error k => (s, .error k)
  | .ok (.glob _ tia) => dev tia false
  | .ok (.host _ tia) => dev tia true
  | .ok _ =>
    ({ s with free := s.free + 1 }, match s.fabricErr with
      | some e => .error (xferReason e)
      | none => .ok (fabricBytes s.free n))

/-- Bytes written at the lines' home slices: CODE and VIEW by the leaf (R252, R269). -/
def State.xferWrite (s : State) (tid : Nat) (c : Ctx) (va : Nat) (bs : List Byte) : State × Except Nat Unit :=
  let dev (s : State) (tia : Nat) (host : Bool) : State × Except Nat Unit :=
    match s.devWrite tid tia (bs.map some) host with
    | (s, .ok _) => (s, .ok ())
    | (s, .error (.abort u p)) => (s.detected u p 8 0, .error crAbort)
    | (s, .error e) => (s, .error (xferReason e))
  match c.xferTarget va true with
  | .error k => (s, .error k)
  | .ok (.glob _ tia) =>
    (match s.translate tid tia with
    | (s, .ok leaf) => if leaf.kind = 1 then (s, .error crCode) else if leaf.kind = 3 then (s, .error crView) else dev s tia false
    | (s, .error (.abort u p)) => (s.detected u p 8 0, .error crAbort)
    | (s, .error e) => (s, .error (xferReason e)))
  | .ok (.host _ tia) => dev s tia true
  | .ok (.fabric _ pkg tia) =>
    match s.fabricErr with
    | some e => ({ s with free := s.free + 1 }, .error (xferReason e))
    | none => ({ s with free := s.free + 1, fabricOut := s.fabricOut ++ [(pkg, tia, bs)] }, .ok ())
  | .ok _ => (s, .error crTranslate)

/-- An aligned 8-byte word. -/
def State.xferWord (s : State) (tid : Nat) (c : Ctx) (va : Nat) : State × Except Nat W64 :=
  match s.xferRead tid c va 8 with
  | (s, .ok bs) => (s, .ok (BitVec.ofNat 64 (leNat bs)))
  | (s, .error k) => (s, .error k)

/-- Several words one after another. -/
def State.xferWords (s : State) (tid : Nat) (c : Ctx) : List Nat → State × Except Nat (List W64)
  | [] => (s, .ok [])
  | a :: as =>
    match s.xferWord tid c a with
    | (s, .error k) => (s, .error k)
    | (s, .ok w) =>
      match State.xferWords s tid c as with
      | (s, .error k) => (s, .error k)
      | (s, .ok ws) => (s, .ok (w :: ws))

/-! ## Templates and chains (R268, R269) -/

/-- The destination in aligned 64-byte lines: offset and bytes. -/
def xferPieces (dst n : Nat) : List (Nat × Nat) :=
  ((List.range (n / 64 + 2)).map fun i =>
    let lo := max dst ((dst / 64 + i) * 64)
    let hi := min (dst + n) ((dst / 64 + i + 1) * 64)
    (lo - dst, hi - lo)).filter fun p => p.2 ≠ 0

/-- The source of one line, word by word; FILL takes its pattern. -/
def State.xferSource (s : State) (tid : Nat) (c : Ctx) (pattern : Option W64) (src n : Nat) : State × Except Nat (List Byte) :=
  match pattern with
  | some p => (s, .ok ((List.replicate (n / 8) (leBytes 8 p.toNat)).flatten))
  | none =>
    match s.xferWords tid c ((List.range (n / 8)).map fun i => src + 8 * i) with
    | (s, .ok ws) => (s, .ok (ws.flatMap fun w => leBytes 8 w.toNat))
    | (s, .error k) => (s, .error k)

/-- Fields of a binding (R267). -/
def Binding.cid (b : Binding) : Nat := bits b.word0 55 48
def Binding.tbase (b : Binding) : Nat := bits b.word0 47 0
def Binding.tcount (b : Binding) : Nat := bits b.word1 63 48
def Binding.pbase (b : Binding) : Nat := bits b.word1 47 0
def Binding.cword (b : Binding) : Nat := bits b.word2 47 0

/-- A template read (R268) and its transfer made ready, or the reason why not. -/
def State.readTemplate (s : State) (tid : Nat) (b : Binding) (c : Ctx) (k : Chain) : State × Except Nat Chain :=
  if b.tcount ≤ k.idx then (s, .error crTemplate) else
  match s.xferWords tid c ((List.range 4).map fun i => b.tbase + 32 * k.idx + 8 * i) with
  | (s, .error e) => (s, .error e)
  | (s, .ok ws) =>
    let w0 := ws.getD 0 0
    let kind := bits w0 3 0
    if bits w0 63 56 ≠ 0 ∨ bits w0 15 4 ≠ 0 ∨ ws.getD 2 0 ≠ 0 ∨ ws.getD 3 0 ≠ 0 ∨ (kind ≠ 1 ∧ kind ≠ 2) then (s, .error crTemplate) else
    let param (j : Nat) : Nat := b.pbase + k.poff + 8 * j
    match s.xferWords tid c ([param (bits w0 55 48), param (bits w0 47 40)] ++ if kind = 1 then [param (bits w0 39 32)] else []) with
    | (s, .error e) => (s, .error e)
    | (s, .ok ps) =>
      let len := (ps.getD 0 0).toNat
      let dst := (ps.getD 1 0).toNat
      let src := (ps.getD 2 0).toNat
      if len % 8 ≠ 0 ∨ dst % 8 ≠ 0 ∨ src % 8 ≠ 0 then (s, .error crAlign) else
      (s, .ok { k with
        begun := k.begun + 1, loaded := true, pattern := if kind = 2 then some (ws.getD 1 0) else none
        src := src, dst := dst, next := bits w0 31 16, lines := xferPieces dst len })

/-- One line of a transfer, read as one read and written whole (R269, R311). -/
def State.moveLine (s : State) (tid : Nat) (c : Ctx) (k : Chain) (p : Nat × Nat) : State × Except Nat Unit :=
  match s.xferSource tid c k.pattern (k.src + p.1) p.2 with
  | (s, .error e) => (s, .error e)
  | (s, .ok bs) => s.xferWrite tid c (k.dst + p.1) bs

def State.channel (s : State) (tid ch : Nat) : Channel := tget Channel.reset (s.tenant tid).chans ch
def State.modChannel (s : State) (tid ch : Nat) (f : Channel → Channel) : State :=
  s.modTenant tid fun t => { t with chans := tset Channel.reset t.chans ch (f (tget Channel.reset t.chans ch)) }
def State.binding (s : State) (tid ch : Nat) : Binding := tget Binding.reset (s.tenant tid).binds ch

/-- The context of a channel; a CID of another tenant gives none of its segments. -/
def State.xferCtx (s : State) (tid : Nat) (b : Binding) : Ctx := if b.cid / 4 = tid then s.ctx b.cid else Ctx.reset

/-- The chain has ended, with a reason and the template that failed (R269). -/
def State.endChain (s : State) (tid ch reason idx : Nat) : State :=
  s.modChannel tid ch fun c => { c with chain := none, result := some (reason, idx) }

/-- A chain goes on by one step, under the binding that stood when its doorbell was taken (R269, R384): a template is read, at most 64 of them, one of the lines left is moved, which of them being open
(R311), or the next template's turn comes. A failure stops it, and lines already written stay written. -/
def State.chainStep (s : State) (tid ch : Nat) (k : Chain) (line : Nat) : State :=
  let b := (s.channel tid ch).bind
  let c := s.xferCtx tid b
  let keep (s : State) (k : Chain) : State := s.modChannel tid ch fun c => { c with chain := some k }
  if !k.loaded then
    if 64 ≤ k.begun then s.endChain tid ch crChain k.idx else
    match s.readTemplate tid b c k with
    | (s, .ok k) => keep s k
    | (s, .error e) => s.endChain tid ch e k.idx
  else if k.lines = [] then
    if k.next = 0xFFFF then s.endChain tid ch 0 0 else keep s { k with idx := k.next, loaded := false }
  else
    let i := line % k.lines.length
    match s.moveLine tid c k (k.lines.getD i (0, 0)) with
    | (s, .ok _) => keep s { k with lines := k.lines.eraseIdx i }
    | (s, .error e) => s.endChain tid ch e k.idx

/-- BLOCK_TRANSFER_CHAIN (R269): the chain that the channel runs goes on; a free channel takes its oldest doorbell. -/
def bodyChain (tid ch line : Nat) (s : State) : State :=
  match (s.channel tid ch).chain, (s.channel tid ch).queue with
  | some k, _ => s.chainStep tid ch k line
  | none, [] => s
  | none, d :: rest =>
    let b := s.binding tid ch
    let s := s.modChannel tid ch fun c => { c with queue := rest, busy := true, bind := b }
    if bits d 63 48 ≠ 0 ∨ bits d 47 16 % 8 ≠ 0 then s.endChain tid ch crTemplate (bits d 15 0)
    else s.modChannel tid ch fun c => { c with chain := some ⟨bits d 47 16, bits d 15 0, 0, false, none, 0, 0, 0, []⟩ }

/-- A channel has a chain to go on with, or is free and has a doorbell. -/
def Channel.chainDue (c : Channel) : Bool := c.chain.isSome || (!c.queue.isEmpty && !c.busy)

def execBlockTransferChain (tid : Nat) (move : ChainStep) (s : State) : Host.Outcome State Fault Refusal :=
  event (!s.lodge.drain && (s.tenant tid).live && (s.channel tid move.ch).chainDue) (bodyChain tid move.ch move.line s) s

/-- BLOCK_TRANSFER_COMPLETE (R269): STATUS, then the sequence number as a release store, then DONE. -/
def bodyTransferDone (tid ch : Nat) (s : State) : State :=
  let c := s.channel tid ch
  let b := c.bind
  let k := s.xferCtx tid b
  let (reason, idx) := c.result.getD (0, 0)
  let n := c.finished + 1
  let s := (s.xferWrite tid k (b.cword + 8) (leBytes 8 (reason * 65536 + idx))).1
  let s := (s.xferWrite tid k b.cword (leBytes 8 n.toNat)).1
  s.modChannel tid ch fun c => { c with finished := n, busy := false, result := none }

def execBlockTransferComplete (tid ch : Nat) (s : State) : Host.Outcome State Fault Refusal :=
  event (!s.lodge.drain && (s.channel tid ch).result.isSome) (bodyTransferDone tid ch s) s

/-! ## Doorbells (R266, R267) -/

/-- A doorbell taken into a channel's queue: it has sequence ISSUED + 1. -/
def Channel.ring (c : Channel) (data : W64) : Channel := { c with issued := c.issued + 1, queue := c.queue ++ [data] }

/-- The channel and the data of a store to an aperture in flight. -/
def Flight.doorbell (f : Flight) : Option (Nat × W64) :=
  match f.left with
  | a :: _ => match a.target with
    | .aperture _ off => some (off / 4096, BitVec.ofNat 64 (leNat (wordsBytes a.data)))
    | _ => none
  | [] => none

/-- The store's turn has come and the queue has room. -/
def doorbellDue (s : State) (grp fid : Nat) : Bool :=
  accessDue s grp fid isStore && match s.flightAt grp fid with
    | some (_, f, _, l) => match f.doorbell with
      | some (ch, _) => decide ((s.channel l.tid ch).queue.length < Config.channelQueueMax)
      | none => false
    | none => false

/-- APERTURE_DOORBELL_ACCEPT (R266): a release at dev scope for the group's earlier accesses, one doorbell, and the store is complete. -/
def bodyDoorbell (grp fid : Nat) (s : State) : State :=
  match s.flightAt grp fid with
  | none => s
  | some (g, f, t, l) =>
    if s.mustReplay g f l.tid then s.toReplay grp f else
    match f.doorbell with
    | none => s
    | some (ch, d) =>
      let s := (s.releaseL1 t.core l.tid).modChannel l.tid ch fun c => c.ring d
      s.completeAccess g fid

def execApertureDoorbellAccept (grp fid : Nat) (s : State) : Host.Outcome State Fault Refusal :=
  event (doorbellDue s grp fid) (bodyDoorbell grp fid s) s

/-- HOST_DOORBELL (R267): a write of a binding's word3; a full queue drops it. -/
def execHostDoorbell (tid ch : Nat) (data : W64) (s : State) : Host.Outcome State Fault Refusal :=
  hostEvent tid (decide (ch < (s.tenant tid).channels)
      && decide ((s.channel tid ch).queue.length < Config.channelQueueMax))
    (s.modChannel tid ch fun c => c.ring data) s

end Sys2Proof.Machine
end

