-- ==== Sys2Proof/Machine/Frames.lean ====
section
/-! DEFINITION. Machine/Frames.lean: typed frames (R313 to R315), admission of table entries (R316 to R321), retype (R323, R324), harvest
(R310, R329), the frame instructions (R326 to R330), and the tenant's root, fault queue and segments as the host writes them (R294, R296,
R308). -/

namespace Sys2Proof.Machine

/-! ## Descriptors (R313) -/

/-- Frame types (R313). -/
def ftFree : Nat := 0
def ftData : Nat := 1
def ftCode : Nat := 2
def ftT1 : Nat := 3
def ftT2 : Nat := 4
def ftT3 : Nat := 5
def ftSys : Nat := 7

/-- T1, T2 or T3. -/
def isTable (ty : Nat) : Bool := decide (3 ≤ ty) && decide (ty ≤ 5)

/-- word0 of a descriptor. -/
def Frame.word0 (f : Frame) : W64 :=
  BitVec.ofNat 64 (f.ftype % 16 * 2 ^ 60 + f.owner % 64 * 2 ^ 54 + f.use % 65536 * 2 ^ 38 + f.pin % 65536 * 2 ^ 22
    + (if f.dirty then 2 ^ 21 else 0) + (if f.damaged then 2 ^ 20 else 0) + (if f.retyping then 2 ^ 19 else 0) + f.gen.toNat)

/-- The listed bytes of a machine frame's table entries that may be nonzero: indexes of entries, each once. -/
def State.entryIdx (s : State) (frame : Nat) : List Nat :=
  (s.dram.filterMap fun c => if c.1 / 65536 = frame then some (c.1 % 65536 / 8) else none).eraseDups

/-- NVALID: entries of a table frame with V = 1 (R313). -/
def State.nvalid (s : State) (frame : Nat) : Nat := ((s.entryIdx frame).filter fun i => pteV (s.pte frame i)).length

/-- A frame operand resolved: a machine frame of the tenant (R326). -/
def State.resolve (s : State) (tid : Nat) (v : W64) : Option Nat :=
  if bits v 63 22 ≠ 0 then none else
  match s.allotted tid (bits v 21 0) with
  | .ok (some (f, false)) => if (s.frame f).owner = tid then some f else none
  | _ => none

/-- Resolving a frame operand reads an allotment entry that fails its check (R297, R374). -/
def State.operandFails (s : State) (tid : Nat) (v : W64) : Option (Nat × Nat) :=
  if bits v 63 22 ≠ 0 then none else
  match s.allotted tid (bits v 21 0) with
  | .error (.abort u p) => some (u, p)
  | _ => none

/-! ## Lines of a frame (R301, R302, R310) -/

/-- The dirty bytes of every L1 for a frame's lines written back and their WP revoked (R310). -/
def State.frameRevoke (s : State) (f : Nat) : State :=
  s.cores.foldl (fun s (c, k) =>
    ((k.l1.filter fun l => l.stamp = f).map (·.gline)).foldl (fun s g =>
      (s.l1Clean c g).modCore c fun k => { k with l1 := k.l1.map fun l => if l.gline = g then { l with wp := false } else l }) s) s

/-- Every L2 line stamped with the frame written back and dropped (R310, R324). -/
def State.frameDrop (s : State) (f : Nat) : State :=
  ((s.l2.filter fun l => l.stamp = f).map (·.gline)).foldl (fun s g => s.l2Drop g) s

/-! ## Harvest (R310, R329) -/

/-- One frame harvested: the dirty bit is reported and cleared, its bytes go to DRAM, and its lines leave L2. -/
def State.harvestFrame (s : State) (f : Nat) : State × Bool :=
  let d := (s.frame f).dirty
  ((s.modFrame f fun k => { k with dirty := false }).frameRevoke f |>.frameDrop f, d)

/-- n frames from a TFN on: bit i for a dirty frame; what is unresolved or neither DATA nor CODE reports 0 (R329). -/
def State.harvest (s : State) (tid : Nat) (first : W64) (n : Nat) : State × W64 :=
  (List.range n).foldl (fun (acc : State × W64) i =>
    match acc.1.resolve tid (first + BitVec.ofNat 64 i) with
    | none => acc
    | some f =>
      if (acc.1.frame f).ftype = ftData ∨ (acc.1.frame f).ftype = ftCode then
        let (s, d) := acc.1.harvestFrame f
        (s, if d then acc.2 ||| (1#64 <<< i) else acc.2)
      else acc) (s, 0)

/-! ## Retype (R323, R324, R327) -/

/-- The pairs of R323 (DEDUCED, assumption 90). -/
def retypePair (old new : Nat) (damaged : Bool) : Bool :=
  (old == 0 && decide (1 ≤ new) && decide (new ≤ 5)) || (old == 1 && (new == 0 || new == 2)) || (old == 2 && (new == 0 || new == 1))
    || (isTable old && new == 0) || (damaged && new == 0 && decide (1 ≤ old) && decide (old ≤ 5))

/-- The checks of R324 in their order: the status of R327. -/
def State.retypeStatus (s : State) (f : Nat) (new : W64) : Nat :=
  let d := s.frame f
  if bits new 63 4 ≠ 0 ∨ !retypePair d.ftype (bits new 3 0) d.damaged then 4
  else if d.damaged ∧ bits new 3 0 ≠ 0 then 6
  else if d.use ≠ 0 then 1
  else if d.pin ≠ 0 then 2
  else if isTable d.ftype ∧ s.nvalid f ≠ 0 then 3
  else 0

/-- The retype itself: the frame's lines leave L2, the frame-TLBs and the shared instruction levels, and the instruction caches of the dies
whose shared level holds the frame (R176, R324, R325); a table type zeroes the frame; the type changes and GEN counts. -/
def State.retypeFrame (s : State) (f new : Nat) : State :=
  let s := s.frameDrop f
  let dies := (s.sil.filter fun l => l.mline / 512 = f).map (·.die)
  let s := { s with
    tlb := s.tlb.filter fun e => e.frame ≠ f ∨ e.host
    sil := s.sil.filter fun l => l.mline / 512 ≠ f
    cores := s.cores.map fun (c, k) => (c, if dies.contains (dieOf c) then { k with ic := k.ic.filter fun l => l.frame ≠ f } else k) }
  let s : State := if isTable new then
      { s with dram := s.dram.filter (fun c => c.1 / 65536 ≠ f), bad := s.bad.filter (fun b => b.1 ≠ 10 ∨ b.2 / 65536 ≠ f) }
    else s
  s.modFrame f fun d => { d with ftype := new, gen := d.gen + 1 }

/-- FRETYPE and RETYPE: the result word (R327). -/
def State.retype (s : State) (tid : Nat) (a new : W64) : State × W64 :=
  match s.resolve tid a with
  | none => (s, 5)
  | some f =>
    let st := s.retypeStatus f new
    let t := if st = 0 then s.retypeFrame f (bits new 3 0) else s
    (t, BitVec.ofNat 64 (st + (s.frame f).use % 65536 * 2 ^ 32 + (t.frame f).gen.toNat * 2 ^ 48))

/-- FINFO and INFO (R328). -/
def State.finfo (s : State) (tid : Nat) (a : W64) : W64 :=
  match s.resolve tid a with
  | none => BitVec.allOnes 64
  | some f => (s.frame f).word0

/-! ## Admission (R316 to R321) -/

/-- R318: table type, kind and target type agree. -/
def kindPairs (table kind target : Nat) : Bool :=
  (table == ftT3 && kind == 2 && target == ftT2) || (table == ftT2 && kind == 2 && target == ftT1)
    || (table == ftT1 && kind == 0 && target == ftData) || (table == ftT1 && kind == 1 && target == ftCode)
    || (table == ftT1 && kind == 3 && isTable target)

/-- What an entry names (R297): nothing where it is invalid or the allotment is gone; a frame, and whether the host has it. -/
def State.names (s : State) (tid : Nat) (e : W64) : Except WalkErr (Option (Nat × Bool)) :=
  if pteV e then s.allotted tid (pteTfn e) else .ok none

/-- The machine frame that an entry names; none for an invalid entry, for a host frame and where the allotment is gone. -/
def State.target (s : State) (tid : Nat) (e : W64) : Option Nat :=
  match s.names tid e with
  | .ok (some (f, false)) => some f
  | _ => none

/-- What an admission reads fails its check: the line of the entry, or an allotment entry that the new one or the old one leads to (R373,
R376). -/
def State.admitFails (s : State) (tid table idx : Nat) (new : W64) : Option (Nat × Nat) :=
  match s.dramFails (table * 65536 + 8 * idx), s.names tid new, s.names tid (s.pte table idx) with
  | some (.abort u p), _, _ => some (u, p)
  | _, .error (.abort u p), _ => some (u, p)
  | _, _, .error (.abort u p) => some (u, p)
  | _, _, _ => none

/-- Checks 2 to 10 of R317 on a new entry; the reason of the first that fails. A host frame counts as DATA of the tenant, with no count
(R312, R314). -/
def State.admitRefusal (s : State) (tid table idx : Nat) (new : W64) : Option Nat :=
  let old := s.pte table idx
  let v := pteV new
  let tgt : Option (Nat × Bool) := match s.names tid new with | .ok k => k | .error _ => none
  let host : Bool := match tgt with | some (_, h) => h | none => false
  let f := (tgt.map (·.1)).getD 0
  let d := s.frame f
  if bits new 63 34 ≠ 0 ∨ bits new 11 5 ≠ 0 ∨ (!v ∧ new ≠ 0) then some 2
  else if v ∧ (s.frame table).ftype = ftT3 ∧ 64 ≤ idx then some 3
  else if v ∧ tgt = none then some 4
  else if v ∧ !host ∧ d.owner ≠ tid then some 5
  else if v ∧ !kindPairs (s.frame table).ftype (pteKind new) (if host then ftData else d.ftype) then some 6
  else if v ∧ bit new 3 ∧ pteKind new ≠ 0 then some 7
  else if v ∧ !host ∧ d.damaged then some 8
  else if (match s.target tid old with | some k => decide ((s.frame k).pin ≠ 0) | none => false)
      && (!v || pteTfn new != pteTfn old || pteKind new != pteKind old || (bit old 3 && !bit new 3)) then some 9
  else if v ∧ !host ∧ s.target tid old ≠ some f ∧ 65535 ≤ d.use then some 10
  else none

/-- Pages of the tenant that some frame-TLB entry or cached line stands for. -/
def State.cachedPages (s : State) (tid : Nat) : List Nat :=
  ((s.tlb.filterMap fun e => if e.tid = tid then some e.page else none)
    ++ (s.l2.filterMap fun l => if glineTid l.gline = tid then some (glineTia l.gline / 65536) else none)
    ++ s.cores.flatMap fun (_, k) => k.l1.filterMap fun l => if glineTid l.gline = tid then some (glineTia l.gline / 65536) else none).eraseDups

/-- Every trace of a tenant's pages leaves the caches: dirty bytes are written back first (R319). -/
def State.shootdown (s : State) (tid : Nat) (pages : List Nat) : State :=
  let mine (g : Nat) : Bool := glineTid g == tid && pages.contains (glineTia g / 65536)
  let s := s.cores.foldl (fun s (c, k) => ((k.l1.filter fun l => mine l.gline).map (·.gline)).foldl (fun s g => s.l1Drop c g) s) s
  let s := ((s.l2.filter fun l => mine l.gline).map (·.gline)).foldl (fun s g => s.l2Drop g) s
  { s with tlb := s.tlb.filter fun e => e.tid ≠ tid ∨ !pages.contains e.page }

/-- Entry writes (R316: the one copy of a table line). -/
def State.pteWrite (s : State) (table idx : Nat) (e : W64) : State :=
  { s with dram := s.dram.write (table * 65536 + 8 * idx) (leBytes 8 e.toNat) }

/-- No admission to the entry's line is unfinished (R319). -/
def State.lineFree (s : State) (table idx : Nat) : Bool := s.adms.all fun a => a.frame ≠ table || a.index / 16 ≠ idx / 16

/-- The pages of an old entry's spans that have a trace in some cache. -/
def State.spanPages (s : State) (tid table idx : Nat) : List Nat :=
  (s.cachedPages tid).filter fun p => s.passes tid (p * 65536) table idx

/-- An entry that has passed its checks is written, with the count of its target (R319); the acknowledgement follows (DEDUCED, assumption 28). -/
def State.admitEntry (s : State) (tid table idx : Nat) (new : W64) (via : Option Nat) (src : Option (Nat × Nat)) (lane : Nat) : State :=
  let old := s.pte table idx
  let pages := if pteV old then s.spanPages tid table idx else []
  let named := s.target tid new
  let gone := s.target tid old
  let s := s.pteWrite table idx new
  let s := match named with | some f => s.modFrame f fun d => { d with use := d.use + 1 } | none => s
  { s with adms := s.adms ++ [(⟨s.next, tid, table, idx, old, new, pages, via, src, lane, gone⟩ : Admission)] }.fresh

/-- A store to a table entry is a lane's, or a scalar one. -/
def isVector (i : Instr) : Bool := match i with | .sst .. => false | _ => true

/-- The storing flight's lane is done (R319: the store completes here, R22). -/
def ackLane (s : State) (grp fid lane : Nat) : State :=
  match s.flight? grp fid with
  | none => s
  | some (_, f) =>
    match f.left.find? fun a => a.lane = lane with
    | some a => s.settleFlight grp f (isVector f.instr) (Ends.none.add a (.ok []))
    | none => s

/-- The lanes of a store that are left and go to admission, ascending (R316). -/
def State.admitLanes (s : State) (f : Flight) (tid : Nat) : List LaneAcc := if admits f.instr then f.left.filter fun a => s.viewAt tid a else []

/-- TABLE_STORE_ADMISSION is due (R316, R317): the turn of a store's lowest lane at a V mapping has come, its own admission before it is
acknowledged, and so is every one to its line (R319). -/
def admissionDue (s : State) (grp fid : Nat) : Bool :=
  accessDue s grp fid isStore && match s.flightAt grp fid with
    | none => false
    | some (g, f, _, l) =>
      !s.mustReplay g f l.tid && (s.adms.all fun a => a.src ≠ some (grp, fid))
        && match s.admitLanes f l.tid with
          | a :: _ => match (s.translate l.tid a.target.tia).2 with
            | .ok leaf => s.lineFree leaf.frame (a.target.tia % 65536 / 8)
            | .error _ => false
          | [] => false

/-- One lane admitted or refused: a refused entry raises ADMIT with the lane and the reason, and the lanes above it are not admitted
either (R321). An entry whose word fails its check, or that lies in a DAMAGED frame, aborts the lane's store (R374, R376). -/
def bodyAdmission (grp fid : Nat) (s : State) : State :=
  match s.flightAt grp fid with
  | none => s
  | some (_, f, _, l) =>
    match s.admitLanes f l.tid with
    | [] => s
    | a :: rest =>
      match s.translate l.tid a.target.tia with
      | (s, .error _) => s
      | (s, .ok leaf) =>
        let idx := a.target.tia % 65536 / 8
        let new := BitVec.ofNat 64 (leNat (wordsBytes a.data))
        match s.admitFails l.tid leaf.frame idx new with
        | some (u, p) => s.settleFlight grp f (isVector f.instr) (Ends.none.add a (.dead u p))
        | none =>
          match s.admitRefusal l.tid leaf.frame idx new with
          | some r =>
            let e := Ends.none.add a (.trap (admitTrap a.target.va a.lane r))
            s.settleFlight grp f (isVector f.instr) { e with failed := rest.foldl (fun m b => m ||| laneBit b.lane) e.failed }
          | none =>
            if new = s.pte leaf.frame idx then ackLane s grp fid a.lane
            else s.admitEntry l.tid leaf.frame idx new (some (a.target.tia / 65536)) (some (grp, fid)) a.lane

def execTableStoreAdmission (grp fid : Nat) (s : State) : Host.Outcome State Fault Refusal :=
  event (admissionDue s grp fid) (bodyAdmission grp fid s) s

/-- ADMISSION_ACKNOWLEDGE is due once every access in flight that used a translation through the old entry has been performed (R319):
what is in flight for longer than one step of the model is a store that was admitted through such a translation and is not acknowledged. -/
def State.ackDue (s : State) (a : Admission) : Bool :=
  s.adms.all fun b => a.adm ≤ b.adm || b.tid ≠ a.tid || match b.via with | some p => !a.pages.contains p | none => true

/-! ## The ADMIT command (R386) -/

/-- A frame operand that a host command resolves leads to an allotment entry that fails its check: the occurrence is logged, and the operand is
unresolved (DESIGN CHOICE, assumption 118). -/
def State.cmdReads (s : State) (tid : Nat) (operands : List W64) : State :=
  match operands.findSome? fun v => s.operandFails tid v with
  | some (u, p) => s.detected u p 0 0
  | none => s

/-- ADMIT on its three operands: checks 2 to 10 of R317, or 11 FRAME; 11 too for a table frame whose entry, or an allotment entry on the way,
cannot be read (R376; DESIGN CHOICE, assumption 118). -/
def cmdAdmit (tid : Nat) (k : W64 × W64 × W64) (s : State) : State × W64 :=
  let no (r : Nat) : W64 := BitVec.ofNat 64 (256 * r)
  match s.resolve tid k.1 with
  | none => (s.cmdReads tid [k.1], no 11)
  | some f =>
    if !isTable (s.frame f).ftype ∨ 8192 ≤ k.2.1.toNat then (s, no 11) else
    let i := k.2.1.toNat
    match s.admitFails tid f i k.2.2 with
    | some (u, p) => (s.detected u p 0 0, no 11)
    | none =>
      match s.admitRefusal tid f i k.2.2 with
      | some r => (s, no r)
      | none => (if k.2.2 = s.pte f i then s else s.admitEntry tid f i k.2.2 none none 0, 0)

/-- The entry's line has no admission that is not acknowledged (R319). -/
def State.admitFree (s : State) (tid : Nat) (k : W64 × W64 × W64) : Bool :=
  match s.resolve tid k.1 with
  | some f => s.lineFree f k.2.1.toNat
  | none => true

/-- A command of ADMIT that has waited for its entry's line starts once that is free (R319, R386). -/
def State.admitWaiting (s : State) (tid : Nat) : State :=
  match (s.tenant tid).fcwait with
  | none => s
  | some k =>
    if !s.admitFree tid k then s else
    let r := cmdAdmit tid k (s.modTenant tid fun t => { t with fcwait := none })
    r.1.modTenant tid fun t => { t with fcres := r.2 }

/-- ADMISSION_ACKNOWLEDGE (R319): the shootdown, the old target's count, and the acknowledgement; an ADMIT command that waited for the line
starts. -/
def bodyAck (a : Admission) (s : State) : State :=
  let s := s.shootdown a.tid a.pages
  let s := match a.gone with | some f => s.modFrame f fun d => { d with use := d.use - 1 } | none => s
  let s := { s with adms := s.adms.filter fun b => b.adm ≠ a.adm }
  (match a.src with
  | some (g, f) => ackLane s g f a.lane
  | none => s).admitWaiting a.tid

def execAdmissionAcknowledge (adm : Nat) (s : State) : Host.Outcome State Fault Refusal :=
  match s.adms.find? fun a => a.adm = adm with
  | none => event false s s
  | some a => event (s.ackDue a) (bodyAck a s) s

/-- TRANSLATION_WALK (R299): a page of a tenant is translated; a walk that fails leaves nothing (R301). -/
def execTranslationWalk (tid tia : Nat) (s : State) : Host.Outcome State Fault Refusal :=
  event (s.tenant tid).live (s.translate tid tia).1 s

/-! ## The frame instructions (R326 to R330) -/

/-- A frame instruction waits for the group's earlier stores and atomics, and then runs (R326) (DEDUCED, assumption 52); where an
allotment entry that a frame operand needs fails its check the group is killed (R374). -/
def frameBody (x : Iss) (operands : List W64) (f : State → State) (s : State) : State :=
  let m := x.mark s
  if !(x.g.drained m fun k => isWriteAccess k.instr) then s.hold x (.drain m) false else
  match operands.findSome? fun v => s.operandFails x.l.tid v with
  | some (u, p) => (s.detected u p 2 0).killGroup x.g.ref
  | none => f s

def execFretype (sd sa sb : BitVec 6) (s : State) : Host.Outcome State Fault Refusal :=
  issue (.fretype sd sa sb) (fun x => frameBody x [x.s sa.toNat] fun s =>
    let r := s.retype x.l.tid (x.s sa.toNat) (x.s sb.toNat)
    writeScalar x sd.toNat r.2 r.1) s

def execFinfo (sd sa : BitVec 6) (s : State) : Host.Outcome State Fault Refusal :=
  issue (.finfo sd sa) (fun x => frameBody x [x.s sa.toNat] fun s => writeScalar x sd.toNat (s.finfo x.l.tid (x.s sa.toNat)) s) s

/-- The frames of a harvest, none for a count that it refuses (R329). -/
def frameRun (first n : W64) : List W64 := if 64 < n.toNat then [] else (List.range n.toNat).map fun i => first + BitVec.ofNat 64 i

/-- FHARVEST: a count outside 1 to 64 raises LAYOUT with detail 16 (R329). -/
def bodyFharvest (x : Iss) (sd : Nat) (first n : W64) (s : State) : State :=
  if n = 0 ∨ 64 < n.toNat then s.raise x tcLayout 0 16 else
  let r := s.harvest x.l.tid first n.toNat
  writeScalar x sd r.2 r.1

def execFharvest (sd sa sb : BitVec 6) (s : State) : Host.Outcome State Fault Refusal :=
  issue (.fharvest sd sa sb) (fun x =>
    frameBody x (frameRun (x.s sa.toNat) (x.s sb.toNat)) (bodyFharvest x sd.toNat (x.s sa.toNat) (x.s sb.toNat))) s

/-- A group leaves its park: its replay list is done again, only for the lanes missing (R330, R346). An entry whose cause is a trap stays in
the list with what follows it, and the trap is raised when the entries before it are done (R346) (DEDUCED, assumption 51) (DEDUCED,
assumption 95). -/
def Group.unpark (g : Group) : Group :=
  { g with trap := { g.trap with parked := false, replay := g.trap.replay.dropWhile fun f => f.trap.isNone } }.replay
    (g.trap.replay.takeWhile fun f => f.trap.isNone)

/-- What a record stands for still exists (R330: a record whose team has ended resumes nothing). -/
def State.waits (s : State) (r : FaultRec) : Bool :=
  match r.what with
  | .group g | .load g => match s.group? g with | some g => g.trap.parked | none => false
  | .copy j => match s.copy? j with | some c => c.phase = .waiting r.token | none => false
  | .launch l => match s.launch? l with | some l => l.waiting | none => false

/-- The party of a record goes on (R330), with the acquire action at dev scope of the core of a group or a copy. -/
def State.wake (s : State) (r : FaultRec) : State :=
  match r.what with
  | .group g | .load g =>
    let s := match s.group? g with
      | some k => (match s.homeOf k with | some (t, l) => s.acquireL1 t.core l.tid | none => s)
      | none => s
    s.modGroup g Group.unpark
  | .copy j =>
    let s := match s.copy? j with | some c => s.acquireL1 c.core c.tid | none => s
    s.modCopy j fun c => { c with phase := .moving }
  | .launch l => s.modLaunch l fun l => { l with waiting := false }

/-- FRESUME and RESUME: the record with a token is consumed (R330). -/
def State.resumeToken (s : State) (tid : Nat) (a : W64) : State × W64 :=
  if bits a 63 32 ≠ 0 then (s, 1) else
  match (s.tenant tid).recs.find? fun r => r.token = bits a 31 0 with
  | none => (s, 1)
  | some r =>
    let ok := s.waits r
    let s := s.modTenant tid fun t => { t with recs := t.recs.filter fun k => k.token ≠ r.token }
    let s := match s.faultStage tid with | some (t, k) => s.modTeam t.ref fun t => t.unhold k (.record tid r.token) | none => s
    if ok then (s.wake r, 0) else (s, 1)

/-- FRESUME: every earlier access of the group is performed, and the release action at dev scope comes first (R330). -/
def bodyFresume (x : Iss) (sd : Nat) (a : W64) (s : State) : State :=
  let m := x.mark s
  if !(x.g.drained m Flight.accesses) then s.hold x (.drain m) false else
  let r := (s.releaseL1 x.t.core x.l.tid).resumeToken x.l.tid a
  writeScalar x sd r.2 r.1

def execFresume (sd sa : BitVec 6) (s : State) : Host.Outcome State Fault Refusal :=
  issue (.fresume sd sa) (fun x => bodyFresume x sd.toNat (x.s sa.toNat)) s

/-! ## What the host writes (R294, R296, R308, R387) -/

/-- Launches of a tenant that are queued or running: taken in and not complete. -/
def State.tenantBusy (s : State) (tid : Nat) : Bool := s.launches.any fun l => l.tid = tid ∧ l.state ≠ .complete

/-- A write of word0 of the tenant record (R296): RERR is cleared by bit 62; the new ROOT is refused, or takes effect with its counts
(R314) and with every frame-TLB entry of the tenant gone, the allotment entries among them. A frame whose allotment entry fails its check is no
T3 frame that the tenant is seen to own: the write is refused, and nothing is logged (DESIGN CHOICE, assumption 118). -/
def State.writeRoot (s : State) (tid : Nat) (w : W64) : State :=
  let s := if bit w 62 then s.modTenant tid fun t => { t with rerr := false } else s
  let t := s.tenant tid
  match s.resolve tid (w &&& 0x3FFFFF#64) with
  | none => s.modTenant tid fun t => { t with rerr := true }
  | some f =>
    if s.tenantBusy tid ∨ (s.frame f).ftype ≠ ftT3 then s.modTenant tid fun t => { t with rerr := true } else
    let s := match (if t.rv then s.resolve tid (BitVec.ofNat 64 t.root) else none) with
      | some o => s.modFrame o fun d => { d with use := d.use - 1 }
      | none => s
    let s := if bit w 63 then s.modFrame f fun d => { d with use := d.use + 1 } else s
    { s.modTenant tid fun t => { t with rv := bit w 63, root := bits w 21 0 } with
      tlb := s.tlb.filter fun (e : TlbEntry) => e.tid ≠ tid, atlb := s.atlb.filter fun (e : AllotEntry) => e.tid ≠ tid }

def execTenantRootWrite (tid : Nat) (w : W64) (s : State) : Host.Outcome State Fault Refusal :=
  hostEvent tid true (s.writeRoot tid w) s

/-- FAULT_QUEUE_BIND (R308): the next record number becomes 0. -/
def execFaultQueueBind (tid : Nat) (w : W64) (s : State) : Host.Outcome State Fault Refusal :=
  hostEvent tid true (s.modTenant tid fun t => { t with faultq := w &&& 0x8007FFFFFFFFFFFF#64, nextRec := 0 }) s

/-- Some team of the context is placed, halted or saved (R387). -/
def State.ctxBusy (s : State) (cid : Nat) : Bool :=
  s.teams.any fun t => t.state ≠ .ended ∧ s.launches.any fun l => l.ref = t.launch ∧ l.cid = cid

/-- A host write of word j of a segment (R294, R387): while a team of the context is there, or where a commit is refused, ERR is set. -/
def State.hostSeg (s : State) (cid seg j : Nat) (w : W64) : State :=
  if s.ctxBusy cid then s.modCtx cid fun c => { c with err := true } else
  let r := (s.ctx cid).writeSeg seg j w
  s.modCtx cid fun c => if r.2 then { r.1 with err := true } else { r.1 with err := c.err }

/-- A context of a live tenancy that CTXEN enables (R361). -/
def State.ctxOn (s : State) (tid k : Nat) : Bool := (s.tenant tid).live && decide (k < 4) && (s.tenant tid).ctxen.getLsbD k

/-- SEGMENT_COMMIT (R294): a host write of word3. -/
def execSegmentCommit (tid ctx seg : Nat) (w : W64) (s : State) : Host.Outcome State Fault Refusal :=
  hostEvent tid (s.ctxOn tid ctx && decide (seg < 16)) (s.hostSeg (4 * tid + ctx) seg 3 w) s

end Sys2Proof.Machine
end

