-- ==== Sys2Proof/Machine/Traps.lean ====
section
/-! DEFINITION. Machine/Traps.lean: where a group stops (R345, R346): the trap entry once the group has drained (R347), the park on a demand
fault, and the end of a wait that passes WAITLIM (R15, R350). -/

namespace Sys2Proof.Machine

/-! ## When a wait is over (R15) -/

/-- Instructions with a lookahead (R22). -/
def isLong (i : Instr) : Bool := isAccess i || isCacheOp i || isMatrixOp i || isTableOp i || isDivide i

/-- What a fence-like wait of an instruction waits for, among what issued before its mark; a word that is not an instruction waits for
everything (R140). -/
def drainTest (i : Option Instr) (f : Flight) : Bool :=
  match i with
  | some (.fence _) | some (.fenceRel _) | some (.fenceHv _) | some (.launch _ _) | some .pdone | some (.fresume _ _) => f.accesses
  | some (.fenceAcq _) => f.reads
  | some (.sqrel _ _) => f.loads
  | some .mofence => mofenceWaits f
  | some (.fretype _ _ _) | some (.finfo _ _) | some (.fharvest _ _ _) => isWriteAccess f.instr
  | _ => true

/-- FENCE.HV also waits for the light marks of other groups (R193). -/
def State.lightOver (s : State) (x : Iss) (i : Option Instr) : Bool :=
  match i with
  | some (.fenceHv scope) => lightDrained s x scope.toNat
  | _ => true

/-- A local condition holds (R17, R131, R132, R232, R260). -/
def condOver (x : Iss) (i : Option Instr) : Bool :=
  match i with
  | some (.clauseHeader b sb _ _ _) => x.g.headerReady b.toNat sb.toNat
  | some (.waitSb slots) => x.g.slotsEmpty slots.toNat
  | some .waitDet => !x.g.detached
  | some (.waitOpc n) => decide (x.g.unconsumed ≤ n.toNat)
  | some (.waitMat n) => decide (x.g.unwritten ≤ n.toNat)
  | some (.waitBatch n) => decide (x.g.unf ≤ n.toNat)
  | some .exit => x.g.flights.isEmpty && (if x.g.batch.openHas then decide (x.g.unf < 15) else x.g.batch.sealed.isEmpty)
  | some (.mms ..) | some (.mmsR ..) => !x.g.flights.any fun f => isTableOp f.instr
  | some (.sqinit ss) => !(tget Stage.none x.t.stages (sdId (x.s ss.toNat))).slots.any fun k => k.state = .filling
  | _ => true

/-- The launch that a handle names for LWAIT: made by a group of the issuing launch (R135). -/
def State.child (s : State) (parent handle : Nat) : Option Launch := s.launches.find? fun l => l.parent = some parent ∧ l.handle = handle

/-- The wait of a held quad-set is over, so that its instruction may issue again (R15, R110, R131, R135, R263, R283). JOIN and REGANG
complete with the last arrival, a CPY with its acceptance, a CYIELD with its wake. -/
def State.holdOver (s : State) (x : Iss) (h : Hold) : Bool :=
  let i := x.q.instr?
  match h.kind with
  | .join | .regang | .cyield _ _ | .armed _ | .copyq _ => false
  | .barrier bar gen | .rearrive bar gen _ => (x.t.bar bar).gen ≠ gen
  | .drain m => x.g.drained m (drainTest i) && s.lightOver x i
  | .cond => condOver x i
  | .lwait handle => (match s.child x.l.ref handle with | some l => l.state = .complete | none => true)
  | .seq stage n => (tget Stage.none x.t.stages stage).waitOver n
  | .seqRel stage n => !(((tget Stage.none x.t.stages stage).slotOf n).state = .filling
      && ((tget Stage.none x.t.stages stage).slotOf n).seq = n)
  | .seal => decide (x.g.unf < 15)
  | .pdone step => x.pacer.step.toNat ≠ step
  | .pwait v => stepGt x.pacer.step (BitVec.ofNat 32 v)

/-! ## TRAP_ENTRY (R345 to R347) -/

/-- The instruction that a SHADOW trap follows has issued, or never will: its quad-set is gone (R379). -/
def Group.ripe (g : Group) (k : ShadowTrap) : Bool := k.src.isSome || (g.q? k.trap.tag).isNone

/-- The group has drained and something of it has failed: a replay list, a SHADOW trap, or a trap at issue that waits. -/
def Group.stopped (g : Group) : Bool :=
  g.run = .run && g.flights.isEmpty && !g.trap.parked
    && (!g.trap.replay.isEmpty || ((g.qsets.all fun q => !g.trap.ahead q)
      && (g.trap.pend.isSome || (g.trap.mode.isNone && g.trap.shadows.any g.ripe))))

/-- The group parks on a fault record (R307, R346). -/
def State.park (s : State) (g : Group) (f : Flight) (d : Demand) : State :=
  match s.homeOf g with
  | none => s
  | some (t, l) =>
    (s.modGroup g.ref fun g => { g with trap := { g.trap with parked := true } }).postGroupRecord g t l d (isTableLoad f.instr)

/-- The earliest entry of the replay list in program order decides the stop (R345); without a list the SHADOW traps are entered one after
the other, as they replay nothing (R349), and then the trap at issue (DEDUCED, assumption 115). -/
def bodyStop (g : Group) (s : State) : State :=
  match g.trap.replay with
  | [] => match (if g.trap.mode.isNone then g.trap.shadows.find? g.ripe else none) with
    | some k => (s.modGroup g.ref fun g => { g with trap := { g.trap with shadows := g.trap.shadows.erase k } }).enterTrap g.ref k.trap none
    | none => match g.trap.pend with
      | some r => s.enterTrap g.ref r none
      | none => s
  | f :: _ =>
    match f.trap, f.demand with
    | some r, _ => s.enterTrap g.ref r (some f)
    | none, some d => s.park g f d
    | none, none => s.modGroup g.ref Group.unpark

/-- The group stands on a core that a debugger holds: it enters and replays nothing (R359). -/
def State.heldGroup (s : State) (g : Group) : Bool := match s.team? g.team with | some t => s.debugHeld t.core | none => false

def execTrapEntry (grp : Nat) (s : State) : Host.Outcome State Fault Refusal :=
  match s.group? grp with
  | none => event false s s
  | some g => event (g.stopped && !s.heldGroup g) (bodyStop g s) s

/-! ## WAITLIM_EXPIRY (R15, R350) -/

/-- A bounded hold has passed its limit. -/
def QSet.expired (q : QSet) : Bool :=
  match q.hold with
  | some h => h.bounded && decide (h.limit ≤ h.count)
  | none => false

/-- The hold of a quad-set has passed its limit, and its wait is not over. -/
def State.holdStalls (s : State) (x : Iss) : Bool :=
  x.g.trap.pend.isNone && x.g.trap.replay.isEmpty && x.mayRun && match x.q.hold with
    | some h => h.bounded && decide (h.limit ≤ h.count) && !s.holdOver x h && !acceptDue s x.g.ref x.q.tag
    | none => false

/-- An LDP in flight that issued from the quad-set has waited past its limit, and its producer's step is not there (R286). It waits on
whatever else of the group is to be reported (R345). -/
def State.expiredLdp (s : State) (g : Group) (tag : Nat) : Option Flight :=
  g.flights.find? fun f => f.tag = tag && isLdp f.instr && decide (f.limit ≤ f.waited) && !ldpDue s g.ref f.fid

/-- STALL (R343): at the waiting instruction; what it did before the wait stands (R349). -/
def State.stall (s : State) (x : Iss) : State := s.raise x tcStall 0 0

/-- The quad-set of a group whose bounded wait ends, as it issues. -/
def State.stallsAt (s : State) (grp tag : Nat) : Option Iss := (s.issAt grp tag).filter s.holdStalls

def stallDue (s : State) (grp tag : Nat) : Bool :=
  match s.group? grp with
  | some g => g.run = .run && !g.trap.parked && !s.heldGroup g && ((s.stallsAt grp tag).isSome || (s.expiredLdp g tag).isSome)
  | none => false

/-- The wait of a quad-set, or of an LDP that it issued, ends in the STALL trap. -/
def bodyStall (grp tag : Nat) (s : State) : State :=
  match s.stallsAt grp tag with
  | some x => s.stall x
  | none =>
    match (s.group? grp).bind fun g => s.expiredLdp g tag with
    | some f => s.settleFlight grp f true (f.left.foldl (fun (e : Ends) a => e.add a (.trap (tcStall, 0, 0))) Ends.none)
    | none => s

def execWaitlimExpiry (grp tag : Nat) (s : State) : Host.Outcome State Fault Refusal :=
  event (stallDue s grp tag) (bodyStall grp tag s) s

end Sys2Proof.Machine
end

