-- ==== Sys2Proof/Machine/Layout.lean ====
section
/-! DEFINITION. Machine/Layout.lean: the paddock layout and its slice rings (R356, R363), and who may place where: rows, contexts and
scratchpad of a core (R162, R163, R338), hot and cool cores (R339), borrowed cores (R366, R367), and the drain bound (R400). -/

namespace Sys2Proof.Machine

/-! ## Layout (R363) -/

/-- Co-tenancies as (TID, slice length in 10 µs units), 0 taken as 1; LEND; LENDTO. -/
def asLen (n : Nat) : Nat := if n = 0 then 1 else n
def asShares (a : W64 × W64 × W64) : List (Nat × Nat) :=
  ((List.range 3).map fun i => (bits a.2.2 (16 * i + 15) (16 * i + 10), asLen (bits a.2.2 (16 * i + 9) (16 * i)))).filter fun e => e.1 ≠ 0
def asLend (a : W64 × W64 × W64) : Bool := bit a.1 7
def asLendTo (a : W64 × W64 × W64) (tid : Nat) : Bool := bit a.2.1 tid

/-- The slice ring of an assignment, with slice lengths (R356). -/
def asRing (a : W64 × W64 × W64) : List (Nat × Nat) :=
  if asOwner a = 0 then [] else (asOwner a, asLen (bits a.1 17 8)) :: asShares a

/-- The ring of tenancies of a paddock in force. -/
def State.ring (s : State) (p : Nat) : List Nat := (asRing (s.assign p)).map (·.1)

/-- The slice of a paddock. -/
def State.slice (s : State) (p : Nat) : Slice := tget ⟨0, 0, false⟩ s.lodge.slices p

/-- A tenancy may run teams on a paddock of its own now: unshared, or in its slice (R356). -/
def State.inSlice (s : State) (p tid : Nat) : Bool :=
  (s.ring p).contains tid && ((s.ring p).length ≤ 1 || ((s.slice p).tid == tid && !(s.slice p).ending))

/-- The Lodge is about to take the paddock from a tenancy (R365 step 2): the PREPARED bank's ring lacks it, and its OWNER changes for one
that is there on loan. Until the flip is done nothing of the tenancy is put there (DEDUCED, assumption 66). -/
def State.leaving (s : State) (p tid : Nat) : Bool :=
  match s.lodge.journal with
  | none => false
  | some j =>
    let a := assignOf j.bank p
    !j.done && j.seq == s.lodge.gen + 1
      && (if (s.ring p).contains tid then !((asRing a).any fun e => e.1 = tid) else asOwner a != s.owner p)

/-- The tenancy's own paddocks, ascending (R361 PADS). -/
def State.paddocksOf (s : State) (tid : Nat) : List Nat := (List.range Config.paddocks).filter fun p => (s.ring p).contains tid

/-- Home die of a tenancy: that of its lowest-numbered paddock (R334). -/
def State.homeDie (s : State) (tid : Nat) : Nat := (s.paddocksOf tid).headD 0 / 4

/-- The tenancy word as its function reads it (R361). -/
def State.tenancyWord (s : State) (tid : Nat) : W64 :=
  let t := s.tenant tid
  let pads := ((List.range Config.paddocks).filter fun p => (s.ring p).contains tid).foldl (fun m p => m + 2 ^ p) 0
  let lent := ((List.range Config.paddocks).filter fun p => s.lentTo p = tid).foldl (fun m p => m + 2 ^ p) 0
  if !t.live then 0 else
  BitVec.ofNat 64 (pads * 2 ^ 48 + lent * 2 ^ 32 + t.ctxen.toNat * 2 ^ 20 + t.l2cap % 512 * 256 + tid % 64)

/-! ## Rows and contexts (R38, R338) -/

/-- Register rows that a group of a kernel takes (R38). -/
def rowsOf (nregs width : Nat) (emurow : Bool) : Nat := nregs / 8 * (width / 8) + if emurow then max 1 (width / 16) else 0
def Kernel.rows (k : Kernel) : Nat := rowsOf k.nregs k.width k.emurow
def Group.rows (g : Group) : Nat := rowsOf g.nregs g.width g.emurow

/-- Teams that hold something of a core; `claim` leaves out halted ones, whose parts a placement may claim (R353). -/
def State.holders (s : State) (core : Nat) (claim : Bool) : List Team :=
  s.teams.filter fun t => t.core = core && t.state ≠ .ended && t.state ≠ .saved && !(claim && t.state == .halted)

/-- Groups that hold rows and a context of a partition: not retired (R337), not spilled (R353). -/
def State.held (s : State) (core part : Nat) (claim : Bool) : List Group :=
  s.groups.filter fun g => g.part = part && g.run ≠ .retired
    && (s.holders core claim).any fun t => t.ref = g.team && !t.spilled.groups.contains g.ref

/-- Free rows and free contexts of a partition. -/
def State.freeRows (s : State) (core part : Nat) (claim : Bool) : Nat :=
  Config.rowsPerPartition - ((s.held core part claim).map Group.rows).sum
def State.freeCtxs (s : State) (core part : Nat) (claim : Bool) : Nat := Config.ctxPerPartition - (s.held core part claim).length

/-- p0: the partition with the most free rows, the lowest-numbered among equals (R338). -/
def State.firstPart (s : State) (core : Nat) (claim : Bool) : Nat :=
  (List.range Config.partitions).foldl (fun b p => if s.freeRows core b claim < s.freeRows core p claim then p else b) 0

/-- Groups of a team that partition p gets when group 0 goes to p0. -/
def groupsOn (n p0 p : Nat) : Nat := ((List.range n).filter fun g => (p0 + g) % Config.partitions = p).length

/-- The groups of a kernel's team can be assigned (R338). -/
def State.partsFit (s : State) (core : Nat) (k : Kernel) (claim : Bool) : Bool :=
  let p0 := s.firstPart core claim
  (List.range Config.partitions).all fun p =>
    let n := groupsOn k.groups p0 p
    decide (n ≤ s.freeCtxs core p claim) && decide (n * k.rows ≤ s.freeRows core p claim)

/-! ## Scratchpad (R162, R163) -/

/-- 4 KiB units of scratchpad on a core (R4). -/
def spadUnits : Nat := 192

/-- The lowest 4 KiB-aligned place of a contiguous run of a size among the units that are free (R163) (DEDUCED, assumption 56). -/
def State.spadPlace (s : State) (core size : Nat) (claim : Bool) : Option Nat :=
  let ts := s.holders core claim
  let n := (size + 4095) / 4096
  ((List.range (spadUnits + 1)).find? fun u =>
    decide (u + n ≤ spadUnits) && (List.range n).all fun i => !(ts.any fun t => t.holdsUnit (u + i))).map (· * 4096)

/-! ## Fit and choice of a core (R338, R339, R367) -/

/-- The team runs in a paced ensemble that is not ended. -/
def Team.paced (t : Team) : Bool := t.pacer.isSome

/-- What a kernel's team needs of a core itself (R338): no second paced team (R271), scratchpad, rows and contexts; `claim` says that what
halted teams hold may be claimed where what is free does not do (R353). A core that a debugger holds takes no team (R359). -/
def State.coreFits (s : State) (core : Nat) (k : Kernel) (claim : Bool) : Bool :=
  decide (core < Config.cores) && (s.coreOf core).reported && !s.debugHeld core
    && !(k.paced && s.teams.any fun t => t.core = core && t.state ≠ .ended && t.state ≠ .saved && t.paced)
    && (s.spadPlace core k.spadBytes claim).isSome && (s.partsFit core k false || (claim && s.partsFit core k true))

/-- Core clock in MHz: the arithmetic clock of R4; below it and not below 400 at stage 3; 400, the limit of stage 3, at the stages after it
(R398; DESIGN CHOICE, assumption 15). -/
def State.coreMhz (s : State) : Nat :=
  if s.lodge.stage < 3 then 1700 else if s.lodge.stage = 3 then max 400 (min 1700 (Config.loweredMhz s.tick)) else 400

/-- Table-set partitions that a team's groups occupy. -/
def partsUsed (groups : Nat) : Nat := min groups Config.partitions

/-- T_REC ≤ RDL (R367), in units of nanoseconds · MHz · 200: B_SAVE is 200 bytes a nanosecond, T_FIX 3 µs. -/
def recallFits (k : Kernel) (mhz rdl : Nat) : Bool :=
  decide (256 * k.yieldBound * 1000 * 200 + (256 * (k.rows * k.groups) + k.spadBytes + Config.tableSetBytes * partsUsed k.groups) * mhz
    + 3000 * 200 * mhz ≤ rdl * 1000 * 200 * mhz)

/-- A launch's next team fits a core of its tenancy's own paddocks (R338), of one that is not lent (R368). -/
def State.ringFits (s : State) (l : Launch) (core : Nat) : Bool :=
  (s.ring (paddockOf core)).contains l.tid && s.lentTo (paddockOf core) = 0 && !s.leaving (paddockOf core) l.tid && s.coreFits core l.kernel true

/-- It may be placed there now: the paddock is the tenancy's, or in its slice (R356). -/
def State.ownFits (s : State) (l : Launch) (core : Nat) : Bool := s.inSlice (paddockOf core) l.tid && s.ringFits l core

/-- It may use a paddock that is lent to its tenancy (R338, R367). -/
def State.lentFits (s : State) (l : Launch) (core : Nat) : Bool :=
  let p := paddockOf core
  s.lentTo p = l.tid && !s.lodge.recalls.contains p && !s.leaving p l.tid && !l.kernel.paced && l.kernel.yieldBound ≠ 0
    && recallFits l.kernel s.coreMhz s.lodge.rdl && s.coreFits core l.kernel true

/-- Cool before hot, then the lower temperature, then the lower number (R339). -/
def coreBefore (s : State) (a b : Nat) : Bool :=
  let x := s.coreOf a
  let y := s.coreOf b
  if x.hot ≠ y.hot then y.hot else if x.temp ≠ y.temp then decide (x.temp < y.temp) else decide (a < b)

/-- The best of several cores. -/
def bestCore (s : State) : List Nat → Option Nat
  | [] => none
  | c :: cs => some (cs.foldl (fun b k => if coreBefore s k b then k else b) c)

/-- The core for a launch's next team: its own paddocks first, then borrowed ones (R339, R367). -/
def State.chooseCore (s : State) (l : Launch) : Option Nat :=
  let own := (s.paddocksOf l.tid).flatMap fun p => (List.range Config.coresPerPaddock).map fun i => p * Config.coresPerPaddock + i
  match bestCore s (own.filter fun c => s.ownFits l c) with
  | some c => some c
  | none =>
    let lent := ((List.range Config.paddocks).filter fun p => s.lentTo p = l.tid && l.tid ≠ 0).flatMap fun p =>
      (List.range Config.coresPerPaddock).map fun i => p * Config.coresPerPaddock + i
    bestCore s (lent.filter fun c => s.lentFits l c)

/-! ## Drain bound (R400) -/

/-- Bytes that a drain-registered team's state takes. -/
def drainBytes (k : Kernel) : Nat :=
  256 * (k.rows * k.groups) + k.spadBytes + Config.tableSetBytes * partsUsed k.groups + 4096 * k.groups

/-- Bytes of the registered teams placed, and of the precious regions. -/
def State.drainSum (s : State) : Nat :=
  ((s.teams.map fun t => if t.state = .ended then 0 else
      match s.launch? t.launch with | some l => if bit (l.record.getD 1 0) 2 then drainBytes l.kernel else 0 | none => 0)).sum
    + (s.lodge.regions.map fun r => r.2.2 * 65536).sum

/-- T_DRAIN ≤ 25 ms: 50 µs + bytes/(32 bytes a nanosecond) + 200 µs. -/
def drainFits (bytes : Nat) : Bool := decide (bytes ≤ 32 * (25000000 - 250000))

/-- The launch's next teams keep the drain within its bound (R400). -/
def State.drainOk (s : State) (l : Launch) (teams : Nat) : Bool :=
  !bit (l.record.getD 1 0) 2 || drainFits (s.drainSum + teams * drainBytes l.kernel)

end Sys2Proof.Machine
end

