-- ==== Sys2Proof/Machine/Launch.lean ====
section
/-! DEFINITION. Machine/Launch.lean: launch records and their checks (R38, R273, R303, R331, R332), handles and queues (R333, R334), LAUNCH
and LWAIT (R134, R135), intake, dependence and resident leases (R305, R335), the placement of teams (R337, R338) and completion (R340). -/

namespace Sys2Proof.Machine

/-! ## Reading through the launching context (R331) -/

/-- An abort met on the way joins its log record (R403); any other failure leaves nothing. -/
def State.met (s : State) (e : WalkErr) : State := match e with | .abort u p => s.detected u p 0 0 | .fail _ _ => s

/-- `n` bytes of one page or less, read at dev scope as the scheduler reads (R331, R332): an ordinary segment or a host window that grants
reads, and a D leaf; for code also a C leaf, in a segment that grants reads or execution; a read that aborts is an occurrence of its error
(R403) (DEDUCED, assumption 53) (DEDUCED, assumption 87). -/
def State.schedPiece (s : State) (cid va n : Nat) (code : Bool) : State × Option (List Byte) :=
  let tid := cid / 4
  let c := s.ctx cid
  if 2 ^ 48 < va + n then (s, none) else
  match c.place va with
  | none => (s, none)
  | some (i, t) =>
    let host : Bool := match t with | .host _ _ => true | _ => false
    let plain : Bool := match t with | .glob _ _ => true | _ => false
    if !(plain || host) || !(bit (c.seg i 3) 0 || (code && bit (c.seg i 3) 2)) then (s, none) else
    let fails (s : State) (e : WalkErr) : State × Option (List Byte) := (s.met e, none)
    match s.translate tid t.tia with
    | (s, .error e) => fails s e
    | (s, .ok leaf) =>
      if leaf.host ≠ host || !(leaf.kind = 0 || (code && leaf.kind = 1)) then (s, none) else
      match s.devRead tid t.tia n host with
      | (s, .ok bs) => (s, some bs)
      | (s, .error e) => fails s e

/-- `n` bytes, page by page. -/
def State.schedRead (s : State) (cid va n : Nat) (code : Bool) : State × Option (List Byte) :=
  if n = 0 then (s, some []) else
  (List.range ((va % 65536 + n + 65535) / 65536)).foldl (fun (acc : State × Option (List Byte)) k =>
    match acc with
    | (s, none) => (s, none)
    | (s, some bs) =>
      let lo := max va ((va / 65536 + k) * 65536)
      let hi := min (va + n) ((va / 65536 + k + 1) * 65536)
      match s.schedPiece cid lo (hi - lo) code with
      | (s, some more) => (s, some (bs ++ more))
      | (s, none) => (s, none)) (s, some [])

/-- 64-bit words of a byte list. -/
def words64Of (bs : List Byte) : List W64 :=
  (List.range (bs.length / 8)).map fun i => BitVec.ofNat 64 (leNat ((bs.drop (8 * i)).take 8))

/-- `n` words of 8 bytes. -/
def State.schedWords (s : State) (cid va n : Nat) (code : Bool) : State × Option (List W64) :=
  match s.schedRead cid va (8 * n) code with
  | (s, some bs) => (s, some (words64Of bs))
  | (s, none) => (s, none)

/-- A completion word may be stored (R332, R340): a segment that grants writes and a leaf that grants stores. -/
def State.cwordOk (s : State) (cid va : Nat) : State × Bool :=
  let c := s.ctx cid
  let leaf (tia : Nat) (host : Bool) : State × Bool :=
    match s.translate (cid / 4) tia with
    | (s, .ok leaf) => (s, leaf.writable && leaf.host == host)
    | (s, .error e) => (s.met e, false)
  match c.place va with
  | none => (s, false)
  | some (i, t) =>
    if !bit (c.seg i 3) 1 then (s, false) else
    match t with
    | .glob _ tia => leaf tia false
    | .host _ tia => leaf tia true
    | _ => (s, false)

/-! ## Fields of a record (R331) -/

def Launch.word (l : Launch) (i : Nat) : W64 := l.record.getD i 0
def Launch.teamCount (l : Launch) : Nat := bits (l.word 0) 63 48
def Launch.entry (l : Launch) : Nat := bits (l.word 0) 47 0
def Launch.irq (l : Launch) : Bool := bit (l.word 1) 4
def Launch.depv (l : Launch) : Bool := bit (l.word 1) 3
def Launch.drain (l : Launch) : Bool := bit (l.word 1) 2
def Launch.prio (l : Launch) : Nat := bits (l.word 1) 1 0
def Launch.cword (l : Launch) : Nat := bits (l.word 2) 47 0
def Launch.dword (l : Launch) : Nat := bits (l.word 3) 47 0
def Launch.dval (l : Launch) : W64 := l.word 4
def Launch.param (l : Launch) : W64 := l.word 5
def Launch.nranges (l : Launch) : Nat := bits (l.word 6) 63 48
def Launch.rangesVa (l : Launch) : Nat := bits (l.word 6) 47 0
def Launch.paceVa (l : Launch) : Nat := bits (l.word 7) 47 0

/-! ## The kernel header and its tables (R38, R273, R303) -/

def Kernel.none : Kernel := ⟨0, false, false, false, 0, 0, 0, 0, 0, 0, 0⟩

/-- The header's four words (R38); none where a rule of the table is violated. -/
def kernelOf (w : List W32) : Option Kernel :=
  let w0 := w.getD 0 0
  let w1 := w.getD 1 0
  let w2 := w.getD 2 0
  let w3 := (w.getD 3 0).toNat
  let isa := wbits w0 23 16
  let c16 := wbits w0 15 15 = 1
  let regs := wbits w1 31 24
  let wcode := wbits w1 15 13
  if wbits w0 31 24 ≠ 0xA5 ∨ isa < 2 ∨ (c16 ∧ wcode ≠ 1) ∨ wbits w0 12 0 ≠ 0 ∨ regs = 0 ∨ 16 < regs ∨ 192 < wbits w1 23 16 ∨ 3 < wcode
      ∨ wbits w1 7 0 ≠ 0 ∨ w3 % 4 ≠ 0 ∨ w3 < 16 then none
  else some {
    isa := isa, compat16 := c16, emurow := wbits w0 14 14 = 1, paced := wbits w0 13 13 = 1, nregs := 8 * regs
    spadBytes := 4096 * wbits w1 23 16, width := 8 * 2 ^ wcode, groups := if wbits w1 12 8 = 0 then 32 else wbits w1 12 8
    yieldBound := wbits w2 31 16, leaseOff := wbits w2 15 0, first := w3 }

/-- A lease entry (R303); none where a rule of the table is violated. -/
def leaseOf (w0 w1 : W64) : Option Lease :=
  let base := bits w0 47 0
  let len := bits w1 47 0
  if bits w0 61 48 ≠ 0 ∨ bits w1 63 48 ≠ 0 ∨ base % 16 ≠ 0 ∨ len = 0 ∨ len % 16 ≠ 0 ∨ 2 ^ 48 < base + len then none
  else some ⟨bit w0 63, bit w0 62, base, len⟩

/-- Every element of a list taken, or none. -/
def allSome {α : Type} : List (Option α) → Option (List α)
  | [] => some []
  | none :: _ => none
  | some a :: t => (allSome t).map (a :: ·)

/-- Consecutive words in pairs. -/
def pairsOf : List W64 → List (W64 × W64)
  | a :: b :: t => (a, b) :: pairsOf t
  | _ => []

/-- The lease table at an address (R303). -/
def State.readLeases (s : State) (cid va : Nat) : State × Option (List Lease) :=
  if va % 8 ≠ 0 then (s, none) else
  match s.schedWords cid va 1 true with
  | (s, none) => (s, none)
  | (s, some h) =>
    let n := (h.headD 0).toNat
    if 32 < n then (s, none) else
    match s.schedWords cid (va + 8) (2 * n) true with
    | (s, none) => (s, none)
    | (s, some ws) => (s, allSome ((pairsOf ws).map fun p => leaseOf p.1 p.2))

/-- Byte i of a word. -/
def byteOf (w : W64) (i : Nat) : Nat := w.toNat / 256 ^ i % 256

/-- One entry of the pace table, for team k of n (R272, R273). -/
def paceOf (w0 w1 w2 w3 : W64) (k n spad : Nat) : Option PaceEntry :=
  let slot := bits w0 63 42
  let base := bits w0 41 22
  let d := bits w0 18 16 + 1
  let un := bits w0 11 8
  let dn := bits w0 15 12
  let up := (List.range un).map (byteOf w1)
  let down := (List.range dn).map (byteOf w2)
  let bad (l : List Nat) : Bool := l.any (fun i => i == k || decide (n ≤ i)) || l.eraseDups.length != l.length
  if bits w0 21 19 ≠ 0 ∨ bits w0 7 0 ≠ 0 ∨ w3 ≠ 0 ∨ 8 < un ∨ 8 < dn ∨ d = 1 ∨ w1.toNat / 256 ^ un ≠ 0 ∨ w2.toNat / 256 ^ dn ≠ 0
      ∨ bad up ∨ bad down ∨ slot % 16 ≠ 0 ∨ base % 64 ≠ 0 ∨ (base ≠ 0 ∧ slot = 0) ∨ (slot ≠ 0 ∧ spad < base + 64 + d * slot) then none
  else some ⟨slot, base, d, up, down⟩

/-- The pace table (R273). -/
def State.readPace (s : State) (cid va n spad : Nat) : State × Option (List PaceEntry) :=
  match s.schedWords cid va (4 * n) false with
  | (s, none) => (s, none)
  | (s, some ws) =>
    (s, allSome ((List.range n).map fun k => paceOf (ws.getD (4 * k) 0) (ws.getD (4 * k + 1) 0) (ws.getD (4 * k + 2) 0)
      (ws.getD (4 * k + 3) 0) k n spad))

/-- A range list entry: FIRST, COUNT (R331). -/
def rangeOf (w : W64) : Nat × Nat := (bits w 31 0, bits w 63 32)

/-- The checks of R332 that lie in the record alone. PACE is an address field whose alignment no rule states: it is taken as a multiple of 8,
as those of the other words are (DESIGN CHOICE, assumption 122). -/
def Launch.recordOk (l : Launch) : Bool :=
  l.record.length == 8 && l.teamCount != 0 && decide (l.nranges ≤ 16) && bits (l.word 1) 63 5 == 0 && bits (l.word 2) 63 48 == 0
    && bits (l.word 3) 63 48 == 0 && bits (l.word 7) 63 48 == 0 && l.entry % 4 == 0 && l.cword % 8 == 0 && l.dword % 8 == 0
    && l.rangesVa % 8 == 0 && l.paceVa % 8 == 0 && (l.depv == (l.dword != 0))

/-- The launch with everything copied that R332 lets in, or none for status KERNEL; the pace table is read when the teams are placed
(R271) (DEDUCED, assumption 116) (DEDUCED, assumption 55) (DEDUCED, assumption 86). -/
def State.checkLaunch (s : State) (l : Launch) : State × Option Launch :=
  let no (s : State) : State × Option Launch := (s, none)
  let word (s : State) (va : Nat) : State × Bool := match s.schedRead l.cid va 8 false with | (s, r) => (s, r.isSome)
  if !l.recordOk then no s else
  let (s, cw) := if l.cword = 0 then (s, true) else word s l.cword
  let (s, dw) := if l.dword = 0 then (s, true) else word s l.dword
  if !cw || !dw then no s else
  let (s, stores) := if l.cword = 0 then (s, true) else s.cwordOk l.cid l.cword
  if !stores then no s else
  match s.schedWords l.cid l.rangesVa l.nranges false with
  | (s, none) => no s
  | (s, some rs) =>
    let ranges := rs.map rangeOf
    if ranges.any fun r => r.2 ≠ 0 && decide (0xFFFFFFFF < r.1 + r.2) then no s else
    match s.schedRead l.cid l.entry 16 true with
    | (s, none) => no s
    | (s, some hs) =>
      match kernelOf (bytesWords hs) with
      | none => no s
      | some k =>
        if (k.paced ≠ decide (l.paceVa ≠ 0)) || Config.rowsPerPartition < (k.groups + 3) / 4 * k.rows then no s else
        match s.readLeases l.cid (l.entry + 4 * k.leaseOff) with
        | (s, none) => no s
        | (s, some ls) =>
          if k.paced ∧ Config.coresPerPaddock * (s.paddocksOf l.tid).length < l.teamCount then no s
          else (s, some { l with kernel := k, leases := ls, ranges := ranges })

/-! ## Handles and queues (R333, R334) -/

/-- A handle of a tenant that none of its launches has: home die in [31:30] (R334; DESIGN CHOICE, assumption 3). -/
def State.newHandle (s : State) (tid die : Nat) : Nat :=
  let used := (s.launches.filter fun l => l.tid = tid).map (·.handle)
  let seed := Config.handleSeed s.free
  (((List.range (used.length + 2)).map fun k => die % 4 * 2 ^ 30 + (seed + k) % 2 ^ 30).find? fun v => v ≠ 0 ∧ !used.contains v).getD
    (die % 4 * 2 ^ 30 + 1)

/-- A launch as it is first held. -/
def Launch.new (ref handle tid cid depth die : Nat) (parent : Option Nat) (state : LaunchState) (record : List W64) : Launch where
  ref := ref
  handle := handle
  tid := tid
  cid := cid
  depth := depth
  parent := parent
  die := die
  state := state
  record := record
  ranges := []
  kernel := Kernel.none
  leases := []
  pace := []
  feat := 0
  depOk := false
  leaseOk := false
  waiting := false
  nextTeam := 0
  ended := 0
  status := 0
  dead := 0
  pins := []
  cursor := 0
  groups := 0

/-- Launches made by LAUNCH that wait to be taken in on a die, and those of a tenant there. -/
def State.posted (s : State) (die : Nat) : List Launch := s.launches.filter fun l => l.state = .posted ∧ l.die = die

/-- LAUNCH's status word (R134). -/
def launchWord (status handle : Nat) : W64 := BitVec.ofNat 64 (handle * 2 ^ 32 + status)

/-- LAUNCH: a release at dev scope for the group's earlier accesses; then the first status that applies (R134) (DEDUCED, assumption 84). -/
def bodyLaunch (x : Iss) (sd : Nat) (a : W64) (s : State) : State :=
  let m := x.mark s
  if !(x.g.drained m Flight.accesses) then s.hold x (.drain m) false else
  let s := s.releaseL1 x.t.core x.l.tid
  let done (s : State) (st h : Nat) : State := writeScalar x sd (launchWord st h) s
  if x.l.depth = 9 then done s 0x10 0
  else if x.g.gix ≠ 0 then done s 0x11 0
  else if a.toNat % 64 ≠ 0 then done s 0x13 0
  else match s.schedWords x.l.cid a.toNat 8 false with
    | (s, none) => done s 0x13 0
    | (s, some ws) =>
      let die := dieOf x.t.core
      if Config.deviceQueueMax ≤ (s.posted die).length
          ∨ Config.tenantQueueMax ≤ ((s.posted die).filter fun l => l.tid = x.l.tid).length then done s 0x12 0
      else
        let h := s.newHandle x.l.tid die
        let l := Launch.new s.next h x.l.tid x.l.cid (x.l.depth + 1) die (some x.l.ref) .posted ws
        done { s with launches := s.launches ++ [l], free := s.free + 1 }.fresh 0 h

def execLaunch (sd sa : BitVec 6) (s : State) : Host.Outcome State Fault Refusal :=
  issue (.launch sd sa) (fun x => bodyLaunch x sd.toNat (x.s sa.toNat)) s

/-- LWAIT: HANDLE at once; held until the launch is complete; then an acquire at dev scope and the status with the dead lanes (R135). -/
def bodyLwait (x : Iss) (sd : Nat) (a : W64) (s : State) : State :=
  match s.child x.l.ref a.toNat with
  | none => writeScalar x sd 6 s
  | some l =>
    if l.state = .complete then writeScalar x sd (BitVec.ofNat 64 (l.dead % 2 ^ 32 * 2 ^ 32 + l.status)) (s.acquireL1 x.t.core x.l.tid)
    else s.hold x (.lwait l.handle) true

def execLwait (sd sa : BitVec 6) (s : State) : Host.Outcome State Fault Refusal :=
  issue (.lwait sd sa) (fun x => bodyLwait x sd.toNat (x.s sa.toNat)) s

/-! ## Rings (R333) -/

def State.ringOf (s : State) (tid level : Nat) : Ring := tget Ring.reset (s.tenant tid).rings level
def State.modRing (s : State) (tid level : Nat) (f : Ring → Ring) : State :=
  s.modTenant tid fun t => { t with rings := tset Ring.reset t.rings level (f (tget Ring.reset t.rings level)) }

/-- Entries of a ring. -/
def Ring.size (r : Ring) : Nat := 2 ^ (r.lsize + 4)

/-- A host write of a ring's word1 (R333): LSIZE, ERR cleared by a 1, and TAIL, which posts entries or is ignored with ERR; a ring that
ignores a doorbell signals vector 1 (R384). -/
def State.ringDoorbell (s : State) (tid level : Nat) (w : W64) : State :=
  let s := s.modRing tid level fun r => { r with lsize := bits w 34 32, err := r.err && !bit w 35 }
  let r := s.ringOf tid level
  let tail := w.setWidth 16
  if r.size < (tail - r.head).toNat then { s.modRing tid level (fun r => { r with err := true }) with irqs := s.irqs ++ [(tid, 1)] }
  else s.modRing tid level fun r => { r with tail := tail }

def execLaunchRingDoorbell (tid level : Nat) (w : W64) (s : State) : Host.Outcome State Fault Refusal :=
  hostEvent tid (decide (level < 4)) (s.ringDoorbell tid level w) s

/-! ## Intake (R331 to R335) -/

/-- A launch ends with a status before any team is placed (R305, R336). -/
def State.refuse (s : State) (ref status : Nat) : State := s.modLaunch ref fun l => { l with state := .draining, status := status }

/-- Status FEATURE or LEASE, which R332 decides after its checks: the pace table of a PACED kernel is read first, and one that breaks R273
makes the status KERNEL (DEDUCED, assumption 116). -/
def State.refuseAfter (s : State) (l : Launch) (status : Nat) : State :=
  if !l.kernel.paced then s.refuse l.ref status else
  match s.readPace l.cid l.paceVa l.teamCount l.kernel.spadBytes with
  | (s, none) => s.refuse l.ref stKernel
  | (s, some _) => s.refuse l.ref status

/-- A launch as taken in: its checks passed, it is queued at the tail; refused, it goes on to its completion (R332, R336). -/
def State.takeIn (s : State) (l : Launch) : State :=
  let (s, r) := s.checkLaunch l
  let others := s.launches.filter fun k => k.ref ≠ l.ref
  let put (l : Launch) : State := { s with launches := others ++ [l] }
  match r with
  | none => put { l with state := .draining, status := stKernel }
  | some l =>
    let s := put { l with state := .queued, depOk := !l.depv }
    if l.kernel.paced ∧ !featOn (s.tenant l.tid).feat fgPace then s.refuseAfter l stFeature else s

/-- The ring's next entry, copied; then HEAD advances (R333). -/
def bodyRingIntake (tid level : Nat) (s : State) : State :=
  let r := s.ringOf tid level
  let (s, ws) := s.schedWords r.cid (r.rbase + 64 * (r.head.toNat % r.size)) 8 false
  let s := s.modRing tid level fun r => { r with head := r.head + 1 }
  let die := s.homeDie tid
  let l := Launch.new s.next (s.newHandle tid die) tid r.cid 0 die none .queued (ws.getD [])
  ({ s with free := s.free + 1 }.fresh).takeIn l

def intakeDue (s : State) (src : LaunchSrc) : Bool :=
  !s.lodge.drain && match src with
  | .ring tid level => (s.tenant tid).live && decide (level < 4) && (s.ringOf tid level).head != (s.ringOf tid level).tail
  | .device ref => match s.launch? ref with | some l => l.state = .posted | none => false

def execLaunchIntake (src : LaunchSrc) (s : State) : Host.Outcome State Fault Refusal :=
  event (intakeDue s src) (match src with
    | .ring tid level => bodyRingIntake tid level s
    | .device ref => match s.launch? ref with | some l => s.takeIn l | none => s) s

/-! ## Eligibility (R305, R335) -/

/-- The dependence word, read as an acquire, has reached DVAL. -/
def bodyPoll (l : Launch) (s : State) : State :=
  match s.schedWords l.cid l.dword 1 false with
  | (s, some ws) => if l.dval.toNat ≤ (ws.headD 0).toNat then s.modLaunch l.ref fun l => { l with depOk := true } else s
  | (s, none) => s

def pollDue (s : State) (ref : Nat) : Bool :=
  match s.launch? ref with | some l => l.state = .queued && !l.depOk && !s.lodge.drain | none => false

def execDependencePoll (ref : Nat) (s : State) : Host.Outcome State Fault Refusal :=
  match s.launch? ref with
  | none => event false s s
  | some l => event (pollDue s ref) (bodyPoll l s) s

/-- What the resident check says of a page (R305). -/
inductive PageFate where
  | ok (frames : List Nat)
  | record (va tia reason level : Nat) (write : Bool)
  | lease (abort : Option (Nat × Nat))
  deriving DecidableEq, Repr

/-- One 64 KiB page of a resident entry; a V leaf grants the stores that go to admission (R300). -/
def State.pageFate (s : State) (l : Launch) (rw : Bool) (page : Nat) : PageFate :=
  let va := page * 65536
  let walk (tia : Nat) (host : Bool) : PageFate :=
    match s.walk (gia l.tid tia / 128) l.tid tia with
    | .error (.abort u p) => .lease (some (u, p))
    | .error (.fail r lv) => if r ≤ 2 then .record va tia r (if r = 2 then 0 else lv) rw else .lease none
    | .ok (tfns, leaf) =>
      if leaf.host ≠ host ∨ (rw ∧ !leaf.writable ∧ leaf.kind ≠ 3) then .lease none
      else .ok (tfns.filterMap fun t => match s.machAt (gia l.tid tia / 128) l.tid t 1 with
        | .ok (f, false) => some f
        | _ => none)
  match (s.ctx l.cid).place va with
  | none => .lease none
  | some (_, .glob _ tia) => walk tia false
  | some (_, .host _ tia) => walk tia true
  | some _ => .ok []

/-- The pages of an entry from `page` on, `n` of them, until one does not pass. -/
def State.pagesFate (s : State) (l : Launch) (rw : Bool) : Nat → Nat → List Nat → PageFate
  | 0, _, fs => .ok fs
  | n + 1, page, fs =>
    match s.pageFate l rw page with
    | .ok more => State.pagesFate s l rw n (page + 1) (fs ++ more.filter fun f => !fs.contains f)
    | k => k

/-- All resident entries in order (DEDUCED, assumption 54). -/
def State.residentFate (s : State) (l : Launch) : PageFate :=
  (l.leases.filter fun e => !e.demand).foldl (fun (acc : PageFate) e =>
    match acc with
    | .ok fs => s.pagesFate l e.rw ((e.base + e.len - 1) / 65536 + 1 - e.base / 65536) (e.base / 65536) fs
    | k => k) (.ok [])

/-- RESIDENT_LEASE_CHECK (R305): pins in one step, a residency record, or status LEASE; an abort is counted and logged (R403). -/
def bodyResident (l : Launch) (s : State) : State :=
  match s.residentFate l with
  | .lease none => s.refuseAfter l stLease
  | .lease (some (u, p)) => (s.detected u p 0 0).refuseAfter l stLease
  | .record va tia reason level write =>
    if (s.faultStage l.tid).isNone then s.refuseAfter l stLease
    else ((s.postRecord l.tid (.launch l.ref) fun token =>
      recordWords l.cid va tia 2 reason level write token l.handle 0 0).1).modLaunch l.ref fun l => { l with waiting := true }
  | .ok fs =>
    let fs := fs.eraseDups
    if fs.any fun f => decide (65535 ≤ (s.frame f).pin) then s
    else (fs.foldl (fun s f => s.modFrame f fun d => { d with pin := d.pin + 1 }) s).modLaunch l.ref fun l =>
      { l with leaseOk := true, pins := fs }

def residentDue (s : State) (ref : Nat) : Bool :=
  match s.launch? ref with | some l => l.state = .queued && !l.leaseOk && !l.waiting && !s.lodge.drain | none => false

def execResidentLeaseCheck (ref : Nat) (s : State) : Host.Outcome State Fault Refusal :=
  match s.launch? ref with
  | none => event false s s
  | some l => event (residentDue s ref) (bodyResident l s) s

/-! ## Starting a team (R337) -/

def Batch.empty : BatchSt := ⟨[], false, false, 0, [], 0, false, 0⟩
def EmuEntry.none : EmuEntry := ⟨0, 0, 0, 0, 0x700, 0x700, 0x700, 0x700⟩
def Emu.none : Emu := ⟨0, 0, EmuEntry.none, EmuEntry.none, ⟨0, 0, .none⟩, ⟨0, 0, .none⟩⟩
def TrapSt.none : TrapSt := ⟨0, 0, 0, 0, .none, .none, [], [], false⟩

/-- Every quad of a width. -/
def widthQuads (w : Nat) : W16 := BitVec.ofNat 16 (2 ^ (w / 4) - 1)

/-- %waitlim of a new group (R350, R387). -/
def Ctx.startLimit (c : Ctx) : W32 := if c.waitlim = 0 then BitVec.ofNat 32 Config.waitlimDefault else c.waitlim

/-- A group as it starts (R337) (DEDUCED, assumption 57). -/
def Group.start (ref team gix gid part : Nat) (k : Kernel) (pc param : W64) (limit : W32) : Group where
  ref := ref
  team := team
  gix := gix
  gid := gid
  part := part
  width := k.width
  nregs := k.nregs
  emurow := k.emurow
  regs := {
    lanes := [], scal := if param = 0 then [] else [(1, param)], masks := [], items := [], live := widthLanes k.width, dead := 0
    cc := 0, fpstat := 0, waitlim := limit, opc := 0 }
  qsets := [⟨0, widthQuads k.width, pc, 0, none, none⟩]
  nextTag := 1
  rstack := []
  retstack := []
  flights := []
  busy := []
  trap := TrapSt.none
  emu := Emu.none
  batch := Batch.empty
  run := .run
  preq := false
  pleft := 0
  ready := 0
  lastQuad := 0
  ltMark := 0

/-- The pacer of a team as it starts (R274). -/
def Pacer.start (idx : Nat) (e : PaceEntry) : Pacer :=
  ⟨idx, e.window, e.up, e.down, e.sbslot, e.sbbase, 0, 0xFFFFFFFF#32, [], 0, [], [], []⟩

/-- A team as it is placed (R337): scratchpad zero, tags 0, barriers and stages reset; the pacer initialises stage 7 as the step buffer
(R280). -/
def Team.start (ref launch idx core spadBytes spadBase : Nat) (pace : Option PaceEntry) : Team where
  ref := ref
  launch := launch
  idx := idx
  core := core
  state := .running
  spadBytes := spadBytes
  spadBase := spadBase
  spad := []
  tags := []
  bars := []
  stages := match pace with
    | some e => if e.sbslot = 0 then [] else
        [(7, ⟨e.window, e.sbslot, e.sbbase, 0, List.replicate e.window ⟨.free, 0, 0, false⟩, []⟩)]
    | none => []
  pacer := pace.map (Pacer.start idx)
  tables := []
  status := 0
  cause := .none
  dead := 0
  spilled := ⟨[], [], []⟩
  asked := false
  endLimit := 0
  endWait := 0
  lost := []

/-- L1 lines leave the sets that have fewer ways now (R162). -/
def State.l1Shrink (s : State) (core : Nat) : State :=
  (List.range (s.coreOf core).l1.length).foldl (fun s _ =>
    match (s.coreOf core).l1.find? fun l =>
        decide (s.l1Ways core < ((s.coreOf core).l1.filter fun k => k.gline % 128 = l.gline % 128).length) with
    | some l => match (s.coreOf core).l1Victim (l.gline % 128) with | some v => s.l1Drop core v | none => s
    | none => s) s

/-! ## Claims (R353) -/

/-- Halted teams on a core. -/
def State.haltedOn (s : State) (core : Nat) : List Team := s.teams.filter fun t => t.core = core ∧ t.state = .halted

/-- A group is spilled with its whole context (R353). -/
def State.spillGroup (s : State) (team grp : Nat) : State :=
  s.modTeam team fun t => { t with spilled := { t.spilled with groups := t.spilled.groups ++ [grp] } }

/-- Halted groups of a partition are spilled one after another until the rows and contexts are free (R353) (DEDUCED, assumption 58). -/
def State.claimPart (s : State) (core part rows ctxs : Nat) : State :=
  (s.groups.filter fun g => g.part = part && g.run ≠ .retired && (s.haltedOn core).any fun t => t.ref = g.team).foldl (fun s g =>
    if rows ≤ s.freeRows core part false ∧ ctxs ≤ s.freeCtxs core part false then s
    else if (s.team? g.team).any fun t => t.spilled.groups.contains g.ref then s
    else s.spillGroup g.team g.ref) s

/-- The 64 KiB blocks of halted teams that a run of scratchpad takes are spilled (R353). -/
def State.claimSpad (s : State) (core base size : Nat) : State :=
  (s.haltedOn core).foldl (fun s t =>
    let hit := ((List.range ((size + 4095) / 4096)).filter fun i => t.holdsUnit (base / 4096 + i)).map fun i => (base / 4096 + i) / 16
    (s.loseSpad t fun o => hit.contains ((t.spadBase + o) / 65536)).modTeam t.ref fun t =>
      { t with spilled := { t.spilled with blocks := (t.spilled.blocks ++ hit).eraseDups } }) s

/-- The table set that a partition holds is a halted team's: it is spilled whole (R353). -/
def State.claimTables (s : State) (core part : Nat) : State :=
  match (s.haltedOn core).find? fun t => tget 0 (s.coreOf core).owner part = t.ref + 1 with
  | none => s
  | some t => ((s.loseTables core part).modTeam t.ref fun t => { t with spilled := { t.spilled with tables := (t.spilled.tables ++ [part]).eraseDups } }).modCore core
      fun c => { c with owner := tset 0 c.owner part 0 }

/-- Room for a kernel's team on a core: what is free first, then what halted teams hold (R353); the table sets of the partitions that its
groups take are its own (DEDUCED, assumption 117). The place of its scratchpad. -/
def State.claim (s : State) (core : Nat) (k : Kernel) : State × Nat × Nat :=
  let free := s.partsFit core k false
  let p0 := s.firstPart core (!free)
  let s := (List.range Config.partitions).foldl (fun s p => if groupsOn k.groups p0 p = 0 then s else s.claimTables core p) s
  let s := if free then s else (List.range Config.partitions).foldl (fun s p =>
    s.claimPart core p (groupsOn k.groups p0 p * k.rows) (groupsOn k.groups p0 p)) s
  match s.spadPlace core k.spadBytes false with
  | some b => (s, p0, b)
  | none =>
    let b := (s.spadPlace core k.spadBytes true).getD 0
    (s.claimSpad core b k.spadBytes, p0, b)

/-! ## TEAM_PLACEMENT (R337, R338, R214) -/

/-- One team placed whole on a core, its scratchpad zeroed (R163, R402); the core applies the tenant's acquire action first (R214). -/
def State.placeTeam (s : State) (ref core : Nat) : State :=
  match s.launch? ref with
  | none => s
  | some l =>
    let k := l.kernel
    let (s, p0, base) := s.claim core k
    let team := s.next
    let t := Team.start team ref l.nextTeam core k.spadBytes base (l.pace[l.nextTeam]?)
    let pc := BitVec.ofNat 64 (l.entry + k.first)
    let gs := (List.range k.groups).map fun g =>
      Group.start (team + 1 + g) team g (l.nextTeam * k.groups + g) ((p0 + g) % Config.partitions) k pc l.param (s.ctx l.cid).startLimit
    let s := { s with teams := s.teams ++ [t], groups := s.groups ++ gs, next := s.next + 1 + k.groups }
    let feat := if l.nextTeam = 0 then (s.tenant l.tid).feat else l.feat
    let s := s.modLaunch ref fun l => { l with
      nextTeam := l.nextTeam + 1, feat := feat, groups := l.groups + k.groups
      state := if l.nextTeam + 1 = l.teamCount then .running else .placing }
    ((s.spadRepair team 0 k.spadBytes).l1Shrink core).acquireL1 core l.tid

/-- Eligible (R335): taken in, its dependence satisfied and its resident leases pinned. -/
def Launch.eligible (l : Launch) : Bool := (l.state = .queued && l.depOk && l.leaseOk) || l.state = .placing

/-- Distinct cores for every team of a paced launch, all at once (R271, R338), each chosen by R339; the cores taken so far are left out. -/
def State.ensembleCores (s : State) (l : Launch) : Nat → List Nat → Option (List Nat)
  | 0, _ => some []
  | n + 1, used =>
    let own := (s.paddocksOf l.tid).flatMap fun p => (List.range Config.coresPerPaddock).map fun i => p * Config.coresPerPaddock + i
    match bestCore s (own.filter fun c => !used.contains c && s.ownFits l c) with
    | none => none
    | some c => (State.ensembleCores s l n (c :: used)).map (c :: ·)

/-- The next team of a launch, or every team of a paced one, fits now, and the drain bound allows it (R335, R338, R400). -/
def State.nextFits (s : State) (l : Launch) : Bool :=
  if l.kernel.paced then (s.ensembleCores l l.teamCount []).isSome && s.drainOk l l.teamCount
  else (s.chooseCore l).isSome && s.drainOk l 1

/-- The next team of a launch fits a core of its tenancy, one of its own paddocks or one lent to it (R335, R338), whether or not it may be
placed at this moment. -/
def State.teamFits (s : State) (l : Launch) : Bool := (List.range Config.cores).any fun c => s.ringFits l c || s.lentFits l c

/-- An eligible launch ahead of l: at a higher level of the tenant, or earlier at the same level (R335). -/
def State.aheadOf (s : State) (l : Launch) : List Launch :=
  let before := s.launches.takeWhile fun k => k.ref ≠ l.ref
  s.launches.filter fun k => k.tid = l.tid ∧ k.eligible ∧ (k.prio < l.prio ∨ (k.prio = l.prio ∧ before.any fun b => b.ref = k.ref))

def placementDue (s : State) (ref : Nat) : Bool :=
  match s.launch? ref with
  | none => false
  | some l => !s.lodge.drain && l.eligible && s.nextFits l && (s.aheadOf l).all fun k => !s.teamFits k

/-- The next team is placed on the core that R339 chooses; a paced launch places all its teams at once. Its pace table is read then, once
(R271): one that breaks R273 refuses the launch with KERNEL, and a PACE group that is masked by then with FEATURE (R37, R143). -/
def bodyPlacement (ref : Nat) (s : State) : State :=
  match s.launch? ref with
  | none => s
  | some l =>
    if l.kernel.paced then
      match s.ensembleCores l l.teamCount [] with
      | none => s
      | some cs =>
        match s.readPace l.cid l.paceVa l.teamCount l.kernel.spadBytes with
        | (s, none) => s.refuse ref stKernel
        | (s, some ps) =>
          if !featOn (s.tenant l.tid).feat fgPace then s.refuse ref stFeature
          else cs.foldl (fun s c => s.placeTeam ref c) (s.modLaunch ref fun l => { l with pace := ps })
    else match s.chooseCore l with
      | some c => s.placeTeam ref c
      | none => s

def execTeamPlacement (ref : Nat) (s : State) : Host.Outcome State Fault Refusal :=
  event (placementDue s ref) (bodyPlacement ref s) s

/-! ## Completion (R336, R340) -/

/-- Launches made by groups of a launch. -/
def State.children (s : State) (ref : Nat) : List Launch := s.launches.filter fun l => l.parent = some ref

/-- The completion word (R340). -/
def Launch.doneWord (l : Launch) : W64 := BitVec.ofNat 64 (l.dead % 2 ^ 32 * 2 ^ 32 + 256 + l.status)

/-- The completion word stored as a release; a store that fails is logged, an abort with its own record too, and the launch completes all the
same (R340, R403). -/
def State.storeCword (s : State) (l : Launch) : State :=
  let fail (s : State) : State := s.logErr 2 6 l.tid l.cid 0 0 0
  if l.cword = 0 then s else
  let (s, ok) := s.cwordOk l.cid l.cword
  if !ok then fail s else
  match (s.ctx l.cid).place l.cword with
  | some (_, t) =>
    match s.devWrite l.tid t.tia ((leBytes 8 l.doneWord.toNat).map some) (match t with | .host _ _ => true | _ => false) with
    | (s, .ok _) => s
    | (s, .error e) => fail (s.met e)
  | none => fail s

/-- Teams of a launch that are not ended. -/
def State.liveTeams (s : State) (ref : Nat) : List Team := s.teams.filter fun t => t.launch = ref ∧ t.state ≠ .ended

/-- The actions of R340 in their order. Afterwards the launch and its ended teams are forgotten once no handle names it any more (R135)
(DEDUCED, assumption 59). -/
def bodyComplete (l : Launch) (s : State) : State :=
  let cores := ((s.teams.filter fun t => t.launch = l.ref).map (·.core)).eraseDups
  let s := cores.foldl (fun s c => s.releaseL1 c l.tid) s
  let s := l.pins.foldl (fun s f => s.modFrame f fun d => { d with pin := d.pin - 1 }) s
  let s := s.storeCword l
  let s := if l.irq ∧ l.parent = none then { s with irqs := s.irqs ++ [(l.tid, 0)] } else s
  let s := s.modLaunch l.ref fun l => { l with state := .complete, pins := [] }
  let s : State := { s with teams := s.teams.filter fun t => t.launch ≠ l.ref }
  { s with launches := s.launches.filter fun k => !(k.state == .complete && match k.parent with
      | none => true
      | some p => (match s.launch? p with | some q => q.state == .complete | none => true)) }

/-- Every team ended or cancelled, and every descendant complete (R336). -/
def completionReady (s : State) (ref : Nat) : Bool :=
  match s.launch? ref with
  | none => false
  | some l => l.state = .draining && !s.lodge.drain && (s.liveTeams ref).isEmpty && (s.children ref).all fun k => k.state = .complete

def execLaunchCompletion (ref : Nat) (s : State) : Host.Outcome State Fault Refusal :=
  match s.launch? ref with
  | none => event false s s
  | some l => event (completionReady s ref) (bodyComplete l s) s

end Sys2Proof.Machine
end

