-- ==== Sys2Proof/Machine/Preempt.lean ====
section
/-! DEFINITION. Machine/Preempt.lean: the end of a team (R337), halts (R352), spills, saves and restores (R353 to R355), slices (R356, R357),
temperature reports (R339) and debugger halts (R359). -/

namespace Sys2Proof.Machine

/-! ## Recalled loans (R368) -/

/-- A recalled loan ends once no team of another tenancy stands on the paddock in a state other than SAVED or ENDED. -/
def State.settleLoan (s : State) (p : Nat) : State :=
  if s.lodge.recalls.contains p ∧ s.teams.all (fun u => paddockOf u.core ≠ p || u.state == .ended || u.state == .saved) then
    s.modLodge fun d =>
      { d with loans := terase d.loans p, recalls := d.recalls.filter (· ≠ p), late := d.late.filter (· ≠ p) }
  else s

/-! ## TEAM_END (R290, R337) -/

/-- Lines that a context locks on a core are free again (R175). -/
def State.freeLocks (s : State) (core cid : Nat) : State :=
  let f (l : L1Line) : L1Line := if glineTid l.gline = cid / 4 then { l with lock := l.lock &&& ~~~(1#4 <<< (cid % 4)) } else l
  s.modCore core fun c => { c with l1 := c.l1.map f }

/-- Dead lanes of a team's groups (R340). -/
def State.deadLanes (s : State) (team : Nat) : Nat :=
  ((s.groupsOf team).map fun g => popCount (g.regs.dead &&& widthLanes g.width)).sum

/-- Every lane of every group of the team is dead (R290). -/
def State.allDead (s : State) (team : Nat) : Bool :=
  (s.groupsOf team).all fun g => g.regs.dead &&& widthLanes g.width = widthLanes g.width

/-- Every team of the DOWN list has caught up with the team's FIN, or has ended (R290) (DEDUCED, assumption 61). -/
def State.downDone (s : State) (t : Team) : Bool :=
  match t.pacer with
  | none => true
  | some p => p.down.all fun d => (match s.paceTeam t.launch d with | some u => u.state == .ended | none => true) || stepGe (p.finOf d) p.fin

/-- Copies of the team that the copy engine still works on; what waits for a step is discarded with the team (R258, R264). -/
def State.teamCopies (s : State) (team : Nat) : Bool :=
  s.copies.any fun c => c.team = team && c.phase ≠ .offered && c.phase ≠ .armed

def teamEndDue (s : State) (ref : Nat) : Bool :=
  match s.team? ref with
  | none => false
  | some t =>
    t.state = .ending && !s.lodge.drain && (s.groupsOf ref).all (fun g => g.flights.isEmpty) && !s.teamCopies ref
      && (s.downDone t || s.allDead ref || decide (t.endLimit ≤ t.endWait))

/-- The launch's account of an ended team: the first abnormal status stands and cancels what is not placed; with no team left it drains
(R336) (DEDUCED, assumption 93). -/
def State.countEnd (s : State) (l : Launch) (status dead : Nat) : State :=
  let s := s.modLaunch l.ref fun l =>
    { l with
      ended := l.ended + 1, dead := l.dead + dead
      status := if l.status = 0 then status else l.status
      nextTeam := if status ≠ 0 then max l.nextTeam l.teamCount else l.nextTeam }
  if (s.liveTeams l.ref).isEmpty then
    s.modLaunch l.ref fun l => if l.teamCount ≤ l.nextTeam ∧ (l.state = .running ∨ l.state = .placing) then { l with state := .draining } else l
  else s.modLaunch l.ref fun l => if l.teamCount ≤ l.nextTeam ∧ l.state = .placing then { l with state := .running } else l

/-- The team reaches ENDED (R337): its resources are free, its copies that never fired and its records are gone, its status is recorded. -/
def bodyTeamEnd (t : Team) (l : Launch) (s : State) : State :=
  let dead := s.deadLanes t.ref
  let gs := (s.groupsOf t.ref).map (·.ref)
  let s := s.modTeam t.ref fun t =>
    { t with state := .ended, dead := dead, spad := [], tags := [], bars := [], stages := [], tables := [], asked := false, lost := [] }
  let s : State := { s with
    groups := s.groups.filter (fun g => g.team ≠ t.ref)
    copies := s.copies.filter (fun c => c.team ≠ t.ref)
    finMsgs := s.finMsgs.filter (fun m => m.1 ≠ t.ref) }
  let s := s.modCore t.core fun c => { c with owner := c.owner.filter fun o => o.2 ≠ t.ref + 1 }
  let s := s.modTenant l.tid fun u => { u with recs := u.recs.filter fun r =>
    match r.what with | .group g | .load g => !gs.contains g | _ => true }
  let s := if s.teams.any (fun u => u.core = t.core && u.state ≠ .ended && u.state ≠ .saved
      && s.launches.any fun k => k.ref = u.launch && k.cid = l.cid) then s else s.freeLocks t.core l.cid
  (s.countEnd l t.status dead).settleLoan (paddockOf t.core)

def execTeamEnd (ref : Nat) (s : State) : Host.Outcome State Fault Refusal :=
  match s.team? ref with
  | none => event false s s
  | some t => match s.launch? t.launch with
    | some l => event (teamEndDue s ref) (bodyTeamEnd t l s) s
    | none => event false s s

/-! ## Halting a team (R351, R352) -/

/-- The deadline G (R352). -/
def deadline (pdeadline yieldBound : Nat) : Nat := if yieldBound = 0 then pdeadline else min pdeadline (256 * yieldBound)

/-- The request to a group: REQ and LEFT; it halts where it stands at a yield point. -/
def Group.ask (g : Group) (left : Nat) : Group :=
  if g.run = .run then { g with preq := true, pleft := left }.halt else g

/-- The request to every group of a team that has not had it (R352 step 1). -/
def State.askGroups (s : State) (t : Team) : State :=
  let y := match s.launch? t.launch with | some l => l.kernel.yieldBound | none => 0
  { s with groups := s.groups.map fun g => if g.team = t.ref ∧ !g.preq then g.ask (deadline s.lodge.pdeadline y) else g }

/-- The request to a team (R352 step 1). On a core that a debugger holds it takes effect when the halt is released (R359). -/
def State.askTeam (s : State) (ref : Nat) : State :=
  match s.team? ref with
  | none => s
  | some t =>
    if t.state ≠ .running ∨ t.asked then s else
    let s := s.modTeam ref fun t => { t with asked := true }
    if s.debugHeld t.core then s else s.askGroups t

/-- Teams that halt together: a paced ensemble, or the team alone (R290, R356). -/
def State.ensemble (s : State) (t : Team) : List Team :=
  if t.paced then s.teams.filter fun u => u.launch = t.launch ∧ u.state ≠ .ended else [t]

/-- The request to several teams and to the ensembles that they are in. -/
def State.askAll (s : State) (ts : List Team) : State :=
  (ts.flatMap fun t => s.ensemble t).foldl (fun s t => s.askTeam t.ref) s

/-- Every group has halted and nothing is in flight: the team is HALTED, REQ and LEFT are clear (R352 step 4). -/
def State.settleHalt (s : State) (ref : Nat) : State :=
  match s.team? ref with
  | none => s
  | some t =>
    let gs := s.groupsOf ref
    if t.asked ∧ t.state = .running ∧ gs.any (fun g => g.run ≠ .retired)
        ∧ gs.all (fun g => (g.run = .halted || g.run = .retired) && g.flights.isEmpty) then
      { s.modTeam ref (fun t => { t with state := .halted, asked := false }) with
        groups := s.groups.map fun g => if g.team = ref then { g with preq := false, pleft := 0 } else g }
    else s

/-- Every team that has been asked, looked at again. -/
def State.settleHalts (s : State) : State := (s.teams.filter fun t => t.asked).foldl (fun s t => s.settleHalt t.ref) s

def forcedDue (s : State) (ref : Nat) : Bool :=
  match s.team? ref with
  | some t => t.asked && !s.debugHeld t.core && (s.groupsOf ref).any fun g => g.run = .run && g.preq && g.pleft = 0
  | none => false

/-- FORCED_HALT (R352 step 3): what has not halted halts at its instruction boundary; what is in flight completes. -/
def bodyForced (ref : Nat) (s : State) : State :=
  match s.team? ref with
  | none => s
  | some t =>
    let s : State := { s with
      groups := s.groups.map fun g => if g.team = ref ∧ g.run = .run then { g with run := .halted } else g }
    let tid := match s.launch? t.launch with | some l => l.tid | none => 0
    (s.modTenant tid fun u => { u with forcedh := bump u.forcedh 1 }).settleHalt ref

def execForcedHalt (ref : Nat) (s : State) : Host.Outcome State Fault Refusal :=
  event (forcedDue s ref) (bodyForced ref s) s

/-! ## Saving and restoring (R353 to R355) -/

/-- A team of a tenant that a team's launch belongs to. -/
def State.tidOf (s : State) (t : Team) : Nat := match s.launch? t.launch with | some l => l.tid | none => 0
def State.cidOf (s : State) (t : Team) : Nat := match s.launch? t.launch with | some l => l.cid | none => 0

/-- A halted team can be saved, but on a core that a debugger holds its state is stable (R359). -/
def saveDue (s : State) (ref : Nat) : Bool := match s.team? ref with | some t => t.state = .halted && !s.debugHeld t.core && !s.lodge.drain | none => false

/-- TEAM_SAVE (R353): every part is spilled, but for words that fail their check (R373); the core releases the tenant's lines (R199, R216), its
locks are gone (R175) and its table sets leave the partitions. -/
def bodySave (t : Team) (s : State) : State :=
  let s := s.releaseL1 t.core (s.tidOf t)
  let s := s.freeLocks t.core (s.cidOf t)
  let s := (((s.coreOf t.core).owner.filter fun o => o.2 = t.ref + 1).map (·.1)).foldl (fun s p => s.loseTables t.core p) s
  let s := s.loseSpad t fun _ => true
  let s := s.modCore t.core fun c => { c with owner := c.owner.filter fun o => o.2 ≠ t.ref + 1 }
  let s := s.modTeam t.ref fun t => { t with state := .saved, spilled := ⟨[], [], []⟩ }
  let s : State := { s with groups := s.groups.map fun g => if g.team = t.ref ∧ g.run ≠ .retired then { g with run := .saved } else g }
  s.settleLoan (paddockOf t.core)

def execTeamSave (ref : Nat) (s : State) : Host.Outcome State Fault Refusal :=
  match s.team? ref with
  | none => event false s s
  | some t => event (saveDue s ref) (bodySave t s) s

/-- The team's tenancy has its turn where the team is: its own slice, or a loan that is not recalled. -/
def State.turn (s : State) (t : Team) : Bool :=
  let p := paddockOf t.core
  !s.leaving p (s.tidOf t) && (s.inSlice p (s.tidOf t) || (s.lentTo p = s.tidOf t && !s.lodge.recalls.contains p))

/-- Every spilled part of a halted team can return to its place (R353); the place of a table set is taken while the partition holds the set
of a team that is neither halted nor gone. -/
def State.canReturn (s : State) (t : Team) : Bool :=
  let gs := (s.groupsOf t.ref).filter fun g => t.spilled.groups.contains g.ref
  ((List.range Config.partitions).all fun p =>
      let mine := gs.filter fun g => g.part = p
      decide ((mine.map Group.rows).sum ≤ s.freeRows t.core p false) && decide (mine.length ≤ s.freeCtxs t.core p false))
    && (t.spilled.blocks.all fun b => (List.range 16).all fun i =>
      let u := 16 * b + i
      !({ t with spilled := ⟨[], [], []⟩ }.holdsUnit u) || !((s.holders t.core false).any fun k => k.ref ≠ t.ref && k.holdsUnit u))
    && t.spilled.tables.all fun p => !((s.holders t.core true).any fun k => k.ref ≠ t.ref && tget 0 (s.coreOf t.core).owner p == k.ref + 1)

/-- A halted team whose parts can all return runs again (R353), with the tenant's acquire action (R216); what is missing from a part that was
spilled kills its groups (R374). -/
def State.resumeTeam (s : State) (t : Team) : State :=
  let s := s.modTeam t.ref fun t => { t with state := .running, spilled := ⟨[], [], []⟩ }
  let s : State := { s with groups := s.groups.map fun g =>
    if g.team = t.ref ∧ (g.run = .halted ∨ g.run = .saved) then { g with run := .run } else g }
  (s.acquireL1 t.core (s.tidOf t)).restoreLost ((s.team? t.ref).getD t) fun b => b.1 = 2

/-- Halted teams that may run again: each in its turn with its parts free, on a core that no debugger holds (R359), and a paced ensemble only
all together (R290, R356); one of it that has nothing left to run holds nothing back. -/
def State.mayResume (s : State) (t : Team) : Bool :=
  (s.ensemble t).all fun u => u.state == .ending || (u.state == .halted && !s.debugHeld u.core && s.turn u && s.canReturn u)

/-- The ensemble of a team resumes, if it may. -/
def State.resumeAll (s : State) (t : Team) : State :=
  if s.mayResume t then ((s.ensemble t).filter fun u => u.state = .halted).foldl (fun s u => s.resumeTeam u) s else s

/-- The core for a saved team: as its launch's next team, the cores of its own ensemble left out (R338, R355). -/
def State.restoreCore (s : State) (t : Team) : Option Nat := match s.launch? t.launch with | some l => s.chooseCore l | none => none

/-- Table sets by partition after a move by `d` partitions: they go with the groups that use them (R354, R355). -/
def moveTables (ts : Tbl TableSet) (d : Nat) : Tbl TableSet :=
  ts.foldl (fun m (p, k) => tput m ((p + d) % Config.partitions) k) []

/-- p0 of a team as it stands (R338). -/
def State.partBase (s : State) (team : Nat) : Nat :=
  match s.groupsOf team with
  | g :: _ => (g.part + Config.partitions - g.gix % Config.partitions) % Config.partitions
  | [] => 0

/-- A saved team placed whole on a core (R355): its groups take partitions as at placement, the retired ones in name; its tables move with
it, and so do its copies that no copy unit has taken yet (R249, R264, R270); the core applies the acquire action; what is missing from the
saved state kills its groups (R374); it runs at once, or with its ensemble. -/
def State.restoreOn (s : State) (t : Team) (core : Nat) : State :=
  match s.launch? t.launch with
  | none => s
  | some l =>
    let old := s.partBase t.ref
    let (s, p0, base) := s.claim core l.kernel
    let t' := { t with
      core := core, spadBase := base, state := .halted, tables := moveTables t.tables (p0 + Config.partitions - old) }
    let s := s.modTeam t.ref fun _ => t'
    let s : State := { s with
      groups := s.groups.map fun g => if g.team = t.ref then
        { g with run := if g.run = .retired then .retired else .halted, part := (p0 + g.gix) % Config.partitions } else g
      copies := s.copies.map fun c => if c.team = t.ref ∧ (c.phase = .armed ∨ c.phase = .offered) then { c with core := core } else c }
    (((s.l1Shrink core).acquireL1 core l.tid).restoreLost t fun _ => true).resumeAll t'

/-- A saved team fits a core again, or a halted one with spilled parts may go on where it is. -/
def restoreDue (s : State) (ref : Nat) : Bool :=
  match s.team? ref with
  | none => false
  | some t => !s.lodge.drain && match t.state with
    | .saved => (s.restoreCore t).isSome
    | .halted => s.mayResume t
    | _ => false

/-- TEAM_RESTORE (R353, R355). -/
def bodyRestore (t : Team) (s : State) : State :=
  match t.state with
  | .saved => match s.restoreCore t with
    | some c => s.restoreOn t c
    | none => s
  | _ => s.resumeAll t

def execTeamRestore (ref : Nat) (s : State) : Host.Outcome State Fault Refusal :=
  match s.team? ref with
  | none => event false s s
  | some t => event (restoreDue s ref) (bodyRestore t s) s

/-! ## Slices (R356, R357) -/

/-- Teams of a tenancy on a paddock in a state other than SAVED or ENDED. -/
def State.teamsOn (s : State) (p tid : Nat) : List Team :=
  s.teams.filter fun t => paddockOf t.core = p ∧ s.tidOf t = tid ∧ t.state ≠ .saved ∧ t.state ≠ .ended

/-- What a paddock's cores would have if the tenancy's slice had begun. -/
def State.withSlice (s : State) (p tid : Nat) (len : Nat := 0) : State := s.modLodge fun d => { d with slices := tput d.slices p ⟨tid, len, false⟩ }

/-- The paddock as it is once the teams of every other tenancy have halted there. -/
def State.othersHalted (s : State) (p tid : Nat) : State :=
  { s with teams := s.teams.map fun t =>
      if paddockOf t.core = p ∧ s.tidOf t ≠ tid ∧ t.state = .running then { t with state := .halted } else t }

/-- An eligible launch of the tenancy has a team that fits the paddock's cores, which the slice's end leaves to it (R356). -/
def State.wantsPaddock (s : State) (p tid : Nat) : Bool :=
  let v := (s.othersHalted p tid).withSlice p tid
  s.launches.any fun l => l.tid = tid && l.eligible && (List.range Config.coresPerPaddock).any fun i =>
    v.ownFits l (p * Config.coresPerPaddock + i)

/-- A tenancy is skipped at its turn: no team on the paddock, and no launch that could place one (R356). -/
def State.skipped (s : State) (p tid : Nat) : Bool := (s.teamsOn p tid).isEmpty && !s.wantsPaddock p tid

/-- The tenancies of a ring that come after one, in ring order, that one last. -/
def ringAfter (ring : List Nat) (tid : Nat) : List Nat :=
  match ring.dropWhile (· ≠ tid) with
  | [] => ring
  | _ :: t => t ++ ring.takeWhile (· ≠ tid) ++ [tid]

/-- The tenancy whose slice comes next (R356). -/
def State.nextSlice (s : State) (p : Nat) : Option Nat := (ringAfter (s.ring p) (s.slice p).tid).find? fun t => !s.skipped p t

/-- The previous slice has ended on every core of the paddock: none of its teams runs there. One that only waits for its end has nothing
to halt. -/
def State.paddockFree (s : State) (p : Nat) : Bool :=
  (s.slice p).tid = 0 || !(s.ring p).contains (s.slice p).tid
    || ((s.slice p).ending && (s.teamsOn p (s.slice p).tid).all fun t => t.state == .halted || t.state == .ending)

def sliceBeginDue (s : State) (p tid : Nat) : Bool :=
  decide (p < Config.paddocks) && !s.lodge.drain && decide (2 ≤ (s.ring p).length) && s.paddockFree p && s.nextSlice p = some tid

/-- A placement of the tenancy on the paddock that could be made now: a saved team put back, or a launch's next team. -/
def State.comes (s : State) (p tid : Nat) : Option State :=
  match s.teams.find? fun t => t.state = .saved ∧ s.tidOf t = tid ∧ (s.restoreCore t).any fun c => paddockOf c = p with
  | some t => some (bodyRestore t s)
  | none => (s.launches.find? fun l => l.tid = tid ∧ placementDue s l.ref
      ∧ if l.kernel.paced then (s.ensembleCores l l.teamCount []).any fun cs => cs.any fun c => paddockOf c = p
        else (s.chooseCore l).any fun c => paddockOf c = p).map fun l => bodyPlacement l.ref s

/-- The placements that come as a slice begins, at most n. -/
def State.incoming (p tid : Nat) : Nat → State → State
  | 0, s => s
  | n + 1, s => match s.comes p tid with
    | some t => State.incoming p tid n t
    | none => s

/-- Bytes of what is spilled of a core's halted teams: rows, scratchpad bytes in the blocks, table sets (R353, R358). -/
def State.spilledBytes (s : State) (core : Nat) : Nat :=
  ((s.haltedOn core).map fun t =>
    (((s.groupsOf t.ref).filter fun g => t.spilled.groups.contains g.ref).map fun g => 256 * g.rows).sum
      + (t.spilled.blocks.map fun b => min (t.spadBase + t.spadBytes) (65536 * (b + 1)) - max t.spadBase (65536 * b)).sum
      + Config.tableSetBytes * t.spilled.tables.length).sum

/-- The tenancy's halted teams on the paddock as its slice begins: they resume in place, and one whose parts are still held is saved, to be
placed again (R353, R356). -/
def State.sliceTeams (s : State) (p tid : Nat) : State :=
  let s := s.withSlice p tid
  (s.teamsOn p tid).foldl (fun s t =>
    if t.state ≠ .halted then s else if s.canReturn t then s.resumeAll t else bodySave t s) s

/-- E in nanoseconds (R357): the claims that the incoming placements make on the core where they are dearest, at B_SAVE, and T_FIX (R358);
among them those of the saved teams that are placed again (DEDUCED, assumption 16). -/
def State.switchCost (s : State) (p tid : Nat) : Nat :=
  let v := s.sliceTeams p tid
  let w := State.incoming p tid (32 * Config.coresPerPaddock) v
  ((List.range Config.coresPerPaddock).map fun i =>
    w.spilledBytes (p * Config.coresPerPaddock + i) - v.spilledBytes (p * Config.coresPerPaddock + i)).foldl max 0 / 200 + 3000

/-- Programmed slice length of a tenancy on a paddock in 10 µs units. -/
def State.sliceLen (s : State) (p tid : Nat) : Nat := match (asRing (s.assign p)).find? fun e => e.1 = tid with | some e => e.2 | none => 1

/-- SLICE_BEGIN (R356): the slice is the tenancy's, and its halted teams resume or are saved; a slice shorter than E lasts 2E instead, which
is counted (R357). -/
def bodySliceBegin (p tid : Nat) (s : State) : State :=
  let cost := s.switchCost p tid
  let short := s.sliceLen p tid * 10000 < cost
  let s := (s.sliceTeams p tid).withSlice p tid (if short then 2 * cost else s.sliceLen p tid * 10000)
  if short then s.modTenant tid fun t => { t with sliceovr := bump t.sliceovr 1 } else s

def execSliceBegin (p tid : Nat) (s : State) : Host.Outcome State Fault Refusal :=
  event (sliceBeginDue s p tid) (bodySliceBegin p tid s) s

/-- SLICE_END (R356): the request goes to every team of the tenancy on the paddock; where every other tenancy would be skipped, the slice is
renewed without a halt. A debugger's halt puts the end off (R359). -/
def sliceEndDue (s : State) (p : Nat) : Bool :=
  decide (2 ≤ (s.ring p).length) && (s.slice p).tid ≠ 0 && !(s.slice p).ending && !s.lodge.drain
    && (List.range Config.coresPerPaddock).all fun i => (s.coreOf (p * Config.coresPerPaddock + i)).dbg.state = 0

def bodySliceEnd (p : Nat) (s : State) : State :=
  let tid := (s.slice p).tid
  if (s.ring p).all fun t => t == tid || s.skipped p t then s else
  let s := s.modLodge fun d => { d with slices := tput d.slices p { s.slice p with ending := true } }
  (s.askAll (s.teamsOn p tid)).settleHalts

def execSliceEnd (p : Nat) (s : State) : Host.Outcome State Fault Refusal := event (sliceEndDue s p) (bodySliceEnd p s) s

/-! ## TEMPERATURE_REPORT (R339) -/

/-- The class of a core after a report. -/
def hotAfter (d : Lodge) (hot : Bool) (temp droop : Nat) : Bool :=
  if hot then !(decide (temp + d.hyst ≤ d.thot) && decide (2 * droop < d.dlim))
  else decide (d.thot ≤ temp) || decide (d.dlim ≤ droop)

/-- A core reports its temperature and the droop events of the last 100 µs: those counted since its last report, and `older` that lie
before it (R339, R399) (DEDUCED, assumption 60). -/
def State.report (s : State) (core temp older : Nat) : State :=
  s.modCore core fun c =>
    let droop := c.droops + older
    { c with reported := true, hot := hotAfter s.lodge c.hot temp droop, temp := temp, droop := droop, droops := 0 }

def execTemperatureReport (core temp droop : Nat) (s : State) : Host.Outcome State Fault Refusal :=
  event (decide (core < Config.cores)) (s.report core temp droop) s

/-! ## Debugger halts (R359) -/

/-- The debug word of a core as a tenant reads it (R359): 0 where it is closed to the tenant. -/
def Debug.word (d : Debug) : W64 :=
  BitVec.ofNat 64 ((if d.halt then 256 else 0) + (if d.brkhalt then 16 else 0) + d.state)

/-- The tenancy may write a core's debug word: its OWNER, while no other tenancy shares the paddock. -/
def State.debugOpen (s : State) (tid core : Nat) : Bool :=
  decide (core < Config.cores) && s.fnOn tid && s.owner (paddockOf core) = tid && tid ≠ 0 && (s.ring (paddockOf core)).length = 1

/-- Teams of another tenancy run on the core through lending. -/
def State.lentOn (s : State) (tid core : Nat) : Bool :=
  s.teams.any fun t => t.core = core && t.state ≠ .ended && t.state ≠ .saved && s.tidOf t ≠ tid

/-- A write of HALT = 1: the core begins to halt. -/
def bodyDebugHalt (core : Nat) (w : W64) (s : State) : State :=
  s.modCore core fun c => { c with dbg := ⟨true, bit w 4, if c.dbg.state = 0 then 1 else c.dbg.state⟩ }

def execDebugHaltRequest (tid core : Nat) (w : W64) (s : State) : Host.Outcome State Fault Refusal :=
  hostEvent tid (s.debugOpen tid core && bit w 8 && !s.lentOn tid core) (bodyDebugHalt core w s) s

/-- What is in flight on the core has completed; a team that is saved or has ended is not on it. -/
def State.coreQuiet (s : State) (core : Nat) : Bool :=
  (s.teams.filter fun t => t.core = core ∧ t.state ≠ .saved ∧ t.state ≠ .ended).all fun t => (s.groupsOf t.ref).all fun g => g.flights.isEmpty

def execDebugHaltComplete (core : Nat) (s : State) : Host.Outcome State Fault Refusal :=
  event ((s.coreOf core).dbg.state = 1 && s.coreQuiet core)
    (s.modCore core fun c => { c with dbg := { c.dbg with state := 2 } }) s

/-- A core that a debugger releases (R359, R364), with BRKHALT as given: a request that came during the halt takes effect now. -/
def State.release (s : State) (core : Nat) (brkhalt : Bool) : State :=
  let s := s.modCore core fun c => { c with dbg := ⟨false, brkhalt, 0⟩ }
  ((s.teams.filter fun t => t.core = core ∧ t.asked ∧ t.state = .running).foldl (fun s t => s.askGroups t) s).settleHalts

def execDebugResume (tid core : Nat) (w : W64) (s : State) : Host.Outcome State Fault Refusal :=
  hostEvent tid (s.debugOpen tid core && !bit w 8) (s.release core (bit w 4)) s

end Sys2Proof.Machine
end

