-- ==== Sys2Proof/Machine/Shadow.lean ====
section
/-! DEFINITION. Machine/Shadow.lean: the shadow units (R378 to R381): which elements they compare, and what a divergence does. Whether a
unit's result y is wrong is the environment's to say, and a wrong y may lie anywhere: so of the tests of R378 the model computes z and its
uncertain cases, and a lane for which z is compared may be the one that diverges. -/

namespace Sys2Proof.Machine

/-! ## The shadow's result (R378) -/

/-- An operand, its fraction truncated to 12 bits below its leading bit, so that the shadow's own error stays below 2^(E−6) for a subnormal one
too (R378). -/
def FVal.trunc12 : FVal → FVal
  | .fin n m e => .fin n (m / 2 ^ (bitLen m - 13) * 2 ^ (bitLen m - 13)) e
  | v => v

/-- The exponent of a finite nonzero value. -/
def topExp (m : Nat) (e : Int) : Int := (bitLen m : Int) + e - 1

/-- A finite value other than zero. -/
def FVal.nonzero : FVal → Bool
  | .fin _ m _ => m ≠ 0
  | _ => false

/-- The shadow's result z is compared: it is finite and normal in the destination's format, and its exponent E lies at most `slack` below
that of the largest addend. -/
def shadowSure (f : FFmt) (slack : Int) (addends : List FVal) (z : FVal) : Bool :=
  match z with
  | .fin _ m e => m ≠ 0 && decide (1 - (f.bias : Int) ≤ topExp m e) && decide (topExp m e ≤ 2 ^ f.eb - 2 - (f.bias : Int))
      && addends.all fun a => match a with | .fin _ k d => k = 0 || decide (topExp k d ≤ topExp m e + slack) | _ => false
  | _ => false

/-- What a checked lane instruction computes. -/
inductive ShadowOp where
  | add | sub | mul | div | sqrt
  | fma (np nd : Bool)
  | scale (n : Int)
  deriving DecidableEq, Repr

/-- The values that are added, and the result from truncated operands x, y and d. -/
def ShadowOp.eval (o : ShadowOp) (x y d : FVal) : List FVal × FVal :=
  match o with
  | .add => ([x, y], (faddV 0 x y).1)
  | .sub => ([x, y], (faddV 0 x (fneg y)).1)
  | .mul => ([], (fmulV x y).1)
  | .fma np nd =>
    let p := (fmulV x y).1
    ([p, d], (faddV 0 (if np then fneg p else p) (if nd then fneg d else d)).1)
  | .div => ([], match x, y with
      | .fin na ma ea, .fin nb mb eb => if mb = 0 then .nan false else .fin (na != nb) (ma * 2 ^ 64 / mb) (ea - eb - 64)
      | _, _ => .nan false)
  | .sqrt => ([], match x with
      | .fin false m e =>
        let h : Nat × Int := if e % 2 = 0 then (m, e) else (2 * m, e - 1)
        .fin false (isqrt (h.1 * 2 ^ 64) 64 0) (h.2 / 2 - 32)
      | _ => .nan false)
  | .scale n => ([], match x with | .fin s m e => .fin s m (e + n) | v => v)

/-- The operands that an operation reads. -/
def ShadowOp.reads (o : ShadowOp) (x y d : FVal) : List FVal :=
  match o with
  | .sqrt | .scale _ => [x]
  | .fma _ _ => [x, y, d]
  | _ => [x, y]

/-- An element can diverge: no operand is a NaN, an infinity or zero, and z is not uncertain (R378). -/
def ShadowOp.sure (o : ShadowOp) (f : FFmt) (a b c : Nat) : Bool :=
  let v (k : Nat) : FVal := (fdec f k).trunc12
  let r := o.eval (v a) (v b) (v c)
  (o.reads (fdec f a) (fdec f b) (fdec f c)).all (·.nonzero) && shadowSure f 2 r.1 r.2

/-- A lane of a checked instruction that is about to issue can diverge: some element of it can (R378). -/
def shadowLane (x : Iss) (i : Instr) (l : Nat) : Bool :=
  let at3 (o : Nat → ShadowOp) (vd va vb ty : Nat) : Bool := (felems ty).any fun e =>
    let n := f64Regs ty
    (o e).sure (fmtOfTy ty) (felem x (x.op n va) ty e l) (felem x (x.op n vb) ty e l) (felem x (x.op n vd) ty e l)
  match i with
  | .vfadd vd va vb _ ty => at3 (fun _ => .add) vd.toNat va.toNat vb.toNat ty.toNat
  | .vfsub vd va vb _ ty => at3 (fun _ => .sub) vd.toNat va.toNat vb.toNat ty.toNat
  | .vfmul vd va vb _ ty => at3 (fun _ => .mul) vd.toNat va.toNat vb.toNat ty.toNat
  | .vfma vd va vb _ ty => at3 (fun _ => .fma false false) vd.toNat va.toNat vb.toNat ty.toNat
  | .vfms vd va vb _ ty => at3 (fun _ => .fma false true) vd.toNat va.toNat vb.toNat ty.toNat
  | .vfnma vd va vb _ ty => at3 (fun _ => .fma true false) vd.toNat va.toNat vb.toNat ty.toNat
  | .vfsqrt vd va _ ty => at3 (fun _ => .sqrt) vd.toNat va.toNat va.toNat ty.toNat
  | .vfscale vd va vb _ ty =>
    let b := x.v (x.op 1 vb.toNat) 0 l
    at3 (fun e => .scale (if ty.toNat < 2 then b.toInt else sext 16 (elem b 16 e))) vd.toNat va.toNat va.toNat ty.toNat
  | _ => false

/-- A lane of a division in flight can diverge. -/
def divideLane (f : Flight) (l : Nat) : Bool :=
  match f.instr with
  | .vfdiv _ _ _ _ f64 _ =>
    let n := f64Regs f64.toNat
    f.accs.any fun a => a.lane = l && ShadowOp.div.sure (fmtOfTy f64.toNat) (leNat (wordsBytes (a.data.take n)))
      (leNat (wordsBytes (a.data.drop n))) 0
  | _ => false

/-! ## Matrix rows (R380) -/

/-- A float chunk adder compares a chunk: its addends are the products and the accumulator, and E is not below the largest of them; the
operands of a pruned element are none. -/
def chunkSure (f : FFmt) (acc : FVal) (operands products : List FVal) : Bool :=
  let addends := acc.trunc12 :: products
  (acc :: operands).all (·.nonzero) && shadowSure f 0 addends (chunkSum addends)

/-- Operands of a product, truncated, with the terms that it adds. -/
def truncPair (p : MElem × Option MElem) : MElem × Option MElem :=
  let cut : MElem → MElem
    | .flt v => .flt v.trunc12
    | .cpx r i => .cpx r.trunc12 i.trunc12
    | .int i => .int i
  (cut p.1, p.2.map cut)

def partsOf : MElem → List FVal
  | .cpx r i => [r, i]
  | e => [e.f]

/-- Some chunk of one accumulator element is compared: c is the element's code as the engine holds it, ps its products in order. An integer
chunk carries a residue check, which compares every chunk. -/
def elemSure (o : MOp) (rm : Nat) (scaled : Bool) (c : Nat) (ps : List (MElem × Option MElem)) : Bool :=
  if o.cf = 0x0C ∨ scaled then !ps.isEmpty else
  let live (ch : List (MElem × Option MElem)) : List FVal :=
    ch.flatMap fun p => match p.2 with | some b => partsOf p.1 ++ partsOf b | none => []
  ((piecesOf (if o.cf = 0x00 then 1 else 8) ps).foldl (fun (r : Bool × Nat) ch =>
    let cut := ch.map truncPair
    (r.1 || (if o.cf = 0x1F then
          chunkSure fF32 (fdec fF32 (r.2 % 2 ^ 32)) (live ch) (cut.flatMap realTerms)
            || chunkSure fF32 (fdec fF32 (r.2 / 2 ^ 32)) (live ch) (cut.flatMap imagTerms)
        else
          let f := if o.cf = 0x00 then fF64 else fF32
          chunkSure f (fdec f r.2) (live ch) (cut.map mprod)),
      matrixElem o.cf rm false false [] r.2 ch)) (false, c)).1

/-- A row of a matrix operation that is about to consume its operands can diverge. -/
def State.matrixLane (s : State) (g : Group) (f : Flight) (t : Team) (l : Nat) : Bool :=
  let bd := f.opnds.headD 0
  let o := mop (isMms f.instr) f.fmt bd
  let set := t.tableSet g.part
  let tile := o.tile set bd
  let row := rowElems o (aRow f o t s.free l)
  (List.range 16).any fun n => elemSure o (fmtRm f.fmt) (bit f.fmt 18) (accOf f o l n) (row.zip (bColumn o set bd tile n))

/-! ## A divergence (R379) -/

/-- A checked instruction that has yet to write its results: its flight, none where it is the word that a quad-set issues next, its
quad-set, its pc, and those of some lanes of it that can diverge. -/
structure Shadowed where
  src : Option Nat
  tag : Nat
  pc : W64
  lanes : W64
  deriving DecidableEq, Repr

/-- Of some lanes, those for which a test holds. -/
def lanesWhere (lanes : W64) (p : Nat → Bool) : W64 := maskOf fun l => bit lanes l && p l

/-- A checked instruction in flight, with those of the lanes that can diverge (R378, R380). -/
def State.shadowFlight (s : State) (g : Group) (lanes : W64) (f : Flight) : Option Shadowed :=
  let lanes := lanes &&& f.exec &&& ~~~g.regs.dead
  let hit :=
    if isMatrixOp f.instr then
      (if consumeDue s g.ref f.fid then match s.team? g.team with
        | some t => lanesWhere lanes fun l => s.matrixLane g f t l
        | none => 0 else 0)
    else lanesWhere lanes (divideLane f)
  if hit = 0 then none else some ⟨some f.fid, f.tag, f.pc, hit⟩

/-- A checked instruction that a quad-set comes to next and that executes there, being neither undefined nor masked (R36, R37). -/
def State.shadowNext (s : State) (g : Group) (lanes : W64) (q : QSet) : Option Shadowed :=
  match s.issAt g.ref q.tag, q.word?, q.instr? with
  | some x, some w, some i =>
    if g.trap.mode.isSome || q.hold.isSome || !x.mayRun || (g.trap.waits && !g.trap.ahead q) || undefHere x i
        || (staticFeats i).any (fun f => !featOn x.l.feat f) then none
    else
      let hit := lanesWhere (lanes &&& x.exec (wordMask x.l.kernel.isa w)) (shadowLane x i)
      if hit = 0 then none else some ⟨none, q.tag, q.pc, hit⟩
  | _, _, _ => none

/-- The checked instruction of the group of which some of the lanes can diverge: the oldest in flight, otherwise the one that a quad-set
issues next (R379: before it completes). -/
def State.shadowAt (s : State) (g : Group) (lanes : W64) : Option Shadowed :=
  (g.flights.findSome? (s.shadowFlight g lanes)).orElse fun _ => g.qsets.findSome? (s.shadowNext g lanes)

/-- The SHADOW trap of an instruction: one for each, with the lowest lane that has died of it (R379, R343). -/
def TrapSt.shadow (t : TrapSt) (h : Shadowed) (lane : Nat) : TrapSt :=
  let mine (k : ShadowTrap) : Bool := k.src = h.src && k.trap.tag = h.tag && k.trap.pc = h.pc
  if t.shadows.any mine then
    { t with shadows := t.shadows.map fun k =>
        if mine k then { k with trap := { k.trap with detail := laneDetail (min lane (k.trap.detail.toNat % 64)) 0 } } else k }
  else { t with shadows := t.shadows ++ [⟨⟨tcShadow, h.pc, 0, laneDetail lane 0, h.tag, false⟩, h.src⟩] }

/-- A shadow divergence (R379, R380; unit 16 is the model's own name for the shadow units): `redo` lanes run again, each counted in SHRETRY;
the lanes of `die` diverge again and die, so the instruction does not write them (R10). A SHADOW trap follows the instruction (R343)
(DEDUCED, assumption 31) (DEDUCED, assumption 32). -/
def bodyShadow (grp : Nat) (die redo : W64) (s : State) : State :=
  match s.group? grp with
  | none => s
  | some g =>
    match s.shadowAt g (redo ||| die) with
    | none => s
    | some h =>
      let die := die &&& h.lanes
      let who : Nat × Nat := match s.homeOf g with | some (_, l) => (l.tid, l.cid) | none => (0, 0)
      let s := s.modTenant who.1 fun t => { t with shretry := bump t.shretry (popCount h.lanes) }
      if die = 0 then s else
      let lane := (bitList die).headD 0
      let core := match s.team? g.team with | some t => t.core | none => 0
      let place := core / 48 * 2 ^ 62 + core % 48 * 2 ^ 56 + g.part * 2 ^ 54 + lane * 2 ^ 48
      let s := (s.logErr 5 0 who.1 who.2 1 place die).modGroup grp fun g => { g with trap := g.trap.shadow h lane }
      s.killLanes grp die

end Sys2Proof.Machine
end

