-- ==== Sys2Proof/Machine/Reliab.lean ====
section
/-! DEFINITION. Machine/Reliab.lean: errors of the protected arrays (R371 to R376, R402, R403), links (R377), and the repair of a
damaged frame (R376). An injected error is the environment's: the step says which unit and place. -/

namespace Sys2Proof.Machine

/-! ## Places and attribution (R370, R371, R382) -/

/-- Core that WHERE names for units 0, 1, 2, 4 and 9, and its partition; the place of unit 3 has its core above the machine address (R382). -/
def placeCore (place : Nat) : Nat := place / 2 ^ 62 % 4 * 48 + place / 2 ^ 56 % 64
def placePart (place : Nat) : Nat := place / 2 ^ 54 % 4
def errCore (unit place : Nat) : Nat := if unit = 3 then place / 2 ^ 48 else placeCore place

/-- Machine address of a place of units 3, 5, 6, 7 and 10. -/
def errAddr (unit place : Nat) : Nat := if unit = 3 then place % 2 ^ 48 else place

/-- The protected word of a place, as the log and `bad` name it (R371, R382): a 64-bit word of a cache, the line of an L2 tag, a DRAM word, a
scratchpad word, a table word. -/
def errKey (unit place : Nat) : Nat :=
  if unit = 10 then dramWord place
  else if unit = 2 then whereSpad (placeCore place) (place % 2 ^ 32)
  else if unit = 9 then whereTable (placeCore place) (placePart place) (place / 2 ^ 28 % 8) (place % 2 ^ 18)
  else if unit = 7 then place / 128 * 128
  else if unit = 3 ∨ unit = 5 ∨ unit = 6 then errAddr unit place / 8 * 8
  else place

/-- L2 lines that stand for a machine address. -/
def State.l2At (s : State) (a : Nat) : List L2Line :=
  s.l2.filter fun l => l.stamp * 65536 + glineTia l.gline % 65536 = a / 128 * 128

/-- A line of L1 stands for a machine address. -/
def L1Line.standsFor (l : L1Line) (a : Nat) : Bool := l.stamp = a / 65536 && glineTia l.gline % 65536 = a % 65536 / 128 * 128

/-- Lines of a core's L1 that stand for a machine address. -/
def State.l1At (s : State) (core a : Nat) : List L1Line := (s.coreOf core).l1.filter (·.standsFor a)

/-- A team has a group in a partition. -/
def State.inPart (s : State) (t : Team) (part : Nat) : Bool :=
  (s.groupsOf t.ref).any fun g => g.part = part && g.run != .retired

/-- The team whose work a core's array serves where the error lies (R370): in its partition, in its allocation, or, for a line, of its tenant; a
running one before one that is ending. -/
def State.worker (s : State) (unit place : Nat) : Option Team :=
  let ts := s.teams.filter fun t => t.core = errCore unit place
  (ts.filter (·.state = .running) ++ ts.filter (·.state = .ending)).find? fun t =>
    if unit = 0 ∨ unit = 1 ∨ unit = 9 then s.inPart t (placePart place)
    else if unit = 2 then decide (t.spadBase ≤ place % 2 ^ 32) && decide (place % 2 ^ 32 < t.spadBase + t.spadBytes)
    else if unit = 3 then (s.l1At (errCore unit place) (errAddr unit place)).any fun l => glineTid l.gline = s.tidOf t
    else true

/-- Attribution by the first rule of R370 that places the error: the frame's owner, the line's tag, the team at work; 0 for none. -/
def State.errTid (s : State) (unit place : Nat) : Nat :=
  if unit = 3 ∨ unit = 5 ∨ unit = 6 ∨ unit = 7 ∨ unit = 10 then
    let owner := (s.frame (errAddr unit place / 65536)).owner
    if owner ≠ 0 then owner
    else if unit = 3 then ((s.worker unit place).map s.tidOf).getD 0
    else if unit = 6 ∨ unit = 7 then match s.l2At place with | l :: _ => glineTid l.gline | [] => 0
    else 0
  else if unit = 8 then 0
  else ((s.worker unit place).map s.tidOf).getD 0

/-- Context of the team whose read of a core's array met the error, 0 for the arrays outside the cores (R382). -/
def State.errCid (s : State) (unit place : Nat) : Nat :=
  if 5 ≤ unit ∧ unit ≠ 9 then 0
  else (((s.worker unit place).bind fun t => s.launch? t.launch).map (·.cid)).getD 0

/-- A corrected error: CORR counts each time (R403), and the log merges what falls within 1 ms at one word (R382). -/
def State.corrected (s : State) (unit place : Nat) : State :=
  let tid := s.errTid unit place
  let cid := s.errCid unit place
  let key := errKey unit place
  let s := if tid = 0 then s else s.modTenant tid fun t => { t with corr := bump t.corr 1 }
  if s.lodge.log.any fun r => r.cls = 1 && r.unit = unit && r.place = key
      && decide ((s.lodge.clk.setWidth 32 - r.clk).toNat ≤ Config.lodgeMs) then
    s.modLodge fun d => { d with log := logJoin 1 unit key 0 0 d.log }
  else s.logErr 1 unit tid cid 0 key 0

/-- Arrays whose word keeps its error until a write covers it (R373, R402): scratchpad, tables, DRAM. -/
def keepsError (unit : Nat) : Bool := unit = 2 || unit = 9 || unit = 10

/-- An uncorrectable error met: a word that is known already adds an occurrence; a new one is counted and logged (R403). -/
def State.uncorrectable (s : State) (unit place tid cid : Nat) (action : BitVec 4) (lanes : W64) : State :=
  if keepsError unit && s.bad.contains (unit, place) then s.detected unit place action lanes
  else
    let s : State := if keepsError unit then { s with bad := s.bad ++ [(unit, place)] } else s
    s.newError unit place tid cid action lanes

/-- Dirty bytes of a frame are lost: it becomes DAMAGED (R376). -/
def State.lostFrame (s : State) (unit place : Nat) : State :=
  (s.newError unit (errKey unit place) (s.errTid unit place) 0 4 0).damage (errAddr unit place / 65536)

/-! ## SCRUB (R372, R403) -/

/-- A line of L1 after one of its 64-bit words has been dropped, to be fetched again (R371, R372). -/
def L1Line.without (l : L1Line) (w : Nat) : L1Line := { l with valid := l.valid &&& ~~~(3#32 <<< (2 * w)) }

/-- The dirty bytes that a word of an array would lose: of an L1 word, of the line whose DIRTY and VALID bits are wrong, of an L2 line
(R371). -/
def State.dirtyAt (s : State) (unit place : Nat) (lineState : Bool) : Bool :=
  if unit = 3 then (s.l1At (errCore 3 place) (errAddr 3 place)).any fun l =>
    if lineState then l.dirty ≠ 0 else (List.range 8).any fun i => l.dirty.getLsbD (place % 128 / 8 * 8 + i)
  else (unit = 6 || unit = 7) && (s.l2At place).any fun l => l.dirty ≠ 0

/-- The copy of a word, or of a line for `lineState`, dropped in its core's L1: to be fetched again (R371, R372). -/
def State.l1Forget (s : State) (place : Nat) (lineState : Bool) : State :=
  let a := errAddr 3 place
  let left (ls : List L1Line) : List L1Line :=
    if lineState then ls.filter fun m => !m.standsFor a
    else ls.map fun m => if m.standsFor a then m.without (place % 128 / 8) else m
  s.modCore (errCore 3 place) fun k => { k with l1 := left k.l1 }

/-- A list without the member that stands n-th among those of a kind. -/
def dropNthOf {α : Type} (p : α → Bool) : Nat → List α → List α
  | _, [] => []
  | n, a :: as => if !p a then a :: dropNthOf p n as else match n with | 0 => as | k + 1 => a :: dropNthOf p k as

/-- The home slice of a frame-TLB entry is the one that a place of unit 8 names: die and slice within the die (R382). -/
def inSlice8 (place home : Nat) : Bool :=
  Config.l2Slice home % Config.l2Slices = place / 2 ^ 62 % 4 * (Config.l2Slices / 4) + place / 2 ^ 56 % 64

/-- The entry of a slice's frame-TLB that a place names is dropped, its page entries counted before its allotment entries; a walk tracker's
walk restarts (R371). -/
def State.tlbForget (s : State) (place : Nat) : State :=
  if place / 2 ^ 55 % 2 = 1 then s else
  let n := s.tlb.countP fun e => inSlice8 place e.home
  let i := place % 2 ^ 32
  if i < n then { s with tlb := dropNthOf (fun e => inSlice8 place e.home) i s.tlb }
  else { s with atlb := dropNthOf (fun e => inSlice8 place e.home) (i - n) s.atlb }

/-- An uncorrectable word found in an array: in a clean copy it is dropped and counts as corrected (R372); dirty data is lost (R371). -/
def State.foundBad (s : State) (unit place : Nat) (lineState : Bool) : State :=
  if s.dirtyAt unit place lineState then s.lostFrame unit place else
  match unit with
  | 3 => if s.l1At (errCore 3 place) (errAddr 3 place) = [] then s else (s.corrected 3 place).l1Forget place lineState
  | 4 => (s.corrected 4 place).modCore (placeCore place) fun k => { k with ic := [] }
  | 5 => { s.corrected 5 place with sil := s.sil.filter fun l => l.mline ≠ place / 128 }
  | 6 | 7 => if s.l2At place = [] then s else
    { s.corrected unit place with l2 := s.l2.filter fun k => !(s.l2At place).any fun l => k.gline = l.gline }
  | 8 => (s.corrected 8 place).tlbForget place
  | 10 => s.uncorrectable 10 (dramWord place) (s.errTid 10 place) 0 0 0
  | _ => s

/-- SCRUB (R403): DRAM (unit 10) and the L2 arrays (6, 7) are read in the background; the same step stands for what a read finds in the
other arrays and corrects, or drops as a clean copy (R372) (DEDUCED, assumption 73). -/
def bodyScrub (unit place : Nat) (found : ErrFound) (s : State) : State :=
  match found with
  | .clean => s
  | .correctable => s.corrected unit place
  | .uncorrectable => s.foundBad unit place false
  | .lineState => s.foundBad unit place (decide (unit = 3))

def execScrub (unit place : Nat) (found : ErrFound) (s : State) : Host.Outcome State Fault Refusal :=
  event (decide (unit ≤ 10)) (bodyScrub unit place found s) s

/-! ## ABORT_COMPLETION (R373 to R375) -/

/-- Tenant and context of the requester. -/
def State.abortWho (s : State) (t : AbortTarget) : Nat × Nat :=
  let grp (g : Nat) : Nat × Nat := match s.group? g with
    | some g => (match s.homeOf g with | some (_, l) => (l.tid, l.cid) | none => (0, 0))
    | none => (0, 0)
  match t with
  | .lanes g _ => grp g
  | .group g => grp g
  | .copy j _ => match s.copy? j with | some c => (c.tid, c.cid) | none => (0, 0)
  | .transfer tid ch => (tid, (s.channel tid ch).bind.cid)
  | .launch l => match s.launch? l with | some l => (l.tid, l.cid) | none => (0, 0)
  | .frame f => ((s.frame f).owner, 0)

/-- ACTION and DEADMASK of an abort (R382). -/
def abortAction : AbortTarget → BitVec 4
  | .lanes _ _ => 1
  | .group _ => 2
  | .copy _ _ => 8
  | .transfer _ _ => 8
  | .launch _ => 0
  | .frame _ => 4

def abortLanes : AbortTarget → W64
  | .lanes _ m => m
  | _ => 0

/-- Scalar accesses (R186). -/
def isScalar : Instr → Bool
  | .sld .. | .sst .. | .satom .. => true
  | _ => false

/-- The machine in which the word of a place fails its check: a word that keeps its error is bad; a dirty line that is lost leaves the caches, and
nothing below it serves in its stead (R371, R373). -/
def State.struck (s : State) (unit place : Nat) : State :=
  let a := errAddr unit place
  if keepsError unit then { s with bad := s.bad ++ [(unit, errKey unit place)] }
  else if unit = 3 ∨ unit = 6 ∨ unit = 7 then
    let words := if unit = 7 then (List.range 4).map fun i => (10, a / 128 * 128 + 32 * i) else [(10, dramWord a)]
    let s : State := { s with
      bad := s.bad ++ words
      l2 := s.l2.filter fun l => l.stamp * 65536 + glineTia l.gline % 65536 ≠ a / 128 * 128 }
    if unit = 3 then s.modCore (errCore 3 place) fun k => { k with l1 := k.l1.filter fun l => !l.standsFor a } else s
  else s

/-- The machine in which it does not. -/
def State.mended (s : State) (unit place : Nat) : State :=
  if keepsError unit then { s with bad := s.bad.filter fun b => b ≠ (unit, errKey unit place) } else s

/-- What an instruction in flight has to do done now, where its turn has come: all that is left of its accesses. -/
def State.perform (s : State) (grp : Nat) (f : Flight) : State :=
  let all : W64 := BitVec.allOnes 64
  if isLoad f.instr then (if accessDue s grp f.fid isLoad then bodyLoad grp f.fid all s else s)
  else if isStore f.instr then (if storeDue s grp f.fid then bodyStore grp f.fid all s else s)
  else if isAtomic f.instr then (if accessDue s grp f.fid isAtomic then bodyAtomic grp f.fid all s else s)
  else if isLdp f.instr then (if ldpDue s grp f.fid then bodyLdpRead grp f.fid s else s)
  else if isTableOp f.instr then (if tableDue s grp f.fid then bodyTableWrite grp f.fid s else s)
  else if isMatrixOp f.instr then (if consumeDue s grp f.fid then bodyConsume grp f.fid s else s)
  else s

/-- Dead lanes of a group. -/
def State.deadOf (s : State) (grp : Nat) : W64 := match s.group? grp with | some g => g.regs.dead | none => BitVec.allOnes 64

/-- An access at an ordinary segment touches the 64-bit word of a place; a place of another unit is not told apart so. -/
def LaneAcc.onWord (a : LaneAcc) (unit place : Nat) : Bool :=
  match a.target with
  | .glob _ tia => (unit ≠ 3 && unit ≠ 6) || rangesMeet (tia % 128) a.size (place % 128 / 8 * 8) 8
  | _ => true

/-- The lanes of a group that an instruction in flight loses where the word of a place fails and keeps where it does not (R374). -/
def State.hitLanes (s : State) (unit place grp : Nat) (f : Flight) : W64 :=
  let lost := (((s.struck unit place).perform grp f).deadOf grp) &&& ~~~(((s.mended unit place).perform grp f).deadOf grp)
  if f.accs = [] ∨ isScalar f.instr ∨ isTableOp f.instr then lost
  else lost &&& f.left.foldl (fun m a => if a.onWord unit place then m ||| laneBit a.lane else m) 0

/-- The instruction in flight whose access the abort answers: one that loses these lanes; for a group, a scalar access or a matrix-support
load. -/
def State.hitFlight (s : State) (unit place : Nat) (t : AbortTarget) : Option Flight :=
  match t with
  | .lanes grp m => (s.group? grp).bind fun g => g.flights.find? fun f =>
      !isScalar f.instr && !isTableOp f.instr && m != 0 && m &&& ~~~s.hitLanes unit place grp f == 0
  | .group grp => (s.group? grp).bind fun g => g.flights.find? fun f =>
      (isScalar f.instr || isTableOp f.instr) && s.hitLanes unit place grp f != 0
  | _ => none

/-- A quad-set that is about to read a clause cannot fetch it. -/
def State.fetchFails (s : State) (g : Group) : Bool :=
  match s.homeOf g with
  | some (t, l) => g.qsets.any fun q => q.clause.isNone && match (s.fetchWord t.core l.cid q.pc.toNat).2 with
      | .ok h => match (s.fetchWords t.core l.cid (wbits h 3 0) (q.pc.toNat + 4)).2 with
        | .error (.abort _ _, _) => true
        | _ => false
      | .error (.abort _ _) => true
      | .error _ => false
  | none => false

/-- The aborted access is over without having been performed: its bytes are not written, an atomic's location is unchanged, no table byte
is written (R374). A matrix operation goes on for its other quarters. -/
def State.unperformed (s : State) (grp : Nat) (f : Flight) (t : AbortTarget) : State :=
  if isMatrixOp f.instr then s else
  match t with
  | .lanes _ m => s.settleFlight grp f true
      ((f.left.filter fun a => bit m a.lane).foldl (fun e a => e.add { a with last := true } (.ok [])) Ends.none)
  | _ => s.settleFlight grp { f with accs := [] } false (Ends.none.add ⟨0, .spad 0, 0, [], 0, 0, true⟩ (.ok []))

/-- A chunk of a copy stays unwritten, and the copy fails with ABORT; a conditional copy writes none (R250, R253, R374). -/
def Copy.aborted (c : Copy) (chunk : Nat) : Copy :=
  { c.failing crAbort with chunks := if c.ver then [] else c.chunks.eraseIdx chunk }

/-- The unit that an abort kills or fails (R374), with the access that it answers. -/
def State.abortHit (s : State) (t : AbortTarget) (hit : Option Flight) : State :=
  let ends (grp : Nat) : State := match hit with | some f => s.unperformed grp f t | none => s
  match t with
  | .lanes g m => (ends g).killLanes g m
  | .group g => (ends g).killGroup g
  | .copy j chunk => s.modCopy j fun c => c.aborted chunk
  | .transfer tid ch => s.endChain tid ch crAbort (((s.channel tid ch).chain.map (·.idx)).getD 0)
  | .launch l => match s.launch? l with | some k => s.refuseAfter k stLease | none => s
  | .frame _ => s

/-- The requests that a read of an array can abort (R371, R374): a word of a lane register is read by its lane, one of the group's context
by the group, a scratchpad word by lanes, groups and copies, a table word by the lanes of quarters or a load that merges into it, and a line
or a DRAM word by any of them. -/
def abortFits (unit : Nat) (t : AbortTarget) : Bool :=
  match t with
  | .lanes _ _ => unit = 0 || unit = 2 || unit = 3 || unit = 6 || unit = 7 || unit = 9 || unit = 10
  | .group _ => unit = 1 || unit = 2 || unit = 3 || unit = 6 || unit = 7 || unit = 9 || unit = 10
  | .copy _ _ => unit = 2 || unit = 3 || unit = 6 || unit = 7 || unit = 10
  | .transfer _ _ | .launch _ => unit = 6 || unit = 7 || unit = 10
  | .frame _ => unit = 3 || unit = 6 || unit = 7

/-- A chunk of a copy, or a conditional copy as a whole, cannot be moved for an abort. -/
def State.chunkAborts (s : State) (job chunk : Nat) : Bool :=
  match s.copyAt job with
  | none => false
  | some (c, t, l) =>
    if c.ver then versionDue s job && ((bodyVersion job s).copy? job).any fun c => c.reason = crAbort
    else chunkDue s job chunk && match c.chunks[chunk]? with
      | none => false
      | some (r, b, n) => match s.copyRead c t l r b n with
        | (s, .ok bs) => (s.chunkWrite c l (s.copyBase c + r * c.dstride + b) bs).2 == .fail crAbort
        | (_, k) => k == .fail crAbort

/-- Some next step of a chain ends it for an abort. -/
def State.chainAborts (s : State) (tid ch : Nat) : Bool :=
  match (s.channel tid ch).chain with
  | none => false
  | some k => (List.range (k.lines.length + 1)).any fun i =>
      (((s.chainStep tid ch k i).channel tid ch).result.map (·.1)) == some crAbort

/-- The resident check of a launch meets an abort. -/
def State.residentAborts (s : State) (ref : Nat) : Bool :=
  residentDue s ref && match s.launch? ref with
    | some l => (match s.residentFate l with | .lease (some _) => true | _ => false)
    | none => false

/-- A core's register array that a place names serves a group: its core and its partition. -/
def State.groupThere (s : State) (place grp : Nat) : Bool :=
  (s.group? grp).any fun g => g.run != .retired && g.part == placePart place
    && (s.homeOf g).any fun h => h.1.core = placeCore place

/-- The abort answers a request: one that fails where the word of the place fails its check, and does not where it holds (R374). A lane register
word stops its lane, a word of the group's registers the group; a frame loses the dirty bytes of its own. -/
def State.abortMeets (s : State) (t : AbortTarget) (unit place : Nat) : Bool :=
  let changes (p : State → Bool) : Bool := p (s.struck unit place) && !p (s.mended unit place)
  match t with
  | .lanes g m =>
    if unit = 0 then s.groupThere place g && m == laneBit (place / 2 ^ 48 % 64) else (s.hitFlight unit place t).isSome
  | .group g =>
    if unit = 1 then s.groupThere place g
    else (s.hitFlight unit place t).isSome
      || (s.group? g).any fun g => g.run == .run && changes fun s => s.fetchFails g
  | .copy j chunk => changes fun s => s.chunkAborts j chunk
  | .transfer tid ch => changes fun s => s.chainAborts tid ch
  | .launch l => changes fun s => s.residentAborts l
  | .frame f => decide (f = errAddr unit place / 65536)

/-- An abort is answered (R371, R373): the unit can abort the request, and a line of a cache is lost, so that it is no clean copy to be
fetched again. -/
def State.abortDue (s : State) (t : AbortTarget) (unit place : Nat) : Bool :=
  if unit = 16 then (match t with | .lanes g _ => (s.group? g).any fun g => g.run != .retired | _ => false)
  else abortFits unit t && (!(unit = 3 || unit = 6 || unit = 7) || s.dirtyAt unit place false) && s.abortMeets t unit place

/-- ABORT_COMPLETION (R375): the error is counted, logged and, in an array that keeps it, remembered; its requester loses the smallest
unit. A dirty line lost makes its frame DAMAGED as well (R376). -/
def bodyAbort (t : AbortTarget) (unit place : Nat) (s : State) : State :=
  let who := s.abortWho t
  if unit = 16 then
    match t with
    | .lanes g m => bodyShadow g m (BitVec.ofNat 64 place) s
    | _ => s
  else
    let hit := s.hitFlight unit place t
    if unit = 3 ∨ unit = 6 ∨ unit = 7 then
      ((s.newError unit (errKey unit place) (s.errTid unit place) who.2 (4 ||| abortAction t) (abortLanes t)).damage
        (errAddr unit place / 65536)).abortHit t hit
    else
      (s.uncorrectable unit (errKey unit place) (if unit = 10 then s.errTid 10 place else who.1) who.2 (abortAction t)
        (abortLanes t)).abortHit t hit

def execAbortCompletion (t : AbortTarget) (unit place : Nat) (s : State) : Host.Outcome State Fault Refusal :=
  event (s.abortDue t unit place) (bodyAbort t unit place s) s

/-! ## Links (R377) -/

/-- UNIT and WHERE of a link (R371, R382): die links by die, the host link, fabric ports by number (DESIGN CHOICE, assumption 72). -/
def linkUnit (i : Nat) : Nat := if i < 4 then 11 else if i = hostLink then 12 else 13
def linkPlace (i : Nat) : Nat := if i < 4 then i * 2 ^ 62 + i else if i = hostLink then 0 else i - 5

def State.link (s : State) (i : Nat) : Link := tget Link.reset s.links i
def State.setLink (s : State) (i : Nat) (k : Link) : State := { s with links := tset Link.reset s.links i k }

/-- A flit fails its CRC and is sent again; after 8 failures of one flit in a row the link retrains. A failure of another flit counts
anew. -/
def bodyFlit (i : Nat) (again : Bool) (s : State) : State :=
  let k := s.link i
  let fails := if again then k.fails + 1 else 1
  s.setLink i (if fails < 8 then { k with fails := fails } else { k with fails := 0, retraining := true })

def execFlitCrcFailure (flit : FlitFailure) (s : State) : Host.Outcome State Fault Refusal :=
  event (decide (flit.link < 23) && !(s.link flit.link).down && !(s.link flit.link).retraining) (bodyFlit flit.link flit.again s) s

/-- A retraining ends, and the Lodge is told (R377): held flits go again, or the link is down after three failures. What crosses a host link
that is down, or the fabric with no port left, aborts as it is performed (R374, R390); a die link is bypassed. -/
def bodyRetrain (i : Nat) (trained : Bool) (s : State) : State :=
  let k := s.link i
  let s := s.logErr 3 (linkUnit i) 0 0 0 (linkPlace i) 0
  if trained then s.setLink i Link.reset
  else if k.retrains + 1 < 3 then s.setLink i { k with retrains := k.retrains + 1 }
  else (s.setLink i { k with retraining := false, retrains := 3, down := true }).logErr 4 (linkUnit i) 0 0 0 (linkPlace i) 0

def execLinkRetrain (i : Nat) (trained : Bool) (s : State) : Host.Outcome State Fault Refusal :=
  event (decide (i < 23) && (s.link i).retraining && !(s.link i).down) (bodyRetrain i trained s) s

/-! ## DAMAGED_CLEAR (R376) -/

/-- The Lodge rewrites every word of a FREE frame and clears DAMAGED. The manual does not say what it writes: a free value (DESIGN CHOICE,
assumption 1). -/
def bodyDamagedClear (f : Nat) (s : State) : State :=
  let s : State := { s with
    free := s.free + 1
    dram := s.dram.write (f * 65536) ((List.range 8192).flatMap fun i => leBytes 8 (freeVal s.free i).toNat)
    bad := s.bad.filter fun b => b.1 ≠ 10 ∨ b.2 / 65536 ≠ f }
  s.modFrame f fun d => { d with damaged := false }

def execDamagedClear (f : Nat) (s : State) : Host.Outcome State Fault Refusal :=
  event ((s.frame f).damaged && decide ((s.frame f).ftype = ftFree)) (bodyDamagedClear f s) s

end Sys2Proof.Machine
end

