-- ==== Sys2Proof/Machine/Sha.lean ====
section
/-! DEFINITION. Machine/Sha.lean: SHA3-256 (FIPS 202), the hash of R391, R392 and R401. -/

namespace Sys2Proof.Machine

/-- Lane (x, y) of a Keccak state of 25 lanes. -/
def kLane (a : List W64) (x y : Nat) : W64 := a.getD (x % 5 + 5 * (y % 5)) 0

/-- The walk of ρ over the lanes other than (0, 0): n steps from (x, y), the t-th of them by t(t+1)/2 bits (FIPS 202, 3.2.2). -/
def rhoWalk : Nat → Nat → Nat → Nat → List (Nat × Nat)
  | 0, _, _, _ => []
  | n + 1, t, x, y => (x + 5 * y, t * (t + 1) / 2 % 64) :: rhoWalk n (t + 1) y ((2 * x + 3 * y) % 5)

/-- Bits by which ρ turns lane i = x + 5y. -/
def rhoBits (i : Nat) : Nat := (((rhoWalk 24 1 1 0).find? fun e => e.1 = i).map (·.2)).getD 0

/-- The shift register of ι after t steps, as a number whose bit i is R[i] (FIPS 202, 3.2.5). -/
def iotaReg : Nat → Nat
  | 0 => 1
  | t + 1 => let r := 2 * iotaReg t; if r < 256 then r else (r - 256) ^^^ 0x71

/-- The word that ι adds in round n: bit 2^j − 1 is the register's output after j + 7n steps. -/
def iotaWord (n : Nat) : W64 :=
  BitVec.ofNat 64 (((List.range 7).map fun j => iotaReg (j + 7 * n) % 2 * 2 ^ (2 ^ j - 1)).sum)

/-- One round: θ, ρ and π, χ, ι. -/
def kStep (a : List W64) (round : Nat) : List W64 :=
  let c := (List.range 5).map fun x => (List.range 5).foldl (fun v y => v ^^^ kLane a x y) 0
  let d := (List.range 5).map fun x => c.getD ((x + 4) % 5) 0 ^^^ (c.getD ((x + 1) % 5) 0).rotateLeft 1
  let t := (List.range 25).map fun i => a.getD i 0 ^^^ d.getD (i % 5) 0
  -- lane (x, y) after π comes from lane (x + 3y, x)
  let b := (List.range 25).map fun i =>
    let j := (i % 5 + 3 * (i / 5)) % 5 + 5 * (i % 5)
    (t.getD j 0).rotateLeft (rhoBits j)
  let e := (List.range 25).map fun i => kLane b i (i / 5) ^^^ (~~~(kLane b (i + 1) (i / 5)) &&& kLane b (i + 2) (i / 5))
  match e with
  | v :: r => (v ^^^ iotaWord round) :: r
  | [] => []

/-- Keccak-f[1600]. -/
def keccak (a : List W64) : List W64 := (List.range 24).foldl kStep a

/-- A block of 136 bytes absorbed. -/
def kAbsorb (a : List W64) (block : List Byte) : List W64 :=
  keccak ((List.range 25).map fun i =>
    if i < 17 then a.getD i 0 ^^^ BitVec.ofNat 64 (leNat ((block.drop (8 * i)).take 8)) else a.getD i 0)

/-- A message padded with 01, 10…01 to whole blocks. -/
def kPad (m : List Byte) : List Byte :=
  let n := 136 - m.length % 136
  if n = 1 then m ++ [0x86#8] else m ++ [0x06#8] ++ List.replicate (n - 2) 0#8 ++ [0x80#8]

/-- SHA3-256 as its 32 bytes in order. -/
def sha3Bytes (m : List Byte) : List Byte :=
  let p := kPad m
  let a := (List.range (p.length / 136)).foldl (fun a i => kAbsorb a ((p.drop (136 * i)).take 136)) (List.replicate 25 0)
  (a.take 4).flatMap fun w => leBytes 8 w.toNat

/-- A digest's bytes: the first byte is the number's low one. -/
def digestBytes (d : BitVec 256) : List Byte := leBytes 32 d.toNat

/-- SHA3-256 as a number in the same order. -/
def sha3 (m : List Byte) : BitVec 256 := BitVec.ofNat 256 (leNat (sha3Bytes m))

end Sys2Proof.Machine
end

