-- ==== Sys2Proof/Machine/Tenancy.lean ====
section
/-! DEFINITION. Machine/Tenancy.lean: the layout's banks, journal and flip (R363 to R365), lending and recall (R366 to R368), and the making,
changing and teardown of tenancies (R361, R362, R369). -/

namespace Sys2Proof.Machine

/-- Lodge firmware runs (R391). -/
def State.lodgeUp (s : State) : Bool := s.lodge.boot = .ok

/-! ## Measurements (R392) -/

/-- MEAS[i] := SHA3-256(MEAS[i] ∥ digest). -/
def State.extend (s : State) (i : Nat) (d : BitVec 256) : State :=
  s.modLodge fun k => { k with meas := tset 0 k.meas i (sha3 (digestBytes (tget 0 k.meas i) ++ digestBytes d)) }

/-! ## Layout (R363 to R365) -/

/-- Reserved bits of an assignment read 0 (R363). -/
def assignMask (a : W64 × W64 × W64) : W64 × W64 × W64 :=
  (a.1 &&& 0x3FFBF#64, a.2.1 &&& 0xFFFFFFFFFFFFFFFE#64, a.2.2 &&& 0xFFFFFFFFFFFF#64)

/-- A bank from a list of assignments, paddock 0 first. -/
def bankOf (ws : List (W64 × W64 × W64)) : Tbl (W64 × W64 × W64) :=
  (List.range Config.paddocks).foldl (fun b p => tset (0, 0, 0) b p (assignMask (ws.getD p (0, 0, 0)))) []

/-- Well formed (R363): no ring names one tenancy twice, and no unowned paddock names a co-tenancy. -/
def bankOk (b : Tbl (W64 × W64 × W64)) : Bool :=
  (List.range Config.paddocks).all fun p =>
    let a := assignOf b p
    let ids := (asRing a).map (·.1)
    ids.eraseDups.length == ids.length && (asOwner a != 0 || (asShares a).isEmpty)

/-- Teams that a change to a bank drives off (R364, R365): of a tenancy that its paddock's ring loses, and lent-in teams where the OWNER
changes; SAVED and ENDED ones do not count. -/
def State.losing (s : State) (b : Tbl (W64 × W64 × W64)) : List Team :=
  s.teams.filter fun t =>
    let p := paddockOf t.core
    let new := (asRing (assignOf b p)).map (·.1)
    t.state ≠ .saved && t.state ≠ .ended
      && (((s.ring p).contains (s.tidOf t) && !new.contains (s.tidOf t))
        || (!(s.ring p).contains (s.tidOf t) && s.owner p ≠ asOwner (assignOf b p)))

/-- A bank put in place of the active or of the inactive one. -/
def Lodge.putBank (d : Lodge) (which : Bool) (b : Tbl (W64 × W64 × W64)) : Lodge :=
  if which then { d with bank1 := b } else { d with bank0 := b }

/-- LAYOUT_BANK_WRITE (R365 steps 1 and 2): the inactive bank, the PREPARED record, and the halt of the teams that lose their place. -/
def bodyBankWrite (ws : List (W64 × W64 × W64)) (s : State) : State :=
  let b := bankOf ws
  let s := s.modLodge fun d => { d.putBank (!d.active) b with journal := some ⟨d.gen + 1, false, b⟩ }
  (s.askAll (s.losing b)).settleHalts

def execLayoutBankWrite (ws : List (W64 × W64 × W64)) (s : State) : Host.Outcome State Fault Refusal :=
  event s.lodgeUp (bodyBankWrite ws s) s

/-- Bytes of a committed bank, the three words of each paddock in order (R392). -/
def bankBytes (b : Tbl (W64 × W64 × W64)) : List Byte :=
  (List.range Config.paddocks).flatMap fun p =>
    let a := assignOf b p
    leBytes 8 a.1.toNat ++ leBytes 8 a.2.1.toNat ++ leBytes 8 a.2.2.toNat

/-- The slice of a paddock once its ring has changed (R356): none while one tenancy or none is there; the slice of a tenancy that was alone
there and still is in the ring; otherwise the slice that runs. -/
def sliceAfter (old new : List (Nat × Nat)) (k : Slice) : Slice :=
  if new.length ≤ 1 then ⟨0, 0, false⟩
  else if 2 ≤ old.length then k
  else match old with
    | e :: _ => (match new.find? fun n => n.1 = e.1 with | some n => ⟨n.1, n.2 * 10000, false⟩ | none => ⟨0, 0, false⟩)
    | [] => ⟨0, 0, false⟩

/-- What a flip does on success (R364): ACTIVE and GEN change together, changed paddocks lose their loans and recalls, a paddock that gains a
co-tenancy loses its debug halts, slices go on or end with their rings, the journal is DONE (R365 step 3), and MEAS3 takes the bank (R392). -/
def State.flip (s : State) : State :=
  let old := s.lodge.bank s.lodge.active
  let new := s.lodge.bank !s.lodge.active
  let moved (p : Nat) : Bool := asOwner (assignOf old p) != asOwner (assignOf new p)
  let shared (p : Nat) : Bool := (asShares (assignOf new p)).any fun e => !((asShares (assignOf old p)).any fun k => k.1 = e.1)
  let s := s.modLodge fun d => { d with
    active := !d.active
    gen := d.gen + 1
    refused := false
    journal := d.journal.map fun j => if j.seq = d.gen + 1 then { j with done := true } else j
    loans := d.loans.filter fun e => !moved e.1
    recalls := d.recalls.filter fun p => !moved p
    late := d.late.filter fun p => !moved p
    slices := (List.range Config.paddocks).foldl (fun t p => tset ⟨0, 0, false⟩ t p
      (sliceAfter (asRing (assignOf old p)) (asRing (assignOf new p)) (tget ⟨0, 0, false⟩ t p))) d.slices }
  let s := (List.range Config.cores).foldl (fun s c =>
    if shared (paddockOf c) ∧ (s.coreOf c).dbg ≠ ⟨false, false, 0⟩ then s.release c false else s) s
  s.extend 3 (sha3 (bankBytes new))

/-- LAYOUT_FLIP (R364): a write of FLIP. Bit 1 clears REFUSED; GEN + 1 in [63:32] is a request, and anything else is ignored (DEDUCED,
assumption 63). -/
def bodyFlip (w : W64) (s : State) : State :=
  let s := if bit w 1 then s.modLodge fun d => { d with refused := false } else s
  if w.extractLsb' 32 32 ≠ s.lodge.gen + 1 then s
  else
    let b := s.lodge.bank !s.lodge.active
    if bankOk b ∧ s.losing b = [] then s.flip else s.modLodge fun d => { d with refused := true }

def execLayoutFlip (w : W64) (s : State) : Host.Outcome State Fault Refusal :=
  event (s.lodgeUp && !s.lodge.drain) (bodyFlip w s) s

/-! ## Lending (R366, R368) -/

/-- The next team of a launch fits a core of a paddock of its own tenancy, in whoever's slice (R338). -/
def State.fitsPaddock (s : State) (l : Launch) (p : Nat) : Bool :=
  (List.range Config.coresPerPaddock).any fun i => s.ringFits l (p * Config.coresPerPaddock + i)

/-- An eligible launch of a tenancy has a team that fits this paddock and no other of its own (R366). -/
def State.onlyHere (s : State) (p tid : Nat) : Bool :=
  s.launches.any fun l => l.tid = tid && l.eligible
    && s.fitsPaddock l p && (s.paddocksOf tid).all fun q => q == p || !s.fitsPaddock l q

/-- An eligible launch of a tenancy of the ring needs the paddock (R366). -/
def State.needed (s : State) (p : Nat) : Bool := (s.ring p).any fun t => s.onlyHere p t

/-- An idle paddock (R366): it is needed neither now nor for LIDLE, in µs. -/
def State.idlePaddock (s : State) (p : Nat) : Bool :=
  s.owner p ≠ 0 && asLend (s.assign p) && (s.ring p).all (fun t => (s.teamsOn p t).isEmpty) && !s.needed p
    && decide (s.lodge.lidle * Config.lodgeMs ≤ 1000 * tget 0 s.lodge.idle p)

def lendDue (s : State) (p tid : Nat) : Bool :=
  decide (p < Config.paddocks) && s.lentTo p = 0 && (s.tenant tid).live && tid ≠ 0 && asLendTo (s.assign p) tid
    && s.idlePaddock p && decide (s.lodge.stage < 4) && !s.lodge.drain

/-- PADDOCK_LEND (R366): BORROWED is set while the loan lasts (DEDUCED, assumption 97) (DEDUCED, assumption 98). -/
def execPaddockLend (p tid : Nat) (s : State) : Host.Outcome State Fault Refusal :=
  event (lendDue s p tid) (s.modLodge fun d => { d with loans := tput d.loans p tid }) s

/-- A launch of the owner has a team that fits none of its other cores (R368). -/
def State.ownerWants (s : State) (p : Nat) : Bool :=
  s.launches.any fun l => l.tid = s.owner p && l.eligible
    && (s.paddocksOf (s.owner p)).all fun q => q == p || !s.fitsPaddock l q

/-- A loan is recalled (R368): the owner wants the paddock, its tenancy is gone, its owner is about to change, or throttle stage 4. -/
def recallDue (s : State) (p : Nat) : Bool :=
  s.lentTo p ≠ 0 && !s.lodge.recalls.contains p && !s.lodge.drain
    && (s.ownerWants p || !(s.tenant (s.owner p)).live || decide (4 ≤ s.lodge.stage)
      || match s.lodge.journal with
        | some j => !j.done && j.seq == s.lodge.gen + 1 && asOwner (assignOf j.bank p) != s.owner p
        | none => false)

/-- The recall itself: the request of R352 goes to every team of the borrower on the paddock. -/
def State.recall (s : State) (p : Nat) : State :=
  let s := s.modLodge fun d => { d with recalls := d.recalls ++ [p] }
  ((s.askAll (s.teamsOn p (s.lentTo p))).settleHalts).settleLoan p

def execPaddockRecall (p : Nat) (s : State) : Host.Outcome State Fault Refusal := event (recallDue s p) (s.recall p) s

/-- RECALL_DEADLINE_EXPIRY (R368): RDL has passed and the paddock is not free: the borrower's RECALLOVR counts, once for a recall. -/
def bodyRecallOver (p : Nat) (s : State) : State :=
  (s.modTenant (s.lentTo p) fun t => { t with recallovr := bump t.recallovr 1 }).modLodge fun d => { d with late := d.late ++ [p] }

def execRecallDeadlineExpiry (p : Nat) (s : State) : Host.Outcome State Fault Refusal :=
  event (s.lodge.recalls.contains p && !s.lodge.late.contains p) (bodyRecallOver p s) s

/-! ## Tenancies (R361, R362, R369) -/

/-- Machine allotments that a tenancy holds, by TAN, as its allotment array names them (R297); an entry that cannot be read names none. -/
def State.machines (s : State) (tid : Nat) : List Nat := (List.range (s.tenant tid).alen).filterMap fun tan =>
  match s.allotRead tid tan with
  | .ok e => if allotV e && !allotHost e then some (allotMan e) else none
  | .error _ => none

/-- An allotment may go back to the Lodge (R313, R386): its 32 frames are FREE with USE 0 and PIN 0 (DEDUCED, assumption 67). -/
def State.reclaimable (s : State) (man : Nat) : Bool :=
  (List.range 32).all fun i =>
    let f := s.frame (man * 32 + i)
    f.ftype = ftFree && f.use = 0 && f.pin = 0

/-- Its descriptors lose OWNER and OTFN. -/
def State.reclaim (s : State) (man : Nat) : State :=
  (List.range 32).foldl (fun s i => s.modFrame (man * 32 + i) fun d => { d with owner := 0, otfn := 0 }) s

/-- Every launch of a tenancy is complete. -/
def State.tenancyIdle (s : State) (tid : Nat) : Bool := s.launches.all fun l => l.tid ≠ tid || l.state == .complete

/-- The Lodge cancels what a tenancy still has: its teams end and its launches complete with status TRAP (R362). -/
def State.cancelAll (s : State) (tid : Nat) : State :=
  let s := (s.teams.filter fun t => s.tidOf t = tid && t.state ≠ .ended && t.state ≠ .ending).foldl (fun s t => s.endTeam t.ref stTrap) s
  (s.launches.filter fun l => l.tid = tid && l.state ≠ .complete && l.state ≠ .draining).foldl (fun s l =>
    let idle := (s.liveTeams l.ref).isEmpty
    s.modLaunch l.ref fun l => { l with
      nextTeam := max l.nextTeam l.teamCount, status := if l.status = 0 then stTrap else l.status
      state := if idle then .draining else .running }) s

/-- What a tenancy held goes back (R313, R362): allotments, cached lines and translations, loans in both directions, its registers. -/
def State.dissolve (s : State) (tid : Nat) : State :=
  let mans := s.machines tid
  let s := s.shootdown tid (s.cachedPages tid)
  let s := mans.foldl (fun s m => s.reclaim m) s
  let owned := (List.range Config.paddocks).filter fun p => s.owner p = tid ∧ s.lentTo p ≠ 0 ∧ !s.lodge.recalls.contains p
  let s : State := { s with
    cores := s.cores.map fun (c, k) => (c, { k with ic := k.ic.filter fun l => l.cid / 4 ≠ tid })
    launches := s.launches.filter fun l => l.tid ≠ tid
    atlb := s.atlb.filter fun e => e.tid ≠ tid
    adms := s.adms.filter fun a => a.tid ≠ tid
    tenants := terase s.tenants tid }
  let s := s.modLodge fun d => { d with
    loans := d.loans.filter fun e => e.2 ≠ tid
    recalls := d.recalls.filter fun p => tget 0 d.loans p ≠ tid
    late := d.late.filter fun p => tget 0 d.loans p ≠ tid
    regions := d.regions.filter fun r => r.1 ≠ tid }
  owned.foldl (fun s p => s.recall p) s

/-- TENANCY_TEARDOWN (R362): what is not complete is cancelled first; with everything complete and every allotment reclaimable (R313), the
tenancy ends. -/
def bodyTeardown (tid : Nat) (s : State) : State :=
  if !s.tenancyIdle tid then s.cancelAll tid
  else if (s.machines tid).all fun m => s.reclaimable m then s.dissolve tid
  else s

def execTenancyTeardown (tid : Nat) (s : State) : Host.Outcome State Fault Refusal :=
  event (s.lodgeUp && (s.tenant tid).live) (bodyTeardown tid s) s

/-- %feat as it is held (R143): FATAL reads 0 wherever EN is 1. -/
def featWord (w : W64) : W64 := (w &&& 0x1FF#64) ||| (w &&& 0x1FF0000#64 &&& ~~~((w &&& 0x1FF#64) <<< 16))

/-- Block-transfer channels that the tenancies have (R4: 64 to a die, 256 to the package). -/
def State.channelsUsed (s : State) : Nat := s.tenants.foldl (fun n e => n + e.2.channels) 0

/-- The Lodge keeps an allotment array of n entries at a machine address to itself (R297, R313): it lies in SYS frames, apart from the
descriptor array and from the array of every other tenancy. -/
def State.arrayOk (s : State) (abase n : Nat) : Bool :=
  let len := max 4 (4 * n)
  ((List.range (len / 65536 + 2)).all fun i => decide (abase + len ≤ (abase / 65536 + i) * 65536) || s.isSys (abase / 65536 + i))
    && !rangesMeet abase len s.lodge.dbase (2 ^ 26)
    && s.tenants.all fun e => !e.2.live || !rangesMeet abase len e.2.abase.toNat (4 * e.2.quota)

/-- Terms that a tenancy can have: L2CAP and ALEN within their registers, ABASE a machine address that is a multiple of 4 KiB with room for
the array in SYS frames, no more channels than its function has bindings for and than the package has left (R4, R296, R297, R361, R384). -/
def State.termsOk (s : State) (k : TenancyTerms) : Bool :=
  s.arrayOk k.abase.toNat k.quota &&
  decide (k.l2cap ≤ 256 ∧ k.quota ≤ 131072 ∧ k.channels ≤ 64 ∧ k.abase.toNat % 4096 = 0 ∧ k.abase.toNat < 2 ^ 38)
    && decide (s.channelsUsed + k.channels ≤ Config.channelsPackage)

/-- TENANCY_CREATE (R369): the terms that the Lodge sets, every counter and register of the function at its reset value (DESIGN CHOICE,
assumption 70). -/
def State.create (s : State) (tid : Nat) (k : TenancyTerms) : State :=
  { s with tenants := tput s.tenants tid { Tenant.reset with
      live := true, ctxen := k.ctxen, l2cap := k.l2cap, feat := featWord k.feat, quota := k.quota, abase := k.abase
      channels := k.channels, hostBase := k.hostBase, hostCount := k.hostCount } }

def execTenancyCreate (tid : Nat) (k : TenancyTerms) (s : State) : Host.Outcome State Fault Refusal :=
  event (s.lodgeUp && decide (1 ≤ tid ∧ tid ≤ 63) && s.termsOk k && !(s.tenant tid).live)
    (s.create tid k) s

/-- FEAT_CHANGE (R362): for launches placed afterwards. -/
def execFeatChange (tid : Nat) (w : W64) (s : State) : Host.Outcome State Fault Refusal :=
  event (s.lodgeUp && (s.tenant tid).live) (s.modTenant tid fun t => { t with feat := featWord w }) s

/-- L2CAP_CHANGE (R361): from the next replacement on; nothing is evicted. -/
def execL2capChange (tid cap : Nat) (s : State) : Host.Outcome State Fault Refusal :=
  event (s.lodgeUp && (s.tenant tid).live && decide (cap ≤ 256)) (s.modTenant tid fun t => { t with l2cap := cap }) s

end Sys2Proof.Machine
end

