-- ==== Sys2Proof/Machine/Host.lean ====
section
/-! DEFINITION. Machine/Host.lean: what reaches the package over the host link and the fabric: the frame and allotment commands (R386), BAR0
(R384, R387), the host access window (R385), and requests of other packages (R389). -/

namespace Sys2Proof.Machine

/-! ## Frame and allotment commands (R386) -/

/-- A command of the tenant runs still: an ADMIT that waits for its line, or whose entry is not acknowledged (R319). -/
def State.cmdBusy (s : State) (tid : Nat) : Bool := (s.tenant tid).fcwait.isSome || s.adms.any fun a => a.tid = tid && a.src.isNone

/-- What any write of FCMD that carries OP 1 to 7 does: ERR is cleared by bit 62; while BUSY it is set; otherwise the command runs. -/
def State.command (s : State) (tid : Nat) (w : W64) (f : State → State × W64) : State :=
  let s := if bit w 62 then s.modTenant tid fun t => { t with fcerr := false } else s
  if s.cmdBusy tid then s.modTenant tid fun t => { t with fcerr := true }
  else
    let r := f s
    r.1.modTenant tid fun t => { t with fcop := bits w 3 0, fcres := r.2 }

/-- The command of this OP is written, by a function that is enabled (R383). -/
def State.cmdDue (s : State) (tid : Nat) (w : W64) (op : Nat) : Bool := s.fnOn tid && bits w 3 0 = op

def execRetype (tid : Nat) (w : W64) (s : State) : Host.Outcome State Fault Refusal :=
  hostEvent tid (s.cmdDue tid w 1) (s.command tid w fun s =>
    (s.cmdReads tid [(s.tenant tid).fcarg0]).retype tid (s.tenant tid).fcarg0 (s.tenant tid).fcarg1) s

def execInfo (tid : Nat) (w : W64) (s : State) : Host.Outcome State Fault Refusal :=
  hostEvent tid (s.cmdDue tid w 2) (s.command tid w fun s =>
    (s.cmdReads tid [(s.tenant tid).fcarg0], s.finfo tid (s.tenant tid).fcarg0)) s

/-- HARVEST: a count outside 1 to 64 harvests nothing. -/
def cmdHarvest (tid : Nat) (s : State) : State × W64 :=
  let n := (s.tenant tid).fcarg1
  if n = 0 ∨ 64 < n.toNat then (s, BitVec.allOnes 64) else
    (s.cmdReads tid (frameRun (s.tenant tid).fcarg0 n)).harvest tid (s.tenant tid).fcarg0 n.toNat

def execHarvest (tid : Nat) (w : W64) (s : State) : Host.Outcome State Fault Refusal :=
  hostEvent tid (s.cmdDue tid w 3) (s.command tid w (cmdHarvest tid)) s

/-- ADMIT (R386): the command starts at once, and runs once the entry's line has no admission that is not acknowledged (R319). -/
def cmdStartAdmit (tid : Nat) (s : State) : State × W64 :=
  let t := s.tenant tid
  let k := (t.fcarg0, t.fcarg1, t.fcarg2)
  if s.admitFree tid k then cmdAdmit tid k s else (s.modTenant tid fun t => { t with fcwait := some k }, t.fcres)

def execAdmitEntry (tid : Nat) (w : W64) (s : State) : Host.Outcome State Fault Refusal :=
  hostEvent tid (s.cmdDue tid w 4) (s.command tid w (cmdStartAdmit tid)) s

def execResume (tid : Nat) (w : W64) (s : State) : Host.Outcome State Fault Refusal :=
  hostEvent tid (s.cmdDue tid w 5) (s.command tid w fun s => s.resumeToken tid (s.tenant tid).fcarg0) s

/-- Machine allotments granted to any tenant, and those in which SYS frames lie (R313). -/
def State.granted (s : State) : List Nat := s.tenants.flatMap fun e => s.machines e.1
def State.sysAllots (s : State) : List Nat :=
  (s.lodge.sys.flatMap fun r => (List.range ((r.1 + r.2 + 31) / 32 - r.1 / 32)).map (· + r.1 / 32)).eraseDups

/-- A machine allotment that the Lodge can grant. -/
def State.allotFree (s : State) (man : Nat) : Bool :=
  decide (man < Config.machineAllotments) && !s.granted.contains man && !s.sysAllots.contains man

/-- No machine allotment is free. -/
def State.noneFree (s : State) : Bool :=
  decide (Config.machineAllotments ≤ (s.granted ++ s.sysAllots).eraseDups.length)

/-- The lowest TAN of a tenant whose entry is invalid. -/
def State.freeTan (s : State) (tid : Nat) : Nat :=
  ((List.range (s.tenant tid).alen).find? fun a => match s.allotRead tid a with | .ok e => !allotV e | .error _ => false).getD
    (s.tenant tid).alen

/-- An entry of the tenant's allotment array written by the Lodge, in DRAM, into a word that it can read (R297, R402). -/
def State.allotWrite (s : State) (tid tan : Nat) (e : W32) : State :=
  let a := (s.tenant tid).allotAddr tan
  s.dramPut (dramWord a) ((List.range 32).map fun i =>
    if a % 32 ≤ i then (leBytes 4 e.toNat)[i - a % 32]? else none)

/-- The tenant holds one more allotment. -/
def State.addAllot (s : State) (tid tan : Nat) (host : Bool) (man : Nat) : State :=
  (s.allotWrite tid tan (allotEntry host man)).modTenant tid fun t => { t with alen := max t.alen (tan + 1), held := t.held + 1 }

/-- GRANT: the Lodge takes the free machine allotment `man`; its frames are FREE and the tenant's. Where the word of the array that the entry
lies in fails its check, a write of part of it is not made (R402), and the request fails with code 2 (DESIGN CHOICE, assumption 118). -/
def cmdGrant (tid man : Nat) (s : State) : State × W64 :=
  let t := s.tenant tid
  let no (r : Nat) : W64 := BitVec.ofNat 64 (2 ^ 63 + r)
  let tan := s.freeTan tid
  if t.quota ≤ t.held then (s, no 1) else
  match s.allotRead tid tan with
  | .error e => (s.met e, no 2)
  | .ok _ =>
  if bit t.fcarg0 0 then
    if t.hostCount ≤ t.fcarg1.toNat ∨ 131072 ≤ t.fcarg1.toNat then (s, no 3) else (s.addAllot tid tan true t.fcarg1.toNat, BitVec.ofNat 64 tan)
  else if !s.allotFree man then (s, no 2)
  else
    let s := (List.range 32).foldl (fun s i => s.modFrame (man * 32 + i) fun d =>
      { d with ftype := ftFree, owner := tid, otfn := tan * 32 + i }) s
    (s.addAllot tid tan false man, BitVec.ofNat 64 tan)

/-- The Lodge's choice is a free machine allotment, where the command takes one and there is one. -/
def State.grantable (s : State) (tid man : Nat) : Bool :=
  bit (s.tenant tid).fcarg0 0 || decide ((s.tenant tid).quota ≤ (s.tenant tid).held) || s.allotFree man || s.noneFree

def execGrant (tid : Nat) (w : W64) (man : Nat) (s : State) : Host.Outcome State Fault Refusal :=
  hostEvent tid (s.cmdDue tid w 6 && (s.cmdBusy tid || s.grantable tid man)) (s.command tid w (cmdGrant tid man)) s

/-- RETURN: 2 for an entry that is not valid, 1 for a frame that is not FREE or is in use; otherwise the entry, its translations and its
descriptors' owner go. An entry that cannot be read is not valid (DESIGN CHOICE, assumption 118). -/
def cmdReturn (tid : Nat) (s : State) : State × W64 :=
  let tan := (s.tenant tid).fcarg0.toNat
  if (s.tenant tid).alen ≤ tan then (s, 2) else
  match s.allotRead tid tan with
  | .error (.abort u p) => (s.detected u p 0 0, 2)
  | .error (.fail _ _) => (s, 2)
  | .ok e =>
    if !allotV e then (s, 2)
    else if !allotHost e && !s.reclaimable (allotMan e) then (s, 1)
    else
      let s : State := { s with
        tlb := s.tlb.filter fun k => k.tid ≠ tid || k.host ≠ allotHost e || k.frame / 32 ≠ allotMan e
        atlb := s.atlb.filter fun k => k.tid ≠ tid || k.tan ≠ tan }
      let s := if allotHost e then s else s.reclaim (allotMan e)
      ((s.allotWrite tid tan 0).modTenant tid fun t => { t with held := t.held - 1 }, 0)

def execReturnAllot (tid : Nat) (w : W64) (s : State) : Host.Outcome State Fault Refusal :=
  hostEvent tid (s.cmdDue tid w 7) (s.command tid w (cmdReturn tid)) s

/-! ## BAR0 (R384, R387) -/

/-- A host write of a context's own register (R387): ignored with ERR while a team of the context is placed, halted or saved. -/
def State.hostCtx (s : State) (cid : Nat) (f : Ctx → Ctx) : State :=
  if s.ctxBusy cid then s.modCtx cid fun c => { c with err := true } else s.modCtx cid f

/-- A word of a context descriptor (R387). -/
def State.writeCtx (s : State) (cid off : Nat) (w : W64) : State :=
  if off < 0x200 then s.hostSeg cid (off / 32) (off % 32 / 8) w
  else if off = 0x200 then s.hostCtx cid fun c => { c with err := c.err && !bit w 63, rt := bit w 0 }
  else if off = 0x208 then s.hostCtx cid fun c => { c with waitlim := w.setWidth 32 }
  else if off = 0x210 then s.hostCtx cid fun c => { c with lockq := min 512 (bits w 9 0) }
  else if off = 0x218 then s.hostCtx cid fun c => { c with eha := w &&& 0xFFFFFFFFFFFF#64 }
  else if off = 0x220 then s.hostCtx cid fun c => { c with trh := w &&& 0xFFFFFFFFFFFF#64 }
  else if off = 0x228 then s.hostCtx cid fun c => { c with ems := w &&& 0xFFFFFFFFFFFF#64 }
  else s

/-- A binding may name a context (R360): of the tenant itself, and enabled (DEDUCED, assumption 45). -/
def State.bindable (s : State) (tid : Nat) (w : W64) : Bool := bits w 55 48 / 4 = tid && s.ctxOn tid (bits w 55 48 % 4)

/-- A word of a channel's binding (R267, R384); word3 is the doorbell, a step of its own. -/
def State.writeBinding (s : State) (tid ch j : Nat) (w : W64) : State :=
  if (s.tenant tid).channels ≤ ch then s else
  let put (f : Binding → Binding) : State :=
    s.modTenant tid fun t => { t with binds := tset Binding.reset t.binds ch (f (tget Binding.reset t.binds ch)) }
  match j with
  | 0 => if s.bindable tid w then put fun b => { b with word0 := w &&& 0x00FFFFFFFFFFFFFF#64 } else s
  | 1 => put fun b => { b with word1 := w }
  | 2 => put fun b => { b with word2 := w &&& 0x0000FFFFFFFFFFFF#64 }
  | _ => s

/-- A write of BAR0 that starts no step of its own (R384). What is read-only or not listed ignores it. RBASE is a multiple of 64 (R333): the
low six bits of what is written there are dropped (DESIGN CHOICE, assumption 123). -/
def State.writeBar0 (s : State) (tid off : Nat) (w : W64) : State :=
  if off = 0x10 then s.modTenant tid fun t =>
    { t with hwbase := (w &&& 0x8000FFFFC0000000#64) ||| (t.hwbase &&& 0x4000000000000000#64 &&& ~~~w) }
  else if off = 0x180 then s.modTenant tid fun t => { t with fcarg0 := w }
  else if off = 0x188 then s.modTenant tid fun t => { t with fcarg1 := w }
  else if off = 0x190 then s.modTenant tid fun t => { t with fcarg2 := w }
  else if off = 0x198 then
    let s := if bit w 62 then s.modTenant tid fun t => { t with fcerr := false } else s
    if 8 ≤ bits w 3 0 then s.modTenant tid fun t => { t with fcerr := true } else s
  else if 0x200 ≤ off ∧ off < 0x240 ∧ off % 16 = 0 then
    if s.bindable tid w then s.modRing tid ((off - 0x200) / 16) fun r => { r with cid := bits w 55 48, rbase := bits w 47 0 / 64 * 64 } else s
  else if 0x1000 ≤ off ∧ off < 0x1800 then s.writeBinding tid ((off - 0x1000) / 32) (off % 32 / 8) w
  else if 0x3000 ≤ off ∧ off < 0x3020 then s.modTenant tid fun t => { t with msix := tset 0 t.msix ((off - 0x3000) / 8) w }
  else if 0x4000 ≤ off ∧ off < 0x5000 then
    let k := (off - 0x4000) / 0x400
    if s.ctxOn tid k then s.writeCtx (4 * tid + k) (off % 0x400) w else s
  else s

/-- The value that a host read of a context descriptor returns (R293, R387). -/
def Ctx.readWord (c : Ctx) (off : Nat) : W64 :=
  if off < 0x200 then c.segWord (off / 8)
  else match off with
    | 0x200 => BitVec.ofNat 64 ((if c.err then 2 ^ 63 else 0) + if c.rt then 1 else 0)
    | 0x208 => c.waitlim.setWidth 64
    | 0x210 => BitVec.ofNat 64 c.lockq
    | 0x218 => c.eha
    | 0x220 => c.trh
    | 0x228 => c.ems
    | _ => 0

/-- The value that a host read of a ring's word returns (R333): TAIL reads 0. -/
def Ring.readWord (r : Ring) (j : Nat) : W64 :=
  if j = 0 then BitVec.ofNat 64 (r.cid % 256 * 2 ^ 48 + r.rbase % 2 ^ 48)
  else BitVec.ofNat 64 ((if r.err then 2 ^ 35 else 0) + r.lsize % 8 * 2 ^ 32 + r.head.toNat * 2 ^ 16)

/-- The value that a host read of a binding's word returns (R267): word3 reads 0. -/
def Binding.readWord (b : Binding) (j : Nat) : W64 := match j with | 0 => b.word0 | 1 => b.word1 | 2 => b.word2 | _ => 0

/-- The value of a register of BAR0 (R384). -/
def State.readBar0 (s : State) (tid off : Nat) : W64 :=
  let t := s.tenant tid
  if 0x200 ≤ off ∧ off < 0x240 then (s.ringOf tid ((off - 0x200) / 16)).readWord (off % 16 / 8)
  else if 0x1000 ≤ off ∧ off < 0x1800 then
    if t.channels ≤ (off - 0x1000) / 32 then 0 else (tget Binding.reset t.binds ((off - 0x1000) / 32)).readWord (off % 32 / 8)
  else if 0x2000 ≤ off ∧ off < 0x2600 then
    if s.debugOpen tid ((off - 0x2000) / 8) then (s.coreOf ((off - 0x2000) / 8)).dbg.word else 0
  else if 0x3000 ≤ off ∧ off < 0x3020 then tget 0 t.msix ((off - 0x3000) / 8)
  else if 0x4000 ≤ off ∧ off < 0x5000 then
    if s.ctxOn tid ((off - 0x4000) / 0x400) then (s.ctx (4 * tid + (off - 0x4000) / 0x400)).readWord (off % 0x400) else 0
  else match off with
    | 0x000 => s.tenancyWord tid
    | 0x008 => BitVec.ofNat 64 (t.quota % 2 ^ 18 * 2 ^ 32 + t.held % 2 ^ 18)
    | 0x010 => t.hwbase
    | 0x040 => t.corr
    | 0x048 => t.uncorr
    | 0x050 => t.lanedead
    | 0x058 => t.shretry
    | 0x060 => t.forcedh
    | 0x068 => t.sliceovr
    | 0x070 => t.recallovr
    | 0x100 => BitVec.ofNat 64 ((if t.rv then 2 ^ 63 else 0) + (if t.rerr then 2 ^ 62 else 0) + t.root % 2 ^ 22)
    | 0x108 => t.abase &&& 0x3FFFFFFFFF#64
    | 0x110 => BitVec.ofNat 64 (t.alen % 2 ^ 18)
    | 0x140 => t.faultq
    | 0x180 => t.fcarg0
    | 0x188 => t.fcarg1
    | 0x190 => t.fcarg2
    | 0x198 => BitVec.ofNat 64 ((if s.cmdBusy tid then 2 ^ 63 else 0) + (if t.fcerr then 2 ^ 62 else 0) + t.fcop % 16)
    | 0x1A0 => t.fcres
    | _ => 0

/-- What a read of n bytes of BAR0 answers to the host (R383, R384): Unsupported Request for any but an aligned 8-byte read, and at a function
that is not enabled; the read changes nothing else (DEDUCED, assumption 78). -/
def State.bar0Read (s : State) (tid off n : Nat) : HostReply :=
  if !s.fnOn tid ∨ off % 8 ≠ 0 ∨ n ≠ 8 then .unsupported else .data (leBytes 8 (s.readBar0 tid off).toNat)

/-- The write belongs to another step: ROOT, the fault queue, a command, a ring's TAIL, a doorbell, a debug word, a segment's word3. -/
def ownStep (off : Nat) (w : W64) : Bool :=
  off = 0x100 || off = 0x140 || (off = 0x198 && decide (1 ≤ bits w 3 0 ∧ bits w 3 0 ≤ 7))
    || (decide (0x200 ≤ off ∧ off < 0x240) && off % 16 = 8) || (decide (0x1000 ≤ off ∧ off < 0x1800) && off % 32 = 24)
    || decide (0x2000 ≤ off ∧ off < 0x2600) || (decide (0x4000 ≤ off ∧ off < 0x5000) && decide (off % 0x400 < 0x200) && off % 32 = 24)

/-- REGISTER_WRITE (R384): an aligned 8-byte write; any other is answered with Unsupported Request and changes nothing. -/
def execRegisterWrite (tid off : Nat) (w : W64) (s : State) : Host.Outcome State Fault Refusal :=
  hostEvent tid (off % 8 ≠ 0 || !ownStep off w) (if off % 8 ≠ 0 then s.unsupported else s.writeBar0 tid off w) s

/-! ## The host access window (R385) -/

/-- A window access has failed: WERR. -/
def State.windowFails (s : State) (tid : Nat) : State := s.modTenant tid fun t => { t with hwbase := t.hwbase ||| 0x4000000000000000#64 }

/-- A window read that is not served completes with Completer Abort (R385). -/
def State.readAborts (s : State) (tid : Nat) : State := { s.windowFails tid with hostReply := .abort }

/-- A read needs a leaf that grants loads, as every kind of leaf does but that of a host page, which only a host-window segment reaches (R300,
R312). The data goes to the host; in the device only what L2 holds may change. -/
def State.windowRead (s : State) (tid tia n : Nat) : State :=
  match s.devRead tid tia n false with
  | (s, .ok bs) => { s with hostReply := .data bs }
  | (s, .error e) => (s.met e).readAborts tid

/-- A write needs a D leaf with W = 1 that is not HOST. -/
def State.windowWrite (s : State) (tid tia : Nat) (bytes : List (Option Byte)) : State :=
  match s.translate tid tia with
  | (s, .error e) => (s.met e).windowFails tid
  | (s, .ok leaf) =>
    if !leaf.writable || leaf.host then s.windowFails tid else
    match s.devWrite tid tia bytes false with
    | (s, .ok _) => s
    | (s, .error e) => (s.met e).windowFails tid

/-- HOST_WINDOW_ACCESS (R385): 1 to 64 bytes within one aligned 64-byte block of BAR2. -/
def bodyWindow (tid off : Nat) (acc : WindowAcc) (s : State) : State :=
  let h := (s.tenant tid).hwbase
  let tia := bits h 47 30 * 2 ^ 30 + off
  if !bit h 63 then (match acc with | .read _ => s.readAborts tid | .write _ => s.windowFails tid) else
  match acc with
  | .read n => s.windowRead tid tia n
  | .write bs => s.windowWrite tid tia bs

def windowLen : WindowAcc → Nat
  | .read n => n
  | .write bs => bs.length

def execHostWindowAccess (tid off : Nat) (acc : WindowAcc) (s : State) : Host.Outcome State Fault Refusal :=
  hostEvent tid (decide (1 ≤ windowLen acc ∧ off % 64 + windowLen acc ≤ 64 ∧ off < 2 ^ 30)) (bodyWindow tid off acc s) s

/-! ## Requests of other packages (R389) -/

/-- The local tenant of a requester (R389): none where the import table has no entry (DESIGN CHOICE, assumption 71). -/
def State.import? (s : State) (pkg tid : Nat) : Option Nat :=
  match tget 0 s.imports (pkg * 64 + tid % 64) with
  | 0 => none
  | t => if (s.tenant t).live then some t else none

/-- The reply of a read or an atomic goes back over the fabric. -/
def State.reply (s : State) (pkg tia : Nat) (bs : List Byte) : State := { s with fabricOut := s.fabricOut ++ [(pkg, tia, bs)] }

/-- An access served at the local home slice under the local tenant's tables (R389): a host page is refused, since only a host-window segment
reaches it (R312). -/
def bodyFabric (pkg t tia : Nat) (acc : FabricAcc) (s : State) : State :=
  match s.translate t tia with
  | (s, .error e) => s.met e
  | (s, .ok leaf) =>
    match acc with
    | .load n =>
      (match s.devRead t tia n false with
      | (s, .ok bs) => s.reply pkg tia bs
      | (s, .error e) => s.met e)
    | .store bs => if !leaf.writable ∨ leaf.host then s else
      (match s.devWrite t tia (bs.map some) false with
      | (s, .ok _) => s
      | (s, .error e) => s.met e)
    | .atomic op n x y =>
      if !leaf.writable ∨ leaf.host then s else
      match s.devRead t tia n false with
      | (s, .ok old) =>
        (match s.devWrite t tia ((leBytes n (atomicNew (8 * n) op (leNat old) x.toNat y.toNat)).map some) false with
        | (s, .ok _) => s.reply pkg tia old
        | (s, .error e) => s.met e)
      | (s, .error e) => s.met e

/-- FABRIC_REQUEST: refused where no entry maps the pair, which leaves nothing here. -/
def execFabricRequest (pkg tid tia : Nat) (acc : FabricAcc) (s : State) : Host.Outcome State Fault Refusal :=
  match s.import? pkg tid with
  | none => event false s s
  | some t => event true (bodyFabric pkg t tia acc s) s

end Sys2Proof.Machine
end

