-- ==== Sys2Proof/Machine/Attest.lean ====
section
/-! DEFINITION. Machine/Attest.lean: package reset, boot and watchdog reset (R365, R391), measurement (R392), and the SPDM responder (R393 to
R395). -/

namespace Sys2Proof.Machine

/-! ## Reset and boot (R391, R392) -/

/-- The boot ROM's check of a stage (R391): the key is the one whose digest the fuses hold, and the signature over the image's digest holds
under it. -/
def Fuses.verifies (f : Fuses) (b : BootStage) : Bool := sha3 b.key = f.keyDigest && b.signed

/-- The stages that run: up to the first whose check fails. -/
def Fuses.runs (f : Fuses) (stages : List BootStage) : List BootStage := stages.takeWhile f.verifies

/-- Every stage that there is has been verified, the two firmware stages of R392 at least. -/
def Fuses.boots (f : Fuses) (stages : List BootStage) : Bool := decide (2 ≤ stages.length) && stages.all f.verifies

/-- The measurement of a firmware stage: the SHA3-256 digest of its image (R391, R392). -/
def stageDigest (b : BootStage) : BitVec 256 := sha3 b.image

/-- The measurements that a boot makes (R392): MEAS0 and MEAS1 of the firmware stages that run, MEAS2 of the fuses (DEDUCED, assumption 64). -/
def Fuses.measures (f : Fuses) (stages : List BootStage) : Tbl (BitVec 256) :=
  ((f.runs stages).take 2).zipIdx.foldl (fun m (b, i) => tset 0 m i (stageDigest b)) (tset 0 [] 2 (sha3 f.config))

/-- An image in flash has its closing record, whose digest is the image's (R401). -/
def Flash.closed (f : Flash) : Bool := sha3 f.raw = f.digest

/-- The package as reset leaves it: what is outside (host memory, flash, fuses) stays, %clk goes on (R342), and so do the model's own counts. A
complete image in flash is offered to the physical function driver (R401). -/
def State.afterReset (s : State) : State :=
  { State.reset with
    agenda := s.agenda, free := s.free, next := s.next, tick := s.tick, hostMem := s.hostMem
    cores := s.cores.map fun e => (e.1, { Core.reset with clk := e.2.clk })
    lodge := { Lodge.reset with
      flash := s.lodge.flash, fuses := s.lodge.fuses, offered := match s.lodge.flash with | some f => f.closed | none => false } }

/-- The settings that firmware makes when it starts (R339, R352, R366, R399; DESIGN CHOICE, assumption 114). -/
def Lodge.settings (d : Lodge) (k : LodgeTerms) : Lodge :=
  { d with thot := k.thot, hyst := k.hyst, dlim := k.dlim, pdeadline := k.pdeadline, lidle := k.lidle, rdl := k.rdl }

/-- The SYS frames (R313): those that firmware names, and the frames of the descriptor array, 16 bytes for each of the 2²² machine frames. -/
def sysRuns (k : LodgeTerms) : List (Nat × Nat) := (k.dbase / 65536, (k.dbase % 65536 + 2 ^ 26 + 65535) / 65536) :: k.sys

/-- PACKAGE_RESET (R391): the stages are verified and measured, and firmware starts where every one holds. -/
def bodyPackageReset (stages : List BootStage) (k : LodgeTerms) (s : State) : State :=
  let f := s.lodge.fuses
  let s := s.afterReset.modLodge fun d => { d with boot := if f.boots stages then .ok else .failed, meas := f.measures stages }
  if f.boots stages then s.modLodge fun d => { d.settings k with sys := sysRuns k, dbase := k.dbase } else s

def execPackageReset (boot : BootRun) (s : State) : Host.Outcome State Fault Refusal :=
  event true (bodyPackageReset boot.stages boot.terms s) s

/-- What firmware does first on a restart (R365). -/
def Lodge.recover (d : Lodge) : Lodge :=
  match d.journal with
  | none => d
  | some j =>
    if j.done then d
    else if j.seq = d.gen + 1 then { d.putBank (!d.active) (d.bank d.active) with journal := none }
    else if j.seq = d.gen then { d with journal := some { j with done := true } }
    else d

/-- LODGE_WATCHDOG_RESET (R365, R391): the verification is done again; banks, FLIP and measurements are held; the responders start afresh
(DEDUCED, assumption 65). -/
def bodyWatchdog (stages : List BootStage) (k : LodgeTerms) (s : State) : State :=
  let same := (stages.take 2).zipIdx.all fun (b, i) => stageDigest b == tget 0 s.lodge.meas i
  let ok := s.lodge.fuses.boots stages && same
  let s := s.modLodge fun d => { d with boot := if ok then .ok else .failed, spdm := Spdm.reset }
  let s : State := { s with tenants := s.tenants.map fun e => (e.1, { e.2 with spdm := Spdm.reset }) }
  if ok then s.modLodge fun d => d.recover.settings k else s

def execLodgeWatchdogReset (boot : BootRun) (s : State) : Host.Outcome State Fault Refusal :=
  event (s.lodge.boot != .off) (bodyWatchdog boot.stages boot.terms s) s

/-- MEASUREMENT_EXTEND (R392): MEAS4 to MEAS15 at the physical function driver's request. -/
def execMeasurementExtend (reg : Nat) (digest : BitVec 256) (s : State) : Host.Outcome State Fault Refusal :=
  event (s.lodgeUp && decide (4 ≤ reg ∧ reg ≤ 15)) (s.extend reg digest) s

/-! ## SPDM (R393 to R395) -/

/-- The mailbox of a function. -/
def State.mailbox (s : State) (fn : Nat) : Spdm := if fn = 0 then s.lodge.spdm else (s.tenant fn).spdm
def State.setMailbox (s : State) (fn : Nat) (k : Spdm) : State :=
  if fn = 0 then s.modLodge fun d => { d with spdm := k } else s.modTenant fn fun t => { t with spdm := k }

/-- Function 0 and every enabled virtual function has a mailbox; the responder is Lodge firmware. -/
def State.hasMailbox (s : State) (fn : Nat) : Bool := s.lodgeUp && (fn = 0 || (s.tenant fn).live)

/-- A request at a mailbox; a virtual function that is not enabled answers Unsupported Request (R383). -/
def mailEvent (fn : Nat) (due : Bool) (t s : State) : Host.Outcome State Fault Refusal :=
  if fn = 0 then event (s.hasMailbox fn && due) t s else hostEvent fn (s.hasMailbox fn && due) t s

/-- Request codes of SPDM 1.3 (PRESUMED, assumption 18). -/
def rqDigests : Nat := 0x81
def rqCertificate : Nat := 0x82
def rqChallenge : Nat := 0x83
def rqVersion : Nat := 0x84
def rqMeasurements : Nat := 0xE0
def rqCapabilities : Nat := 0xE1
def rqAlgorithms : Nat := 0xE3

/-- The bytes of an answer that the transcript takes, the signature apart: what it carries, in its order (DESIGN CHOICE, assumption 129). -/
def SpdmAnswer.bytes : SpdmAnswer → List Byte
  | .none => []
  | .version vs => 0x04#8 :: vs.flatMap fun v => leBytes 1 v.1 ++ leBytes 1 v.2
  | .capabilities c => 0x61#8 :: [c.cert, c.chal, c.meas, c.measSigned, c.session].map fun b => if b then 1#8 else 0#8
  | .algorithms _ _ sig => [0x63#8, 1#8, 1#8, if sig.isSome then 1#8 else 0#8]
  | .digests d => 0x01#8 :: digestBytes d
  | .certificate c => 0x02#8 :: c
  | .challengeAuth c n _ => 0x03#8 :: (digestBytes c ++ digestBytes n)
  | .measurements bs n _ => 0x60#8 :: (bs.flatMap (fun b => leBytes 1 b.1 ++ b.2) ++ digestBytes n)
  | .unsupported | .unexpected | .invalid => [0x7F#8]

/-- A request in order: the transcript takes its code and operands, and the answer, which stands. -/
def Spdm.accept (k : Spdm) (order rq : Nat) (args : List Byte) (a : SpdmAnswer) : Spdm :=
  { k with order := order, transcript := k.transcript ++ leBytes 1 rq ++ args ++ a.bytes, answer := a }

/-- A request out of order (R395): UnexpectedRequest, the transcript is reset, and only GET_VERSION is accepted. -/
def Spdm.unexpected (k : Spdm) : Spdm := { k with order := 0, transcript := [], answer := .unexpected }

/-- A request that the order of R395 allows at `need`. -/
def State.spdm (s : State) (fn need : Nat) (f : Spdm → Spdm) : State :=
  let k := s.mailbox fn
  s.setMailbox fn (if k.order = need then f k else k.unexpected)

/-- The one version offered (R393). -/
def spdmVersions : List (Nat × Nat) := [(1, 3)]

/-- CERT_CAP, CHAL_CAP and MEAS_CAP with signatures, and no session (R393). -/
def spdmCaps : SpdmCaps := ⟨true, true, true, true, false⟩

/-- GET_VERSION (R395): at any time, a new transcript. -/
def execGetVersion (fn : Nat) (s : State) : Host.Outcome State Fault Refusal :=
  mailEvent fn true (s.setMailbox fn (Spdm.reset.accept 1 rqVersion [] (.version spdmVersions))) s

def execGetCapabilities (fn : Nat) (s : State) : Host.Outcome State Fault Refusal :=
  mailEvent fn true (s.spdm fn 1 fun k => k.accept 2 rqCapabilities [] (.capabilities spdmCaps)) s

/-- NEGOTIATE_ALGORITHMS (R393): SHA3-256 for every hash, and ML-DSA-44 where the requester selects it. -/
def execNegotiateAlgorithms (fn : Nat) (mlDsa : Bool) (s : State) : Host.Outcome State Fault Refusal :=
  mailEvent fn true (s.spdm fn 2 fun k =>
    { k.accept 3 rqAlgorithms [if mlDsa then 1#8 else 0#8] (.algorithms .sha3_256 .sha3_256 (if mlDsa then some .mlDsa44 else none)) with
      mlDsa := mlDsa }) s

/-- The digest of the device's certificate chain (R393; DESIGN CHOICE, assumption 7). -/
def certDigest : BitVec 256 := sha3 Config.certChain

def execGetDigests (fn : Nat) (s : State) : Host.Outcome State Fault Refusal :=
  mailEvent fn true (s.spdm fn 3 fun k => k.accept 3 rqDigests [] (.digests certDigest)) s

/-- Only slot 0 is provisioned (R393); another is answered InvalidRequest (PRESUMED, assumption 18). -/
def execGetCertificate (fn slot : Nat) (s : State) : Host.Outcome State Fault Refusal :=
  mailEvent fn true (s.spdm fn 3 fun k =>
    if slot = 0 then k.accept 3 rqCertificate [0#8] (.certificate Config.certChain) else { k with answer := .invalid }) s

/-- A signature (R393): over the SHA3-256 hash of the transcript, the signed answer's own bytes included (DESIGN CHOICE, assumptions 7
and 129). -/
def Spdm.signature (k : Spdm) (n : Nat) : List Byte := Config.mlDsaSign (sha3 k.transcript) n

/-- A request that may need a signature (R393): without ML-DSA-44 chosen a signed one is answered UnexpectedRequest. The nonce is a free value. -/
def State.signed (s : State) (fn : Nat) (sign : Bool) (f : Spdm → BitVec 256 → Spdm) : State :=
  { s with free := s.free + 1 }.spdm fn 3 fun k =>
    if sign && !k.mlDsa then { k with answer := .unexpected } else f k (Config.spdmNonce s.free)

/-- CHALLENGE (R393): always signed. -/
def execChallenge (fn slot : Nat) (nonce : BitVec 256) (s : State) : Host.Outcome State Fault Refusal :=
  mailEvent fn true (s.signed fn true fun k n =>
    if slot ≠ 0 then { k with answer := .invalid } else
    let k := k.accept 3 rqChallenge (0#8 :: digestBytes nonce) (.challengeAuth certDigest n [])
    { k with answer := .challengeAuth certDigest n (k.signature s.free) }) s

/-- A measurement block (R394): 1 to 16 are MEAS0 to MEAS15 as raw digests; 17, on a virtual function only, its tenancy word and %feat, 16
bytes. An index that is none of these is answered InvalidRequest (PRESUMED, assumption 18). -/
def State.measBlock (s : State) (fn index : Nat) : Option (Nat × List Byte) :=
  if 1 ≤ index ∧ index ≤ 16 then some (index, digestBytes (tget 0 s.lodge.meas (index - 1)))
  else if index = 17 ∧ fn ≠ 0 then some (17, leBytes 8 (s.tenancyWord fn).toNat ++ leBytes 8 (s.tenant fn).feat.toNat)
  else none

/-- The blocks of one response, all read at one instant. -/
def State.measBlocks (s : State) (fn index : Nat) : List (Nat × List Byte) :=
  if index = 0xFF then (List.range 18).filterMap fun i => s.measBlock fn i else (s.measBlock fn index).toList

/-- GET_MEASUREMENTS (R394): signed where the request carries a nonce. -/
def execGetMeasurements (fn index : Nat) (nonce : Option (BitVec 256)) (s : State) : Host.Outcome State Fault Refusal :=
  mailEvent fn true (s.signed fn nonce.isSome fun k n =>
    if (s.measBlocks fn index).isEmpty then { k with answer := .invalid } else
    let args := leBytes 1 index ++ match nonce with | some x => digestBytes x | none => []
    let k := k.accept 3 rqMeasurements args (.measurements (s.measBlocks fn index) n none)
    { k with answer := .measurements (s.measBlocks fn index) n (if nonce.isSome then some (k.signature s.free) else none) }) s

/-- Every other request code is answered UnsupportedRequest, and the transcript is left as it was (R393). -/
def execSpdmUnsupportedRequest (fn code : Nat) (s : State) : Host.Outcome State Fault Refusal :=
  mailEvent fn (!([rqDigests, rqCertificate, rqChallenge, rqVersion, rqMeasurements, rqCapabilities, rqAlgorithms].contains code))
    (s.setMailbox fn { s.mailbox fn with answer := .unsupported }) s

end Sys2Proof.Machine
end

