-- ==== Sys2Proof/Machine/Power.lean ====
section
/-! DEFINITION. Machine/Power.lean: power levels (R396, R397), throttle stages (R398), droop and link retuning (R399), precious regions and what
the power-fail drain writes (R400, R401). How much power the package draws is the environment's. -/

namespace Sys2Proof.Machine

/-! ## Levels and stages (R396 to R398) -/

/-- The effective level: the higher-numbered of the two inputs. -/
def Lodge.level (d : Lodge) : BitVec 4 := if d.pin.toNat < d.sideband.toNat then d.sideband else d.pin

/-- The cap of a level in watts. -/
def powerCap (level : BitVec 4) : Nat := 2400 - 140 * level.toNat

/-- PSTAT (R397). -/
def Lodge.pstat (d : Lodge) : W64 :=
  BitVec.ofNat 64 ((if d.drain then 2 ^ 23 else 0) + d.stage % 8 * 2 ^ 20 + d.level.toNat * 2 ^ 16 + d.pin.toNat * 2 ^ 12 + d.sideband.toNat * 2 ^ 8)

/-- POWER_LEVEL_CHANGE: the board pins as sampled. -/
def execPowerLevelChange (level : BitVec 4) (s : State) : Host.Outcome State Fault Refusal :=
  event true (s.modLodge fun d => { d with pin := level }) s

/-- SIDEBAND_POWER_MESSAGE. -/
def execSidebandPowerMessage (level : BitVec 4) (s : State) : Host.Outcome State Fault Refusal :=
  event true (s.modLodge fun d => { d with sideband := level }) s

/-- THROTTLE_STAGE_ADVANCE (R398): stage 4 recalls every loan, and stage 5 follows once all loans have ended. -/
def bodyAdvance (s : State) : State :=
  let n := s.lodge.stage + 1
  let s := s.modLodge fun d => { d with stage := n }
  if n = 4 then ((List.range Config.paddocks).filter fun p => s.lentTo p ≠ 0 ∧ !s.lodge.recalls.contains p).foldl (fun s p => s.recall p) s
  else s

def execThrottleStageAdvance (s : State) : Host.Outcome State Fault Refusal :=
  event (decide (s.lodge.stage < 5) && !s.lodge.drain && (s.lodge.stage ≠ 4 || s.lodge.loans.isEmpty)) (bodyAdvance s) s

/-- THROTTLE_STAGE_RELEASE (R396, R398): in reverse order. -/
def execThrottleStageRelease (s : State) : Host.Outcome State Fault Refusal :=
  event (decide (0 < s.lodge.stage)) (s.modLodge fun d => { d with stage := d.stage - 1 }) s

/-! ## Adaptive loops (R399) -/

/-- DROOP_EVENT: counted for placement. -/
def execDroopEvent (core : Nat) (s : State) : Host.Outcome State Fault Refusal :=
  event (decide (core < Config.cores)) (s.modCore core fun c => { c with droops := c.droops + 1 }) s

/-- LINK_RETUNE: the link stalls and loses nothing; no visible value changes. -/
def execLinkRetune (link : Nat) (s : State) : Host.Outcome State Fault Refusal := event (decide (link < 23)) s s

/-! ## Precious regions and the drain (R400, R401) -/

/-- 64 KiB units of all precious regions; at most 512 MiB together. -/
def Lodge.units (d : Lodge) : Nat := (d.regions.map fun r => r.2.2).sum

/-- PRECIOUS_REGION_DECLARE: refused past 32 regions, past 512 MiB, and where the drain would take longer than 25 ms. -/
def execPreciousRegionDeclare (tid tia units : Nat) (s : State) : Host.Outcome State Fault Refusal :=
  event (s.lodgeUp && (s.tenant tid).live && decide (s.lodge.regions.length < 32 ∧ 1 ≤ units ∧ s.lodge.units + units ≤ 8192 ∧
      tia % 65536 = 0 ∧ tia + units * 65536 ≤ 2 ^ 48) && drainFits (s.drainSum + units * 65536))
    (s.modLodge fun d => { d with regions := d.regions ++ [(tid, tia, units)] }) s

/-- Lines of a tenant's page lie in a precious region. -/
def State.preciousLine (s : State) (gline : Nat) : Bool :=
  s.lodge.regions.any fun r => glineTid gline = r.1 && decide (r.2.1 ≤ glineTia gline) && decide (glineTia gline < r.2.1 + r.2.2 * 65536)

/-- Dirty L1 and L2 lines of the precious regions are written back (R401 step 2). -/
def State.flushPrecious (s : State) : State :=
  let s := s.cores.foldl (fun s (c, k) => ((k.l1.filter fun l => s.preciousLine l.gline).map (·.gline)).foldl (fun s g => s.l1Clean c g) s) s
  ((s.l2.filter fun l => s.preciousLine l.gline).map (·.gline)).foldl (fun s g => s.l2Drop g) s

/-- What DRAM holds of one page, under its GIA; no bit of a word that fails its check goes into the image (R373). -/
def State.pageImage (s : State) (tid tia : Nat) (m : Memory) : Memory :=
  match s.walk (gia tid tia / 128) tid tia with
  | .ok (_, leaf) =>
    if leaf.host then m else
    (s.dram.filter fun c => c.1 / 65536 = leaf.frame ∧ !s.dramBad c.1).foldl (fun m c => m.set (gia tid tia + c.1 % 65536) c.2) m
  | .error _ => m

/-- The bytes of every precious region. -/
def State.preciousImage (s : State) : Memory :=
  s.lodge.regions.foldl (fun m r => (List.range r.2.2).foldl (fun m i => s.pageImage r.1 (r.2.1 + i * 65536) m) m) []

/-- Teams of a launch with DRAIN set (R400). -/
def State.registered (s : State) (t : Team) : Bool :=
  t.state ≠ .ended && match s.launch? t.launch with | some l => l.drain | none => false

/-- The contexts of a number of teams, by CID (R354). -/
def State.contextsOf (s : State) (ts : List Team) : List (Nat × Ctx) := (ts.map fun t => s.cidOf t).eraseDups.map fun c => (c, s.ctx c)

/-- The image of the registered teams and the precious regions as the drain leaves it in flash, its closing record last (R401 steps 3 and 4). How
it is laid out the manual does not say: a free value (DESIGN CHOICE, assumption 19). -/
def State.writeImage (s : State) : State :=
  let ts := s.teams.filter fun t => s.registered t
  let gs := s.groups.filter fun g => ts.any fun t => t.ref = g.team
  let cs := s.copies.filter fun c => ts.any fun t => t.ref = c.team
  let raw := Config.imageBytes s.free
  { s with free := s.free + 1 }.modLodge fun d => { d with
    drain := true, pwrfail := true, flash := some ⟨ts, gs, cs, s.contextsOf ts, s.preciousImage, raw, sha3 raw⟩ }

/-- PWRFAIL_N_RELEASE (R401): the drain has completed all the same, and the package resets. -/
def execPwrfailNRelease (s : State) : Host.Outcome State Fault Refusal := event (s.lodge.pwrfail && s.lodge.drain) s.afterReset s

end Sys2Proof.Machine
end

