-- ==== Sys2Proof/Machine/Select.lean ====
section
/-! DEFINITION. Machine/Select.lean: which quad-set is ready (R113), the two issue ports of a partition with their repeat intervals (R66, R116)
and the gangs that they carry (R7, R97, R159), and whose turn it is (R114). -/

namespace Sys2Proof.Machine

/-! ## Readiness (R113) -/

/-- An acquire of the quad-set is not complete: no later access of it issues (R197). -/
def Iss.acquiring (x : Iss) : Bool := x.g.flights.any fun f => f.tag = x.q.tag && isAcquire f.instr

/-- The interlocks and header waits of the next instruction are clear (R19, R22, R197, R232): lookaheads, fifteen in flight, an acquire
before it, the table loads before an MMS. Headers do not count among what follows an instruction. -/
def Iss.interlocksClear (x : Iss) (i : Option Instr) : Bool :=
  match i with
  | some (.clauseHeader batch sbwait _ _ _) => x.g.headerReady batch.toNat sbwait.toNat
  | _ =>
    (x.g.flights.all fun f => f.look = 15 || decide (f.after < f.look))
      && match i with
        | some i => !(isLong i && decide (Config.flightMax ≤ x.g.flights.length))
            && !((isAccess i || isTableLoad i || isMatrixOp i) && x.acquiring)
            && !(isMms i && x.g.flights.any fun f => isTableOp f.instr)
        | none => true

/-- The quad-set may issue or fetch at all: its group runs, is not parked and has no trap to take before it, no handler of another
quad-set runs, and no debugger holds the core (R105, R113, R347, R359). -/
def State.mayIssue (s : State) (x : Iss) : Bool :=
  x.g.run = .run && x.t.state = .running && !x.g.trap.parked && (!x.g.trap.waits || x.g.trap.ahead x.q) && x.g.trap.replay.isEmpty
    && x.mayRun && !s.debugHeld x.t.core

/-- The instruction of a held quad-set has yet to issue: an MMS that table loads have kept back, so that its interlocks count as well. -/
def isMmsWord : Option Instr → Bool
  | some i => isMms i
  | none => false

/-- A quad-set is ready (R113). -/
def State.ready (s : State) (x : Iss) : Bool :=
  s.mayIssue x && match x.q.hold with
    | some h => s.holdOver x h && (!isMmsWord x.q.instr? || x.interlocksClear x.q.instr?)
    | none => x.q.clause.isNone || x.interlocksClear x.q.instr?

/-- Ready quad-sets of a group. -/
def State.readySets (s : State) (g : Group) : List QSet :=
  g.qsets.filter fun q => match s.issAt g.ref q.tag with | some x => s.ready x | none => false

/-! ## Ports (R66, R113, R116) -/

/-- The port of a quad-set's next word: 0 the lane port, for a word of the lane engine, 1 the other, on which a clause is fetched too. -/
def QSet.port (q : QSet) : Nat :=
  match q.word? with
  | some w => if opClass (wordOp w) = some 1 then 0 else 1
  | none => 1

/-- Repeat interval of a lane instruction for one gang (R66). -/
def laneInterval : Instr → Nat
  | .vmulh .. | .vclmul .. => 2
  | .vfcmp _ _ _ _ _ ty => if ty.toNat = 1 then 2 else 1
  | .vfadd _ _ _ _ ty | .vfsub _ _ _ _ ty | .vfmul _ _ _ _ ty | .vfma _ _ _ _ ty | .vfms _ _ _ _ ty | .vfnma _ _ _ _ ty
  | .vfmin _ _ _ _ ty | .vfmax _ _ _ _ ty | .vfscale _ _ _ _ ty => if ty.toNat = 1 then 2 else 1
  | .vfabs _ _ _ ty | .vfneg _ _ _ ty | .vfrndN _ _ _ ty | .vfrndZ _ _ _ ty | .vfrndD _ _ _ ty | .vfrndU _ _ _ ty | .vffrc _ _ _ ty
  | .vfclass _ _ _ ty => if ty.toNat = 1 then 2 else 1
  | .vfrcp _ _ _ ty | .vfrsq _ _ _ ty | .vfsqrt _ _ _ ty | .vfexp2 _ _ _ ty | .vflog2 _ _ _ ty | .vfsin _ _ _ ty | .vfcos _ _ _ ty =>
    if ty.toNat = 1 then 16 else 4
  | .vfdiv _ _ _ _ f64 _ => if f64.toNat = 1 then 32 else 8
  | .vcvt _ _ code _ _ => if convRegs code.toNat = (1, 1) then 1 else 2
  | .vfold _ _ op _ => if op.toNat = 9 then 4 else 2
  | .vscan _ _ _ ty => if ty.toNat = 1 then 4 else 2
  | _ => 1

/-- Clocks for which an instruction occupies the second port (R116). -/
def otherInterval : Instr → Nat
  | .smul .. | .smulh .. | .smulhu .. => 2
  | .sdiv _ _ _ _ wd | .sdivu _ _ _ _ wd | .srem _ _ _ _ wd | .sremu _ _ _ _ wd => if wd = 1 then 18 else 34
  | _ => 1

/-- Shuffles, which a gang of two COMPAT16 groups runs in two passes (R159). -/
def isShuffle : Instr → Bool
  | .vshfl .. | .vshfli .. => true
  | _ => false

/-- What a port carries. -/
def State.portAt (s : State) (core part port : Nat) : List (List (Nat × W16)) := tget [] (s.coreOf core).ports (2 * part + port)

/-! ## Whose turn it is (R113, R114) -/

/-- Groups of a partition of a core, in order of placement. A team that is restored keeps the place of its first placement (DESIGN CHOICE,
assumption 119). -/
def State.partGroups (s : State) (core part : Nat) : List Group :=
  s.groups.filter fun g => g.part = part && (s.team? g.team).any fun t => t.core = core

/-- The quad-set of a group whose turn it is: round robin by lowest quad number (R113). -/
def turnOf (last : Nat) (qs : List QSet) : Option QSet := (lowSet (qs.filter fun q => last < lowQuad q.quads)).orElse fun _ => lowSet qs

/-- The ready groups of a partition that would issue on a port, with the quad-sets whose turn it is. -/
def State.portGroups (s : State) (core part port : Nat) : List (Group × QSet) :=
  (s.partGroups core part).filterMap fun g => ((turnOf g.lastQuad (s.readySets g)).filter fun q => q.port = port).map fun q => (g, q)

/-- The group has issued in the present clock of its core: another port's instruction comes from another group (R113). -/
def State.hasIssued (s : State) (core part grp : Nat) : Bool := (tget [] (s.coreOf core).issued part).contains grp

/-- Of the ready groups of a port, those that may still issue in the present clock. -/
def State.freshGroups (s : State) (core part port : Nat) : List (Group × QSet) :=
  (s.portGroups core part port).filter fun e => !s.hasIssued core part e.1.ref

/-- A held quad-set goes on: its instruction has issued already, and occupies no port again (R116). -/
def QSet.wakes (q : QSet) : Bool := q.hold.isSome && !isMmsWord q.instr?

/-- Of groups in order of placement, the one that issues: of those that have been ready for 256 clocks the one that has waited longest,
otherwise the oldest (R114). -/
def winner (gs : List (Group × QSet)) : Option (Group × QSet) :=
  match gs.filter fun e => 256 ≤ e.1.ready with
  | [] => gs.head?
  | k :: ks => some (ks.foldl (fun a b => if a.1.ready < b.1.ready then b else a) k)

/-! ## Gangs (R7, R97, R159) -/

/-- Quads of a set. -/
def quadCount (q : W16) : Nat := (List.range 16).countP fun i => q.getLsbD i

/-- A ready quad-set may join a gang (R97): same launch, pc and word, not in a handler, not looked at again after a hold. -/
def gangMate (s : State) (launch : Nat) (pc : W64) (w : W32) (g : Group) (q : QSet) : Bool :=
  q.pc = pc && q.word? = some w && q.hold.isNone && g.emu.level = 0 && g.trap.mode.isNone
    && (s.team? g.team).any fun t => t.launch = launch

/-- There is room in a gang: at most 8 quads, and under COMPAT16 one set for each half (R97, R159). -/
def gangRoom (compat16 : Bool) (sets : List (Focus × W16)) (q : W16) : Bool :=
  if compat16 then decide (sets.length < 2) else decide ((sets.map fun e => quadCount e.2).sum + quadCount q ≤ 8)

/-- The quad-sets that issue with a chosen one on the lane port (R97): a ready set of each other group, in age order, as long as there is
room; a set that does not fit is passed over, and younger groups are looked at after it (DESIGN CHOICE, assumption 121); a group that issues
on the other port is left out (R113). -/
def State.gang (s : State) (core part : Nat) (x : Iss) (other : Option Nat) : List (Focus × W16) :=
  let first : List (Focus × W16) := [(⟨x.g.ref, x.q.tag⟩, x.q.quads)]
  match x.q.word? with
  | none => first
  | some w =>
    if x.q.hold.isSome ∨ x.g.emu.level ≠ 0 ∨ x.g.trap.mode.isSome then first else
    ((s.partGroups core part).filter fun g => g.ref ≠ x.g.ref ∧ some g.ref ≠ other ∧ !s.hasIssued core part g.ref).foldl (fun (acc : List (Focus × W16)) g =>
      match (s.readySets g).find? fun q => gangMate s x.l.ref x.q.pc w g q && gangRoom x.l.kernel.compat16 acc q.quads with
      | some q => acc ++ [(⟨g.ref, q.tag⟩, q.quads)]
      | none => acc) first

/-- The gangs that carry an issue on the lane port: one, or for a set of more than 8 quads two, lower quads first (R7, R97). -/
def gangsOf (sets : List (Focus × W16)) : List (List (Nat × W16)) :=
  match sets with
  | [(f, q)] => if 8 < quadCount q then [[(f.grp, q &&& 0xFF)], [(f.grp, q &&& 0xFF00)]] else [[(f.grp, q)]]
  | _ => [sets.map fun e => (e.1.grp, e.2)]

/-- Clocks for which a quad-set's next word occupies its port, at most: a set of more than 8 quads issues twice, and a shuffle may. -/
def QSet.cost (q : QSet) : Nat :=
  match q.instr? with
  | some i => if q.port = 0 then laneInterval i * (if 8 < quadCount q.quads ∨ isShuffle i then 2 else 1) else otherInterval i
  | none => 1

/-- What the lane port carries from now on: each gang for the repeat interval of the word, twice that for a shuffle of two COMPAT16 groups. -/
def laneLoad (x : Iss) (sets : List (Focus × W16)) : List (List (Nat × W16)) :=
  let n := match x.q.instr? with
    | some i => laneInterval i * (if x.l.kernel.compat16 ∧ isShuffle i ∧ 1 < sets.length then 2 else 1)
    | none => 1
  (gangsOf sets).flatMap fun g => List.replicate n g

/-- What the other port carries from now on. -/
def otherLoad (x : Iss) : List (List (Nat × W16)) :=
  List.replicate (match x.q.instr? with | some i => otherInterval i | none => 1) [(x.g.ref, x.q.quads)]

/-! ## The choice (R113) -/

/-- The quad-set that issues on a port, where the port is free. -/
def State.pick (s : State) (core part port : Nat) : Option Iss :=
  if s.portAt core part port ≠ [] then none else (winner (s.freshGroups core part port)).bind fun e => s.issAt e.1.ref e.2.tag

/-- The partition's issues of one clock: at most one on each port, of different groups. Which of the two comes first is not said: a free
value says (DESIGN CHOICE, assumption 82). -/
def State.select (s : State) (core part : Nat) : State :=
  let lane : Option Iss := s.pick core part 0
  let other : Option Iss := s.pick core part 1
  let sets : List (Focus × W16) := match lane with | some x => s.gang core part x (other.map fun y => y.g.ref) | none => []
  let a : List Focus := sets.map (·.1)
  let b := match other with | some x => [(⟨x.g.ref, x.q.tag⟩ : Focus)] | none => []
  let load (c : Core) (port : Nat) (l : List (List (Nat × W16))) (gs : List Nat) : Core :=
    { c with ports := tset [] c.ports (2 * part + port) l, issued := tset [] c.issued part (tget [] c.issued part ++ gs) }
  let s := match lane with
    | some x => if x.q.wakes then s else s.modCore core fun c => load c 0 (laneLoad x sets) (a.map Focus.grp)
    | none => s
  let s := match other with
    | some x => if x.q.wakes then s else s.modCore core fun c => load c 1 (otherLoad x) [x.g.ref]
    | none => s
  { s with
    focus := if a = [] then b else if b = [] then a else if bit (freeVal s.free 65535) 0 then a ++ b else b ++ a
    free := s.free + 1 }

/-- Clocks until something could issue on a port: the port is free, and a group that has issued in the present clock waits for the next. -/
def State.portWait (s : State) (core part : Nat) : Nat :=
  (lowest (([0, 1].filter fun p => !(s.portGroups core part p).isEmpty).map fun p =>
    max (s.portAt core part p).length (if (s.freshGroups core part p).isEmpty then 1 else 0))).getD 0

/-- Some quad-set of the partition is ready. -/
def State.partReady (s : State) (core part : Nat) : Bool := (s.partGroups core part).any fun g => !(s.readySets g).isEmpty

end Sys2Proof.Machine
end

