-- ==== Sys2Proof/Machine/Sched.lean ====
section
/-! DEFINITION. Machine/Sched.lean: the passing of clocks (R342, R350, R352) and the issue of a partition (R113), and the order in which the
machine's own steps are taken, one of those that the manual allows (R404, assumption 20). -/

namespace Sys2Proof.Machine

/-! ## Waits (R290, R350) -/

/-- The team is halted, saved, or stopped by a debugger: a wait on it does not count (R290, R350). -/
def State.still (s : State) (t : Team) : Bool := t.state = .halted || t.state = .saved || (t.state != .ended && s.debugHeld t.core)

/-- A group of the team is halted or saved. -/
def Group.still (g : Group) : Bool := g.run = .halted || g.run = .saved

/-- A pace neighbour that the team's next advance waits on, its FIN not yet far enough, is still (R277, R290). -/
def State.neighbourStill (s : State) (t : Team) (p : Pacer) : Bool :=
  let still (i : Nat) : Bool := (s.paceTeam t.launch i).any fun u => s.still u
  (p.up.any fun i => !stepGe (p.finOf i) p.step && still i)
    || p.down.any fun i => !stepGe (p.finOf i) (p.step + 1 - BitVec.ofNat 32 p.window) && still i

/-- The fire of an armed copy is awaited in vain: its team, or a neighbour that the team's next advance waits on, is still (R264, R350). -/
def State.fireStill (s : State) (c : Copy) : Bool :=
  (s.team? c.team).any fun t => s.still t || t.pacer.any fun p => s.neighbourStill t p

/-- What a fill that writes a slot waits on is still: its core or one that it writes to, or the team that issued it (R270, R350). -/
def State.fillStill (s : State) (t : Team) (c : Copy) : Bool :=
  !s.copyRuns c || (s.team? c.team).any fun u => u.ref ≠ t.ref && s.still u

/-- What a held quad-set of a group waits on is itself halted, saved or suspended, so that the wait does not count (R290, R350): the groups
of the team that have not arrived at a barrier, the teams of a launch, the team and its neighbours in a pace wait, the copy that fills a
stage slot, every copy that could fire and leave room in the armed table (DEDUCED, assumption 99). -/
def State.awaitsStill (s : State) (g : Group) (t : Team) (h : Hold) : Bool :=
  match h.kind with
  | .barrier bar _ | .rearrive bar _ _ =>
    (s.groupsOf t.ref).any fun k => k.still && !(t.bar bar).arrived.getLsbD k.gix
  | .lwait handle => match s.child t.launch handle with
    | some l => s.teams.any fun u => u.launch = l.ref && s.still u
    | none => false
  | .pdone _ | .pwait _ =>
    (s.groupsOf t.ref).any (·.still) || match t.pacer with | some p => s.neighbourStill t p | none => false
  | .seq stage n | .seqRel stage n => s.copies.any fun c =>
      c.seq && exStage c.ext = stage && exSeq c.ext = n && ((s.slotTeam c).map Team.ref = some t.ref) && s.fillStill t c
  | .armed job => (s.copies.filter fun c => c.core = t.core ∧ c.phase = .armed ∧ c.job ≠ job).all s.fireStill
  | .cond => s.copies.any fun c => c.seq && c.slot.isSome && ((s.slotTeam c).map Team.ref = some t.ref)
      && (h.opnds.any fun o => sdId o.2 = exStage c.ext) && s.fillStill t c
  | _ => g.still

/-- A bounded wait after some clocks. -/
def Hold.after (h : Hold) (d : Nat) : Hold := if h.bounded then { h with count := min h.limit (h.count + d) } else h

/-- The producer of an LDP in flight is still (R290). -/
def State.producerStill (s : State) (grp fid : Nat) : Bool :=
  match s.ldpAt grp fid with
  | some (_, _, _, _, q, _) => s.still q
  | none => false

/-- A group after d clocks of its core: waits, LEFT, how long it has been ready, and the halt that a yield point brings. A debugger's
halt stops LEFT too (R359). -/
def State.groupAfter (s : State) (d : Nat → Nat) (g : Group) : Group :=
  match s.team? g.team with
  | none => g
  | some t =>
    let n := d t.core
    let g := if g.run = .run ∧ !s.still t then
        { g with
          qsets := g.qsets.map fun q => { q with hold := q.hold.map fun h => if s.awaitsStill g t h then h else h.after n }
          flights := g.flights.map fun f =>
            if isLdp f.instr ∧ !s.producerStill g.ref f.fid then { f with waited := min f.limit (f.waited + n) } else f }
      else g
    let g := { g with
      pleft := if g.preq ∧ !s.debugHeld t.core then g.pleft - n else g.pleft
      ready := if (s.readySets g).isEmpty then 0 else g.ready + n }
    if s.debugHeld t.core then g else g.halt

/-- A team that waits for its readers to end (R290): while one of them is still, the wait does not count. -/
def State.teamAfter (s : State) (d : Nat → Nat) (t : Team) : Team :=
  let waits : Bool := match t.pacer with
    | some p => p.down.any fun i => !stepGe (p.finOf i) p.fin && (s.paceTeam t.launch i).any fun u => s.still u
    | none => false
  if t.state = .ending ∧ !s.debugHeld t.core ∧ !waits then { t with endWait := min t.endLimit (t.endWait + d t.core) } else t

/-- A fill held ahead of its window waits while the issuing group and the target team are neither halted nor saved (R262, R350). -/
def State.copyAfter (s : State) (d : Nat → Nat) (c : Copy) : Copy :=
  let still : Bool := (s.group? c.grp).any (·.still) || (s.team? c.team).any s.still || (s.slotTeam c).any s.still
  if c.phase = .held ∧ s.copyRuns c ∧ !still then { c with waited := min c.limit (c.waited + d c.core) } else c

/-! ## Clocks (R15, R342, R404) -/

/-- The core after n clocks: %clk, and what its ports have carried meanwhile. -/
def Core.after (c : Core) (n : Nat) : Core :=
  { c with
    clk := c.clk + BitVec.ofNat 64 n
    ports := (c.ports.map fun e => (e.1, e.2.drop n)).filter fun e => e.2 ≠ []
    issued := if n = 0 then c.issued else [] }

/-- Clocks pass on the cores, as many on each as is said. -/
def State.pass (s : State) (d : Nat → Nat) : State :=
  { s with
    groups := s.groups.map (s.groupAfter d)
    teams := s.teams.map (s.teamAfter d)
    copies := s.copies.map (s.copyAfter d)
    cores := ((List.range Config.cores).map fun c => (c, (s.coreOf c).after (d c))).filter fun e => e.2 ≠ Core.reset }.settleHalts

/-- Partitions that hold a group, by 4·core + partition. -/
def State.partKeys (s : State) : List Nat :=
  (s.groups.filterMap fun g => (s.team? g.team).map fun t => 4 * t.core + g.part).eraseDups

/-- How long each ready group of a port may still be kept from issuing, so that it issues within 256 clocks with the others of the port
before it (R15, R114). -/
def State.portPatience (s : State) (core part port : Nat) : List Nat :=
  let gs := s.portGroups core part port
  let all := (gs.map fun e => e.2.cost).sum
  gs.map fun e => 256 - e.1.ready - (all - e.2.cost)

/-- The ports at which something is ready, with their cores and the shortest patience. -/
def State.patience (s : State) : List (Nat × Nat) :=
  s.partKeys.flatMap fun k => [0, 1].filterMap fun p => (lowest (s.portPatience (k / 4) (k % 4) p)).map fun n => (k / 4, n)

/-- Clocks that pass on a core with a step: any number, so that %clk differences are those of R404, but no group that is ready is kept
waiting past 256 of them (R15) (DESIGN CHOICE, assumption 2). `least` is what passes where nothing is ready. -/
def State.clocks (s : State) (patience : List (Nat × Nat)) (least core : Nat) : Nat :=
  let n := least + Config.elapsed (s.tick * 256 + core)
  match lowest ((patience.filter fun e => e.1 = core).map (·.2)) with
  | some k => min n k
  | none => n

/-- By paddock that may be lent, the Lodge clocks since an eligible launch last needed it (R366). -/
def State.idleAfter (s : State) (n : Nat) : Tbl Nat := (List.range Config.paddocks).foldl (fun t p =>
  if asLend (s.assign p) then tset 0 t p (if s.needed p then 0 else tget 0 t p + n) else terase t p) s.lodge.idle

/-- Time passes with a step: clocks on every core, the Lodge's own clock, waits, and groups that reach a yield point halt. -/
def State.elapse (s : State) (least : Nat := 0) : State :=
  let n := Config.lodgeTicks s.tick
  let idle := s.idleAfter n
  let p := s.patience
  { s.pass (s.clocks p least) with tick := s.tick + 1 }.modLodge fun d => { d with clk := d.clk + BitVec.ofNat 64 n, idle := idle }

/-! ## ISSUE_SELECTION (R113) -/

/-- The clocks for which another partition of the core lets this one wait for its ports: as long as the port of each of its ready groups is
taken anyway, and as their patience lasts (R15). -/
def State.coreWait (s : State) (core part : Nat) : Option Nat :=
  lowest ((s.partKeys.filter fun k => k / 4 = core ∧ k % 4 ≠ part).flatMap fun k => [0, 1].filterMap fun p =>
    (lowest (s.portPatience core (k % 4) p)).map fun n => max n (s.portAt core (k % 4) p).length)

/-- The clocks until a port is free pass on the core, but none that would keep another partition's ready group past its 256 clocks: that one's
turn comes first. Then the partition's choice is made, which issues in the steps that follow. -/
def bodySelect (core part : Nat) (s : State) : State :=
  let n := min (s.portWait core part) ((s.coreWait core part).getD 256)
  let s := if n = 0 then s else s.pass fun c => if c = core then n else 0
  { s.select core part with sel := 4 * core + part }

def execIssueSelection (core part : Nat) (s : State) : Host.Outcome State Fault Refusal :=
  event (s.focus.isEmpty && !s.lodge.drain) (bodySelect core part s) s

/-! ## The machine's own steps (R404) -/

/-- A step that the machine takes by itself, named as the constructor of `Instr` that stands for the same step. -/
inductive Auto where
  | divideComplete (grp fid : Nat)
  | loadDataReturn (grp : Nat) (part : Portion)
  | storeComplete (grp : Nat) (part : Portion)
  | tableStoreAdmission (grp fid : Nat)
  | apertureDoorbellAccept (grp fid : Nat)
  | atomicPerform (grp : Nat) (part : Portion)
  | cacheOperationComplete (grp fid : Nat)
  | tableSetSwitch (team part : Nat)
  | tableLoadWrite (grp fid : Nat)
  | matrixOperandsConsumed (grp fid : Nat)
  | matrixResultWritten (grp fid : Nat)
  | ldpPortRead (grp fid : Nat)
  | trapEntry (grp : Nat)
  | copyCommandAccept (grp tag : Nat)
  | cyieldWake (grp tag : Nat)
  | copyCompletion (job : Nat)
  | copyChunkWrite (job chunk : Nat)
  | versionCommit (job : Nat)
  | fillArrival (src : FillSrc)
  | fillWindowTimeout (job : Nat)
  | armedCopyFire (job : Nat)
  | teamEnd (team : Nat)
  | forcedHalt (team : Nat)
  | stepAdvance (team : Nat)
  | teamSave (team : Nat)
  | teamRestore (team : Nat)
  | launchIntake (src : LaunchSrc)
  | dependencePoll (launch : Nat)
  | residentLeaseCheck (launch : Nat)
  | teamPlacement (launch : Nat)
  | launchCompletion (launch : Nat)
  | blockTransferComplete (tid ch : Nat)
  | blockTransferChain (tid : Nat) (move : ChainStep)
  | paddockRecall (paddock : Nat)
  | sliceBegin (paddock tid : Nat)
  | waitlimExpiry (grp tag : Nat)
  | admissionAcknowledge (adm : Nat)
  | finMessage (team src : Nat)
  | debugHaltComplete (core : Nat)
  | issueSelection (core part : Nat)
  deriving DecidableEq, Repr

/-- The meaning of a step that the machine takes by itself. -/
def Auto.exec (a : Auto) (s : State) : Host.Outcome State Fault Refusal :=
  match a with
  | .divideComplete grp fid => execDivideComplete grp fid s
  | .loadDataReturn grp part => execLoadDataReturn grp part s
  | .storeComplete grp part => execStoreComplete grp part s
  | .tableStoreAdmission grp fid => execTableStoreAdmission grp fid s
  | .apertureDoorbellAccept grp fid => execApertureDoorbellAccept grp fid s
  | .atomicPerform grp part => execAtomicPerform grp part s
  | .cacheOperationComplete grp fid => execCacheOperationComplete grp fid s
  | .tableSetSwitch team part => execTableSetSwitch team part s
  | .tableLoadWrite grp fid => execTableLoadWrite grp fid s
  | .matrixOperandsConsumed grp fid => execMatrixOperandsConsumed grp fid s
  | .matrixResultWritten grp fid => execMatrixResultWritten grp fid s
  | .ldpPortRead grp fid => execLdpPortRead grp fid s
  | .trapEntry grp => execTrapEntry grp s
  | .copyCommandAccept grp tag => execCopyCommandAccept grp tag s
  | .cyieldWake grp tag => execCyieldWake grp tag s
  | .copyCompletion job => execCopyCompletion job s
  | .copyChunkWrite job chunk => execCopyChunkWrite job chunk s
  | .versionCommit job => execVersionCommit job s
  | .fillArrival src => execFillArrival src s
  | .fillWindowTimeout job => execFillWindowTimeout job s
  | .armedCopyFire job => execArmedCopyFire job s
  | .teamEnd team => execTeamEnd team s
  | .forcedHalt team => execForcedHalt team s
  | .stepAdvance team => execStepAdvance team s
  | .teamSave team => execTeamSave team s
  | .teamRestore team => execTeamRestore team s
  | .launchIntake src => execLaunchIntake src s
  | .dependencePoll launch => execDependencePoll launch s
  | .residentLeaseCheck launch => execResidentLeaseCheck launch s
  | .teamPlacement launch => execTeamPlacement launch s
  | .launchCompletion launch => execLaunchCompletion launch s
  | .blockTransferComplete tid ch => execBlockTransferComplete tid ch s
  | .blockTransferChain tid move => execBlockTransferChain tid move s
  | .paddockRecall paddock => execPaddockRecall paddock s
  | .sliceBegin paddock tid => execSliceBegin paddock tid s
  | .waitlimExpiry grp tag => execWaitlimExpiry grp tag s
  | .admissionAcknowledge adm => execAdmissionAcknowledge adm s
  | .finMessage team src => execFinMessage team src s
  | .debugHaltComplete core => execDebugHaltComplete core s
  | .issueSelection core part => execIssueSelection core part s

/-- The step that an instruction in flight can take now. -/
def State.flightStep (s : State) (g : Group) (f : Flight) : Option Auto :=
  let part := g.part
  if isDivide f.instr then some (.divideComplete g.ref f.fid)
  else if accessDue s g.ref f.fid isLoad then some (.loadDataReturn g.ref ⟨f.fid, BitVec.allOnes 64⟩)
  else if storeDue s g.ref f.fid then some (.storeComplete g.ref ⟨f.fid, BitVec.allOnes 64⟩)
  else if admissionDue s g.ref f.fid then some (.tableStoreAdmission g.ref f.fid)
  else if doorbellDue s g.ref f.fid then some (.apertureDoorbellAccept g.ref f.fid)
  else if accessDue s g.ref f.fid isAtomic then some (.atomicPerform g.ref ⟨f.fid, BitVec.allOnes 64⟩)
  else if accessDue s g.ref f.fid isCacheOp then some (.cacheOperationComplete g.ref f.fid)
  else if (isMatrixOp f.instr || isTableOp f.instr) && switchDue s g.team part then some (.tableSetSwitch g.team part)
  else if tableDue s g.ref f.fid then some (.tableLoadWrite g.ref f.fid)
  else if consumeDue s g.ref f.fid then some (.matrixOperandsConsumed g.ref f.fid)
  else if resultDue s g.ref f.fid then some (.matrixResultWritten g.ref f.fid)
  else if ldpDue s g.ref f.fid then some (.ldpPortRead g.ref f.fid)
  else none

/-- The first of a list for which a step is due. -/
def firstStep {α : Type} (l : List α) (f : α → Option Auto) : Option Auto := l.findSome? f

/-! ## POWER_FAIL_DRAIN (R401) -/

/-- Every group halts at its instruction boundary, with no deadline (R401 step 1). -/
def State.haltGroups (s : State) : State :=
  { s with focus := [], groups := s.groups.map fun g => if g.run = .run then { g with run := .halted, preq := false, pleft := 0 } else g }

/-- What is in flight completes, step by step, as before any halt (R352): the instructions that `go` names. -/
def State.finishFlights (go : Flight → Bool) : Nat → State → State
  | 0, s => s
  | n + 1, s =>
    let next : Option Auto := (firstStep s.groups fun g => firstStep (g.flights.filter go) (s.flightStep g)).orElse fun _ =>
      firstStep s.adms fun a => if s.ackDue a then some (.admissionAcknowledge a.adm) else none
    match next with
    | none => s
    | some a => match a.exec s with
      | .next t => State.finishFlights go n t
      | _ => s

/-- Steps that complete what is in flight, at most. -/
def State.flightSteps (s : State) : Nat := (s.groups.map fun g => (g.flights.map fun f => 3 * f.accs.length + 8).sum).sum + s.adms.length

/-- What then is still in flight has not been performed: it stands in the replay lists of what is saved (R345, R352). -/
def State.flightsToReplay (s : State) : State :=
  s.groups.foldl (fun s g => g.flights.foldl (fun s f => s.toReplay g.ref f) s) s

/-- A running team has halted. -/
def State.haltTeams (s : State) : State :=
  { s with teams := s.teams.map fun t => if t.state = .running then { t with state := .halted, asked := false } else t }

/-- POWER_FAIL_DRAIN (R401): the steps in their order. An access in flight either is performed before the halt, or never is: a free value
says which (DESIGN CHOICE, assumption 75). -/
def bodyDrain (s : State) : State :=
  let go (f : Flight) : Bool := !isAccess f.instr || bit (freeVal s.free f.fid) 0
  let s := { s.haltGroups with free := s.free + 1 }
  (State.finishFlights go s.flightSteps s).flightsToReplay.haltTeams.flushPrecious.writeImage

def execPowerFailDrain (s : State) : Host.Outcome State Fault Refusal := event (!s.lodge.drain) (bodyDrain s) s

/-! ## Whose step is due -/

/-- Steps of a group: its trap entry, what is in flight, held copies, parked CYIELDs. -/
def State.groupStep (s : State) (g : Group) : Option Auto :=
  if g.stopped && !s.heldGroup g then some (.trapEntry g.ref) else
  (firstStep g.flights (s.flightStep g)).orElse fun _ =>
    firstStep g.qsets fun q =>
      if acceptDue s g.ref q.tag then some (.copyCommandAccept g.ref q.tag)
      else if (s.issAt g.ref q.tag).any fun x => (x.wakes s).isSome then some (.cyieldWake g.ref q.tag)
      else none

/-- Steps of a copy. -/
def State.copyStep (s : State) (c : Copy) : Option Auto :=
  if completionDue s c.job then some (.copyCompletion c.job)
  else if chunkDue s c.job 0 then some (.copyChunkWrite c.job 0)
  else if versionDue s c.job then some (.versionCommit c.job)
  else if fillDue s (.copy c.job) then some (.fillArrival (.copy c.job))
  else if c.phase = .held ∧ c.limit ≤ c.waited then some (.fillWindowTimeout c.job)
  else if fireDue s c.job then some (.armedCopyFire c.job)
  else none

/-- A halted team is to be saved whole (R365, R368). -/
def State.mustSave (s : State) (t : Team) : Bool :=
  saveDue s t.ref && (s.lodge.recalls.contains (paddockOf t.core) && s.borrowed t.core (s.tidOf t)
    || s.leaving (paddockOf t.core) (s.tidOf t))

/-- Steps of a team. -/
def State.teamStep (s : State) (t : Team) : Option Auto :=
  if teamEndDue s t.ref then some (.teamEnd t.ref)
  else if forcedDue s t.ref then some (.forcedHalt t.ref)
  else if advanceDue s t.ref then some (.stepAdvance t.ref)
  else if s.mustSave t then some (.teamSave t.ref)
  else if restoreDue s t.ref then some (.teamRestore t.ref)
  else none

/-- A dependence that a read would satisfy now. -/
def pollMet (s : State) (l : Launch) : Bool := pollDue s l.ref && ((bodyPoll l s).launch? l.ref).any fun l => l.depOk

/-- A resident check that would not find a pin count full (R305). -/
def residentMet (s : State) (l : Launch) : Bool :=
  residentDue s l.ref && match s.residentFate l with | .ok fs => !fs.any fun f => decide (65535 ≤ (s.frame f).pin) | _ => true

/-- Steps of a launch. -/
def State.launchStep (s : State) (l : Launch) : Option Auto :=
  if l.state = .posted then some (.launchIntake (.device l.ref))
  else if pollMet s l then some (.dependencePoll l.ref)
  else if residentMet s l then some (.residentLeaseCheck l.ref)
  else if placementDue s l.ref then some (.teamPlacement l.ref)
  else if completionReady s l.ref then some (.launchCompletion l.ref)
  else none

/-- Steps of a tenancy: records on their way, channels, rings. -/
def State.tenantStep (s : State) (e : Nat × Tenant) : Option Auto :=
  let tid := e.1
  (firstStep e.2.recs fun r => if fillDue s (.record tid r.token) then some (.fillArrival (.record tid r.token)) else none).orElse fun _ =>
  (firstStep e.2.chans fun c =>
    if c.2.result.isSome then some (.blockTransferComplete tid c.1)
    else if c.2.chainDue then some (.blockTransferChain tid ⟨c.1, 0⟩) else none).orElse fun _ =>
  firstStep (List.range 4) fun p => if intakeDue s (.ring tid p) then some (.launchIntake (.ring tid p)) else none

/-- Steps of a paddock: the next slice, a recall that is due. -/
def State.paddockStep (s : State) (p : Nat) : Option Auto :=
  if recallDue s p then some (.paddockRecall p)
  else match s.nextSlice p with
    | some t => if sliceBeginDue s p t then some (.sliceBegin p t) else none
    | none => none

/-- A wait that has passed its limit and is not over (R15). -/
def State.expiredStep (s : State) (g : Group) : Option Auto :=
  firstStep ((g.qsets.map (·.tag)) ++ g.flights.map (·.tag)) fun tag =>
    if stallDue s g.ref tag then some (.waitlimExpiry g.ref tag) else none

/-- The first of the machine's own steps that is due; none while a power-fail drain runs (R401). -/
def State.autoEvent (s : State) : Option Auto :=
  if s.lodge.drain then none else
  (firstStep s.groups s.groupStep).orElse fun _ =>
  (firstStep s.adms fun a => if s.ackDue a then some (.admissionAcknowledge a.adm) else none).orElse fun _ =>
  (firstStep s.copies s.copyStep).orElse fun _ =>
  (firstStep s.finMsgs fun m => some (.finMessage m.1 m.2.1)).orElse fun _ =>
  (firstStep s.teams s.teamStep).orElse fun _ =>
  (firstStep s.launches s.launchStep).orElse fun _ =>
  (firstStep s.tenants s.tenantStep).orElse fun _ =>
  (firstStep s.cores fun c => if c.2.dbg.state = 1 ∧ s.coreQuiet c.1 then some (.debugHaltComplete c.1) else none).orElse fun _ =>
  (firstStep (List.range Config.paddocks) s.paddockStep).orElse fun _ =>
  firstStep s.groups s.expiredStep

/-- The next partition with a ready quad-set, after the one looked at last. -/
def State.nextPart (s : State) : Option Nat :=
  let ks := s.partKeys.filter fun k => s.partReady (k / 4) (k % 4)
  match lowest (ks.filter fun k => s.sel < k) with
  | some k => some k
  | none => lowest ks

/-- What a step does. -/
inductive Move where
  /-- A step chosen from outside. -/
  | given (i : Instr)
  /-- The focus issues the instruction at its pc. -/
  | word (i : Instr)
  /-- The focus fetches its clause (R16). -/
  | fetch (f : Focus)
  /-- The focus issues a word that is not an instruction (R140). -/
  | undef (w : W32)
  /-- The focus names a quad-set that is gone, or that may issue no longer. -/
  | stale
  | auto (a : Auto)
  /-- Nothing can happen but the passing of time. -/
  | idle
  deriving DecidableEq, Repr

/-- What the focus issues: the fetch of its clause, the instruction at its pc, or the entry of a word that is not one. -/
def State.focusMove (s : State) (f : Focus) : Move :=
  match s.issAt f.grp f.tag with
  | none => .stale
  | some x =>
    if !s.mayIssue x then .stale else
    match x.q.word? with
    | none => .fetch f
    | some w => match decodeWord w with | .ok i => .word i | .error _ => .undef w

/-- The step that comes next: one chosen from outside, the focus, a step of the machine's own, an issue selection. -/
def State.move (s : State) : Move :=
  match s.agenda with
  | i :: _ => .given i
  | [] => match s.focus with
    | f :: _ => s.focusMove f
    | [] => match s.autoEvent with
      | some a => .auto a
      | none => if s.lodge.drain then .idle else
        match s.nextPart with
        | some k => .auto (.issueSelection (k / 4) (k % 4))
        | none => .idle

/-- A step chosen from outside leaves the agenda as it is taken. -/
def State.taken (s : State) : State := { s with agenda := s.agenda.tail }

/-- The focus is used up by the step that it chose. -/
def State.spent (s : State) : State := { s with focus := s.focus.tail }

/-- An outcome with its next state changed. -/
def afterwards (o : Host.Outcome State Fault Refusal) (f : State → State) : Host.Outcome State Fault Refusal :=
  match o with
  | .next t => .next (f t)
  | .fault r => .fault r
  | .refused r => .refused r

/-- What follows a step of the focus: it is used up, and time passes once everything that was chosen for the clock has issued (R113). -/
def State.afterFocus (s : State) : State := if s.spent.focus.isEmpty then s.spent.elapse else s.spent

/-! ## A program placed from outside (DESIGN CHOICE, assumption 21) -/

/-- The kernel of a launch that stands for a program's load: width 32, 128 registers, one paced group, 64 KiB of scratchpad. -/
def loadKernel : Kernel where
  isa := 3
  compat16 := false
  emurow := true
  paced := true
  nregs := 128
  spadBytes := 65536
  width := 32
  groups := 1
  yieldBound := 0
  leaseOff := 0
  first := 16

/-- A tenancy, a launch, a team and a group as creation, intake and placement leave them, chosen to issue. -/
def State.placeFirst (s : State) : State :=
  let l : Launch := { Launch.new s.next 1 1 4 0 0 none .running [0x0001000000000000#64, 0, 0, 0, 0, 0, 0, 0] with
    kernel := loadKernel, feat := 0x1FF#64, depOk := true, leaseOk := true, nextTeam := 1, groups := 1 }
  let t := Team.start (s.next + 1) s.next 0 0 loadKernel.spadBytes 0 (some ⟨0, 0, 1, [], []⟩)
  let g := Group.start (s.next + 2) (s.next + 1) 0 0 0 loadKernel 16 0 (BitVec.ofNat 32 Config.waitlimDefault)
  let s := if (s.tenant 1).live then s else s.create 1 ⟨1, 256, 0x1FF#64, 131072, 0, 64, 0, 0⟩
  { s with
    launches := s.launches ++ [l], teams := s.teams ++ [t], groups := s.groups ++ [g], next := s.next + 3
    focus := [⟨s.next + 2, 0⟩] }

/-- A quad-set is chosen to issue, is there, and may issue. -/
def State.focusLive (s : State) : Bool := s.iss.any s.mayIssue

/-- The word stands in the clause buffer of the chosen quad-set, at its pc. -/
def State.putWord (s : State) (w : W32) : State :=
  match s.focus with
  | [] => s
  | f :: _ => { s with agenda := [] }.modGroup f.grp fun g => g.modQ f.tag fun q => { q with clause := some ⟨q.pc, [w]⟩, hold := none }

end Sys2Proof.Machine
end

