-- ==== Sys2Proof/Machine/Dispatch.lean ====
section
/-! DEFINITION. Machine/Dispatch.lean: one arm per constructor of `Instr`, each a call of its meaning. -/

namespace Sys2Proof.Machine

def exec (i : Instr) (s : State) : Host.Outcome State Fault Refusal :=
  match i with
  | .clauseHeader batch sbwait yld cls count => Sys2Proof.Machine.execClauseHeader batch sbwait yld cls count s
  | .vadd vd va vb m ty => Sys2Proof.Machine.execVadd vd va vb m ty s
  | .vsub vd va vb m ty => Sys2Proof.Machine.execVsub vd va vb m ty s
  | .vmul vd va vb m ty => Sys2Proof.Machine.execVmul vd va vb m ty s
  | .vmulh vd va vb m ty => Sys2Proof.Machine.execVmulh vd va vb m ty s
  | .vmad vd va vb m ty => Sys2Proof.Machine.execVmad vd va vb m ty s
  | .vand vd va vb m => Sys2Proof.Machine.execVand vd va vb m s
  | .vor vd va vb m => Sys2Proof.Machine.execVor vd va vb m s
  | .vxor vd va vb m => Sys2Proof.Machine.execVxor vd va vb m s
  | .vandn vd va vb m => Sys2Proof.Machine.execVandn vd va vb m s
  | .vshl vd va vb m => Sys2Proof.Machine.execVshl vd va vb m s
  | .vshr vd va vb m ty => Sys2Proof.Machine.execVshr vd va vb m ty s
  | .vmin vd va vb m ty => Sys2Proof.Machine.execVmin vd va vb m ty s
  | .vmax vd va vb m ty => Sys2Proof.Machine.execVmax vd va vb m ty s
  | .vabsd vd va vb m ty => Sys2Proof.Machine.execVabsd vd va vb m ty s
  | .vaddc vd va vb mc => Sys2Proof.Machine.execVaddc vd va vb mc s
  | .vsel vd va vb ms => Sys2Proof.Machine.execVsel vd va vb ms s
  | .vbfx vd va vb m ty => Sys2Proof.Machine.execVbfx vd va vb m ty s
  | .vbfi vd va vb m => Sys2Proof.Machine.execVbfi vd va vb m s
  | .vpopc vd va m => Sys2Proof.Machine.execVpopc vd va m s
  | .vclz vd va m => Sys2Proof.Machine.execVclz vd va m s
  | .vbrev vd va m => Sys2Proof.Machine.execVbrev vd va m s
  | .vneg vd va m => Sys2Proof.Machine.execVneg vd va m s
  | .vdp4 vd va vb m ty => Sys2Proof.Machine.execVdp4 vd va vb m ty s
  | .vclmul vd va vb m ty => Sys2Proof.Machine.execVclmul vd va vb m ty s
  | .vmov vd va m => Sys2Proof.Machine.execVmov vd va m s
  | .vaddi vd va imm m ty => Sys2Proof.Machine.execVaddi vd va imm m ty s
  | .vshli vd va imm m => Sys2Proof.Machine.execVshli vd va imm m s
  | .vshri vd va imm m ty => Sys2Proof.Machine.execVshri vd va imm m ty s
  | .vandi vd va imm m => Sys2Proof.Machine.execVandi vd va imm m s
  | .vmuli vd va imm m ty => Sys2Proof.Machine.execVmuli vd va imm m ty s
  | .vli vd imm m => Sys2Proof.Machine.execVli vd imm m s
  | .vcmpi cnd md va imm m ty => Sys2Proof.Machine.execVcmpi cnd md va imm m ty s
  | .vcmp cnd md va vb m ty => Sys2Proof.Machine.execVcmp cnd md va vb m ty s
  | .vfcmp cnd md va vb m ty => Sys2Proof.Machine.execVfcmp cnd md va vb m ty s
  | .vfadd vd va vb m ty => Sys2Proof.Machine.execVfadd vd va vb m ty s
  | .vfsub vd va vb m ty => Sys2Proof.Machine.execVfsub vd va vb m ty s
  | .vfmul vd va vb m ty => Sys2Proof.Machine.execVfmul vd va vb m ty s
  | .vfma vd va vb m ty => Sys2Proof.Machine.execVfma vd va vb m ty s
  | .vfms vd va vb m ty => Sys2Proof.Machine.execVfms vd va vb m ty s
  | .vfnma vd va vb m ty => Sys2Proof.Machine.execVfnma vd va vb m ty s
  | .vfmin vd va vb m ty => Sys2Proof.Machine.execVfmin vd va vb m ty s
  | .vfmax vd va vb m ty => Sys2Proof.Machine.execVfmax vd va vb m ty s
  | .vfrcp vd va m ty => Sys2Proof.Machine.execVfrcp vd va m ty s
  | .vfrsq vd va m ty => Sys2Proof.Machine.execVfrsq vd va m ty s
  | .vfsqrt vd va m ty => Sys2Proof.Machine.execVfsqrt vd va m ty s
  | .vfexp2 vd va m ty => Sys2Proof.Machine.execVfexp2 vd va m ty s
  | .vflog2 vd va m ty => Sys2Proof.Machine.execVflog2 vd va m ty s
  | .vfsin vd va m ty => Sys2Proof.Machine.execVfsin vd va m ty s
  | .vfcos vd va m ty => Sys2Proof.Machine.execVfcos vd va m ty s
  | .vfabs vd va m ty => Sys2Proof.Machine.execVfabs vd va m ty s
  | .vfneg vd va m ty => Sys2Proof.Machine.execVfneg vd va m ty s
  | .vfrndN vd va m ty => Sys2Proof.Machine.execVfrndN vd va m ty s
  | .vfrndZ vd va m ty => Sys2Proof.Machine.execVfrndZ vd va m ty s
  | .vfrndD vd va m ty => Sys2Proof.Machine.execVfrndD vd va m ty s
  | .vfrndU vd va m ty => Sys2Proof.Machine.execVfrndU vd va m ty s
  | .vffrc vd va m ty => Sys2Proof.Machine.execVffrc vd va m ty s
  | .vfclass vd va m ty => Sys2Proof.Machine.execVfclass vd va m ty s
  | .vfdiv vd va vb m f64 det => Sys2Proof.Machine.execVfdiv vd va vb m f64 det s
  | .vfscale vd va vb m ty => Sys2Proof.Machine.execVfscale vd va vb m ty s
  | .vcvt vd va code m rnd => Sys2Proof.Machine.execVcvt vd va code m rnd s
  | .vshfl vd va rep vx m ty => Sys2Proof.Machine.execVshfl vd va rep vx m ty s
  | .vshfli vd va rep num m ty => Sys2Proof.Machine.execVshfli vd va rep num m ty s
  | .vvote sd va m ty => Sys2Proof.Machine.execVvote sd va m ty s
  | .vfold sd va op m => Sys2Proof.Machine.execVfold sd va op m s
  | .vscan vd va m ty => Sys2Proof.Machine.execVscan vd va m ty s
  | .vbcast vd ss m => Sys2Proof.Machine.execVbcast vd ss m s
  | .vspec vd va m => Sys2Proof.Machine.execVspec vd va m s
  | .vgetl sd va byS ln => Sys2Proof.Machine.execVgetl sd va byS ln s
  | .vputl vd ss byS ln => Sys2Proof.Machine.execVputl vd ss byS ln s
  | .mand md ma mb => Sys2Proof.Machine.execMand md ma mb s
  | .mor md ma mb => Sys2Proof.Machine.execMor md ma mb s
  | .mxor md ma mb => Sys2Proof.Machine.execMxor md ma mb s
  | .mandn md ma mb => Sys2Proof.Machine.execMandn md ma mb s
  | .mnot md ma => Sys2Proof.Machine.execMnot md ma s
  | .mmov md ma => Sys2Proof.Machine.execMmov md ma s
  | .mget mn sn => Sys2Proof.Machine.execMget mn sn s
  | .mset mn sn => Sys2Proof.Machine.execMset mn sn s
  | .mpop mn sn => Sys2Proof.Machine.execMpop mn sn s
  | .mffs mn sn => Sys2Proof.Machine.execMffs mn sn s
  | .sadd sd sa sb wd => Sys2Proof.Machine.execSadd sd sa sb wd s
  | .ssub sd sa sb wd => Sys2Proof.Machine.execSsub sd sa sb wd s
  | .smul sd sa sb wd => Sys2Proof.Machine.execSmul sd sa sb wd s
  | .smulh sd sa sb wd => Sys2Proof.Machine.execSmulh sd sa sb wd s
  | .smulhu sd sa sb wd => Sys2Proof.Machine.execSmulhu sd sa sb wd s
  | .sand sd sa sb wd => Sys2Proof.Machine.execSand sd sa sb wd s
  | .sor sd sa sb wd => Sys2Proof.Machine.execSor sd sa sb wd s
  | .sxor sd sa sb wd => Sys2Proof.Machine.execSxor sd sa sb wd s
  | .sandn sd sa sb wd => Sys2Proof.Machine.execSandn sd sa sb wd s
  | .sshl sd sa sb wd => Sys2Proof.Machine.execSshl sd sa sb wd s
  | .sshr sd sa sb wd => Sys2Proof.Machine.execSshr sd sa sb wd s
  | .ssra sd sa sb wd => Sys2Proof.Machine.execSsra sd sa sb wd s
  | .smin sd sa sb wd => Sys2Proof.Machine.execSmin sd sa sb wd s
  | .smax sd sa sb wd => Sys2Proof.Machine.execSmax sd sa sb wd s
  | .sminu sd sa sb wd => Sys2Proof.Machine.execSminu sd sa sb wd s
  | .smaxu sd sa sb wd => Sys2Proof.Machine.execSmaxu sd sa sb wd s
  | .spopc sd sa wd => Sys2Proof.Machine.execSpopc sd sa wd s
  | .sclz sd sa wd => Sys2Proof.Machine.execSclz sd sa wd s
  | .smov sd sa wd => Sys2Proof.Machine.execSmov sd sa wd s
  | .sbfx sd sa sb wd => Sys2Proof.Machine.execSbfx sd sa sb wd s
  | .saddi sd sa imm => Sys2Proof.Machine.execSaddi sd sa imm s
  | .sandi sd sa imm => Sys2Proof.Machine.execSandi sd sa imm s
  | .sori sd sa imm => Sys2Proof.Machine.execSori sd sa imm s
  | .sxori sd sa imm => Sys2Proof.Machine.execSxori sd sa imm s
  | .sshli sd sa num => Sys2Proof.Machine.execSshli sd sa num s
  | .sshri sd sa arith num => Sys2Proof.Machine.execSshri sd sa arith num s
  | .sli sd imm => Sys2Proof.Machine.execSli sd imm s
  | .slui sd imm => Sys2Proof.Machine.execSlui sd imm s
  | .scmp sa sb => Sys2Proof.Machine.execScmp sa sb s
  | .scmpi sa imm => Sys2Proof.Machine.execScmpi sa imm s
  | .ssel sd sa sb cnd => Sys2Proof.Machine.execSsel sd sa sb cnd s
  | .sget sd num => Sys2Proof.Machine.execSget sd num s
  | .sset sa num => Sys2Proof.Machine.execSset sa num s
  | .sdiv sd sa sb la wd => Sys2Proof.Machine.execSdiv sd sa sb la wd s
  | .sdivu sd sa sb la wd => Sys2Proof.Machine.execSdivu sd sa sb la wd s
  | .srem sd sa sb la wd => Sys2Proof.Machine.execSrem sd sa sb la wd s
  | .sremu sd sa sb la wd => Sys2Proof.Machine.execSremu sd sa sb la wd s
  | .br cnd off => Sys2Proof.Machine.execBr cnd off s
  | .brm test m off => Sys2Proof.Machine.execBrm test m off s
  | .call off => Sys2Proof.Machine.execCall off s
  | .bri ss => Sys2Proof.Machine.execBri ss s
  | .calli ss => Sys2Proof.Machine.execCalli ss s
  | .ret => Sys2Proof.Machine.execRet s
  | .mark off => Sys2Proof.Machine.execMark off s
  | .join => Sys2Proof.Machine.execJoin s
  | .split m off => Sys2Proof.Machine.execSplit m off s
  | .regang => Sys2Proof.Machine.execRegang s
  | .ihead off => Sys2Proof.Machine.execIhead off s
  | .idone m => Sys2Proof.Machine.execIdone m s
  | .barsync bar => Sys2Proof.Machine.execBarsync bar s
  | .bararr bar => Sys2Proof.Machine.execBararr bar s
  | .barwait bar => Sys2Proof.Machine.execBarwait bar s
  | .yield => Sys2Proof.Machine.execYield s
  | .waitSb slots => Sys2Proof.Machine.execWaitSb slots s
  | .waitDet => Sys2Proof.Machine.execWaitDet s
  | .waitOpc num => Sys2Proof.Machine.execWaitOpc num s
  | .waitMat num => Sys2Proof.Machine.execWaitMat num s
  | .waitBatch num => Sys2Proof.Machine.execWaitBatch num s
  | .exit => Sys2Proof.Machine.execExit s
  | .setfmt imm => Sys2Proof.Machine.execSetfmt imm s
  | .setfmtScalar ss => Sys2Proof.Machine.execSetfmtScalar ss s
  | .nop => Sys2Proof.Machine.execNop s
  | .launch sd sa => Sys2Proof.Machine.execLaunch sd sa s
  | .lwait sd sa => Sys2Proof.Machine.execLwait sd sa s
  | .trap code => Sys2Proof.Machine.execTrap code s
  | .brk code => Sys2Proof.Machine.execBrk code s
  | .tret form => Sys2Proof.Machine.execTret form s
  | .eret retry => Sys2Proof.Machine.execEret retry s
  | .ewin win num kind => Sys2Proof.Machine.execEwin win num kind s
  | .fbar => Sys2Proof.Machine.execFbar s
  | .vld vd va sz sp la m => Sys2Proof.Machine.execVld vd va sz sp la m s
  | .vldPr vd va sz la m => Sys2Proof.Machine.execVldPr vd va sz la m s
  | .vst vs va sz sp la m => Sys2Proof.Machine.execVst vs va sz sp la m s
  | .vlda vd va sz scope la m => Sys2Proof.Machine.execVlda vd va sz scope la m s
  | .vstl vs va sz scope la m => Sys2Proof.Machine.execVstl vs va sz scope la m s
  | .sld sd sa off dw => Sys2Proof.Machine.execSld sd sa off dw s
  | .sst sd sa off dw => Sys2Proof.Machine.execSst sd sa off dw s
  | .pref sa l2only => Sys2Proof.Machine.execPref sa l2only s
  | .clock sd sa => Sys2Proof.Machine.execClock sd sa s
  | .cunlk sa => Sys2Proof.Machine.execCunlk sa s
  | .cinv sa => Sys2Proof.Machine.execCinv sa s
  | .cwb sa => Sys2Proof.Machine.execCwb sa s
  | .vatom vd va vb op => Sys2Proof.Machine.execVatom vd va vb op s
  | .vatomAr vd va vb op => Sys2Proof.Machine.execVatomAr vd va vb op s
  | .vatomW vd va vb op => Sys2Proof.Machine.execVatomW vd va vb op s
  | .satom sd sa sb op ord dw => Sys2Proof.Machine.execSatom sd sa sb op ord dw s
  | .fence scope => Sys2Proof.Machine.execFence scope s
  | .fenceAcq scope => Sys2Proof.Machine.execFenceAcq scope s
  | .fenceRel scope => Sys2Proof.Machine.execFenceRel scope s
  | .fenceLt => Sys2Proof.Machine.execFenceLt s
  | .fenceHv scope => Sys2Proof.Machine.execFenceHv scope s
  | .mofence => Sys2Proof.Machine.execMofence s
  | .mma vc sA sB zero la => Sys2Proof.Machine.execMma vc sA sB zero la s
  | .mmaR vc va sB zero la => Sys2Proof.Machine.execMmaR vc va sB zero la s
  | .mms vc sA sB zero la => Sys2Proof.Machine.execMms vc sA sB zero la s
  | .mmsR vc va sB zero la => Sys2Proof.Machine.execMmsR vc va sB zero la s
  | .wbload sa sb la => Sys2Proof.Machine.execWbload sa sb la s
  | .spload sa sb la => Sys2Proof.Machine.execSpload sa sb la s
  | .cbload sa sb la => Sys2Proof.Machine.execCbload sa sb la s
  | .zpload sa sb la => Sys2Proof.Machine.execZpload sa sb la s
  | .mzero la => Sys2Proof.Machine.execMzero la s
  | .cpy sD sS sN z mc ver step seq nt zf => Sys2Proof.Machine.execCpy sD sS sN z mc ver step seq nt zf s
  | .cseal => Sys2Proof.Machine.execCseal s
  | .cyield num off => Sys2Proof.Machine.execCyield num off s
  | .sqinit ss => Sys2Proof.Machine.execSqinit ss s
  | .sqwait ss sn => Sys2Proof.Machine.execSqwait ss sn s
  | .sqrel ss sn => Sys2Proof.Machine.execSqrel ss sn s
  | .pdone => Sys2Proof.Machine.execPdone s
  | .pwait sa => Sys2Proof.Machine.execPwait sa s
  | .pfin sd sa => Sys2Proof.Machine.execPfin sd sa s
  | .ldp vd va ss la m => Sys2Proof.Machine.execLdp vd va ss la m s
  | .fretype sd sa sb => Sys2Proof.Machine.execFretype sd sa sb s
  | .finfo sd sa => Sys2Proof.Machine.execFinfo sd sa s
  | .fharvest sd sa sb => Sys2Proof.Machine.execFharvest sd sa sb s
  | .fresume sd sa => Sys2Proof.Machine.execFresume sd sa s
  | .clauseFetch grp tag => Sys2Proof.Machine.execClauseFetch grp tag s
  | .issueSelection core part => Sys2Proof.Machine.execIssueSelection core part s
  | .divideComplete grp fid => Sys2Proof.Machine.execDivideComplete grp fid s
  | .tableSetSwitch team part => Sys2Proof.Machine.execTableSetSwitch team part s
  | .matrixOperandsConsumed grp fid => Sys2Proof.Machine.execMatrixOperandsConsumed grp fid s
  | .matrixResultWritten grp fid => Sys2Proof.Machine.execMatrixResultWritten grp fid s
  | .tableLoadWrite grp fid => Sys2Proof.Machine.execTableLoadWrite grp fid s
  | .copyCommandAccept grp tag => Sys2Proof.Machine.execCopyCommandAccept grp tag s
  | .copyChunkWrite job chunk => Sys2Proof.Machine.execCopyChunkWrite job chunk s
  | .versionCommit job => Sys2Proof.Machine.execVersionCommit job s
  | .copyCompletion job => Sys2Proof.Machine.execCopyCompletion job s
  | .cyieldWake grp tag => Sys2Proof.Machine.execCyieldWake grp tag s
  | .fillArrival src => Sys2Proof.Machine.execFillArrival src s
  | .fillWindowTimeout job => Sys2Proof.Machine.execFillWindowTimeout job s
  | .armedCopyFire job => Sys2Proof.Machine.execArmedCopyFire job s
  | .apertureDoorbellAccept grp fid => Sys2Proof.Machine.execApertureDoorbellAccept grp fid s
  | .hostDoorbell tid ch data => Sys2Proof.Machine.execHostDoorbell tid ch data s
  | .blockTransferChain tid move => Sys2Proof.Machine.execBlockTransferChain tid move s
  | .blockTransferComplete tid ch => Sys2Proof.Machine.execBlockTransferComplete tid ch s
  | .ldpPortRead grp fid => Sys2Proof.Machine.execLdpPortRead grp fid s
  | .stepAdvance team => Sys2Proof.Machine.execStepAdvance team s
  | .finMessage team src => Sys2Proof.Machine.execFinMessage team src s
  | .loadDataReturn grp part => Sys2Proof.Machine.execLoadDataReturn grp part s
  | .storeComplete grp part => Sys2Proof.Machine.execStoreComplete grp part s
  | .l1Fill core gline victim l2victim => Sys2Proof.Machine.execL1Fill core gline victim l2victim s
  | .writePermissionGrant core gline => Sys2Proof.Machine.execWritePermissionGrant core gline s
  | .atomicPerform grp part => Sys2Proof.Machine.execAtomicPerform grp part s
  | .translationWalk tid tia => Sys2Proof.Machine.execTranslationWalk tid tia s
  | .tableStoreAdmission grp fid => Sys2Proof.Machine.execTableStoreAdmission grp fid s
  | .admissionAcknowledge adm => Sys2Proof.Machine.execAdmissionAcknowledge adm s
  | .emulationEntry w => Sys2Proof.Machine.execEmulationEntry w s
  | .trapEntry grp => Sys2Proof.Machine.execTrapEntry grp s
  | .waitlimExpiry grp tag => Sys2Proof.Machine.execWaitlimExpiry grp tag s
  | .abortCompletion target unit place => Sys2Proof.Machine.execAbortCompletion target unit place s
  | .scrub unit place found => Sys2Proof.Machine.execScrub unit place found s
  | .flitCrcFailure flit => Sys2Proof.Machine.execFlitCrcFailure flit s
  | .linkRetrain link trained => Sys2Proof.Machine.execLinkRetrain link trained s
  | .launchRingDoorbell tid level w => Sys2Proof.Machine.execLaunchRingDoorbell tid level w s
  | .launchIntake src => Sys2Proof.Machine.execLaunchIntake src s
  | .dependencePoll launch => Sys2Proof.Machine.execDependencePoll launch s
  | .residentLeaseCheck launch => Sys2Proof.Machine.execResidentLeaseCheck launch s
  | .teamPlacement launch => Sys2Proof.Machine.execTeamPlacement launch s
  | .teamEnd team => Sys2Proof.Machine.execTeamEnd team s
  | .launchCompletion launch => Sys2Proof.Machine.execLaunchCompletion launch s
  | .temperatureReport core temp droop => Sys2Proof.Machine.execTemperatureReport core temp droop s
  | .sliceBegin paddock tid => Sys2Proof.Machine.execSliceBegin paddock tid s
  | .sliceEnd paddock => Sys2Proof.Machine.execSliceEnd paddock s
  | .forcedHalt team => Sys2Proof.Machine.execForcedHalt team s
  | .teamSave team => Sys2Proof.Machine.execTeamSave team s
  | .teamRestore team => Sys2Proof.Machine.execTeamRestore team s
  | .debugHaltRequest tid core w => Sys2Proof.Machine.execDebugHaltRequest tid core w s
  | .debugHaltComplete core => Sys2Proof.Machine.execDebugHaltComplete core s
  | .debugResume tid core w => Sys2Proof.Machine.execDebugResume tid core w s
  | .layoutFlip w => Sys2Proof.Machine.execLayoutFlip w s
  | .paddockLend paddock tid => Sys2Proof.Machine.execPaddockLend paddock tid s
  | .paddockRecall paddock => Sys2Proof.Machine.execPaddockRecall paddock s
  | .recallDeadlineExpiry paddock => Sys2Proof.Machine.execRecallDeadlineExpiry paddock s
  | .tenancyTeardown tid => Sys2Proof.Machine.execTenancyTeardown tid s
  | .tenantRootWrite tid w => Sys2Proof.Machine.execTenantRootWrite tid w s
  | .faultQueueBind tid w => Sys2Proof.Machine.execFaultQueueBind tid w s
  | .segmentCommit tid ctx seg w => Sys2Proof.Machine.execSegmentCommit tid ctx seg w s
  | .retype tid w => Sys2Proof.Machine.execRetype tid w s
  | .info tid w => Sys2Proof.Machine.execInfo tid w s
  | .harvest tid w => Sys2Proof.Machine.execHarvest tid w s
  | .admitEntry tid w => Sys2Proof.Machine.execAdmitEntry tid w s
  | .resume tid w => Sys2Proof.Machine.execResume tid w s
  | .grant tid w man => Sys2Proof.Machine.execGrant tid w man s
  | .returnAllot tid w => Sys2Proof.Machine.execReturnAllot tid w s
  | .registerWrite tid off w => Sys2Proof.Machine.execRegisterWrite tid off w s
  | .hostWindowAccess tid off acc => Sys2Proof.Machine.execHostWindowAccess tid off acc s
  | .fabricRequest pkg tid tia acc => Sys2Proof.Machine.execFabricRequest pkg tid tia acc s
  | .packageReset boot => Sys2Proof.Machine.execPackageReset boot s
  | .lodgeWatchdogReset boot => Sys2Proof.Machine.execLodgeWatchdogReset boot s
  | .measurementExtend reg digest => Sys2Proof.Machine.execMeasurementExtend reg digest s
  | .getVersion fn => Sys2Proof.Machine.execGetVersion fn s
  | .getCapabilities fn => Sys2Proof.Machine.execGetCapabilities fn s
  | .negotiateAlgorithms fn mlDsa => Sys2Proof.Machine.execNegotiateAlgorithms fn mlDsa s
  | .getDigests fn => Sys2Proof.Machine.execGetDigests fn s
  | .getCertificate fn slot => Sys2Proof.Machine.execGetCertificate fn slot s
  | .challenge fn slot nonce => Sys2Proof.Machine.execChallenge fn slot nonce s
  | .getMeasurements fn index nonce => Sys2Proof.Machine.execGetMeasurements fn index nonce s
  | .spdmUnsupportedRequest fn code => Sys2Proof.Machine.execSpdmUnsupportedRequest fn code s
  | .powerLevelChange level => Sys2Proof.Machine.execPowerLevelChange level s
  | .sidebandPowerMessage level => Sys2Proof.Machine.execSidebandPowerMessage level s
  | .throttleStageAdvance => Sys2Proof.Machine.execThrottleStageAdvance s
  | .droopEvent core => Sys2Proof.Machine.execDroopEvent core s
  | .linkRetune link => Sys2Proof.Machine.execLinkRetune link s
  | .preciousRegionDeclare tid tia units => Sys2Proof.Machine.execPreciousRegionDeclare tid tia units s
  | .powerFailDrain => Sys2Proof.Machine.execPowerFailDrain s
  | .cacheOperationComplete grp fid => Sys2Proof.Machine.execCacheOperationComplete grp fid s
  | .throttleStageRelease => Sys2Proof.Machine.execThrottleStageRelease s
  | .pwrfailNRelease => Sys2Proof.Machine.execPwrfailNRelease s
  | .tenancyCreate tid terms => Sys2Proof.Machine.execTenancyCreate tid terms s
  | .featChange tid w => Sys2Proof.Machine.execFeatChange tid w s
  | .l2capChange tid cap => Sys2Proof.Machine.execL2capChange tid cap s
  | .damagedClear frame => Sys2Proof.Machine.execDamagedClear frame s
  | .layoutBankWrite words => Sys2Proof.Machine.execLayoutBankWrite words s

end Sys2Proof.Machine
end

