-- ==== Sys2Proof/Machine/Step.lean ====
section
/-! DEFINITION. Machine/Step.lean: one step of the machine (`State.move` says which), and a word placed where the next step takes it. -/

namespace Sys2Proof.Machine

/-- One step: the meaning of what comes next, and the time that passes with it. -/
def step (s : State) : Host.Outcome State Fault Refusal :=
  match s.move with
  | .given i => afterwards (exec i s.taken) (·.elapse)
  | .word i => afterwards (exec i s) State.afterFocus
  | .fetch f => afterwards (exec (.clauseFetch f.grp f.tag) s) State.afterFocus
  | .undef w => afterwards (exec (.emulationEntry w) s) State.afterFocus
  | .stale => .next s.afterFocus
  | .auto a => afterwards (a.exec s) (·.elapse)
  | .idle => .next (s.elapse 1)

/-- The word stands where `step` takes its next instruction: the clause buffer of the quad-set chosen to issue. Where none is chosen, a
program is loaded first (DESIGN CHOICE, assumption 21). Every instruction is one 32-bit word (R16). -/
def State.withFetchWord (s : State) (_nbits w : Nat) : State :=
  (if s.focusLive then s else s.placeFirst).putWord (BitVec.ofNat 32 w)

end Sys2Proof.Machine
end

