-- ==== Sys2Proof/Safety.lean ====
section
/-! DEFINITION. Safety.lean: what a safe run is, the canonical form that a state keeps, and the terms in which statements say what an
instruction does and what it leaves alone. -/

namespace Sys2Proof

/-- `n` steps end in a state: no fault and no refusal on the way. -/
def SafeFor (n : Nat) (s : Machine.State) : Prop := ∃ t, Host.Core.run core n s = .next t

/-- A safe run: it never stops. -/
def Safe (s : Machine.State) : Prop := ∀ n, SafeFor n s

namespace Machine

/-- Both byte memories are in canonical form: addresses rising, no entry equal to what an unlisted address reads as. -/
abbrev State.memWf (s : State) : Prop := s.dram.wf = true ∧ s.hostMem.wf = true

/-- The quad-set `x` is the one that issues, and `i` is a word that executes there: it is no word that is undefined where it stands (R26,
R36, R147), every feature group of its encoding is on (R37), and in trap mode it is one of the words of R348. -/
abbrev Issues (s : State) (x : Iss) (i : Instr) : Prop :=
  s.iss = some x ∧ (x.g.trap.mode.isSome = true → trapAllowed i = true) ∧ undefHere x i = false
    ∧ ∀ f ∈ staticFeats i, featOn x.l.feat f = true

/-- What an instruction leaves alone whose effect lies in the registers of its group: `g` is the group afterwards. Of the machine only
this group and the model's counter of free values change; of the group only its registers, its quad-sets, the bookkeeping of what is in
flight (which instructions are in flight does not change), what a waiting SHADOW trap waits for, and its turn to issue. -/
structure Kept (s t : State) (x : Iss) (g : Group) : Prop where
  here : t.group? x.g.ref = some g
  others : ∀ r, r ≠ x.g.ref → t.group? r = s.group? r
  machine : { t with groups := s.groups, free := s.free } = s
  group : { g with
    regs := x.g.regs, qsets := x.g.qsets, flights := x.g.flights, busy := x.g.busy, ready := x.g.ready, lastQuad := x.g.lastQuad
    trap := { g.trap with shadows := x.g.trap.shadows } } = x.g
  flights : g.flights.map (·.fid) = x.g.flights.map (·.fid)
  shadows : g.trap.shadows.map (·.trap) = x.g.trap.shadows.map (·.trap)

/-- Besides, the issuing quad-set goes on to the next word, and no other quad-set of the group moves. -/
structure Went (s t : State) (x : Iss) (g : Group) : Prop extends Kept s t x g where
  next : g.q? x.q.tag = some x.q.advance
  quads : ∀ tag, tag ≠ x.q.tag → g.q? tag = x.g.q? tag

/-- What lane l of lane register r holds after the registers `os` have been written from `f`: the value of the last of them that is this
register, or what it held. -/
def laneAfter (os : List Loc) (f : Nat → Nat → W32) (r l : Nat) (old : W32) : W32 :=
  os.zipIdx.foldl (fun v e => if e.1 = .lane r then f e.2 l else v) old

/-- The same for bit l of mask n, which a handler window may name (R147). -/
def maskAfter (os : List Loc) (f : Nat → Nat → W32) (n l : Nat) (old : Bool) : Bool :=
  os.zipIdx.foldl (fun v e => if e.1 = .mask n ∧ n ≠ 0 then f e.2 l ≠ 0 else v) old

/-- What an instruction writes: a lane operand in the lanes `ex`, a scalar, bits of a mask, the condition flags, floating-point flags. -/
structure Effect where
  dst : List Loc := []
  ex : W64 := 0
  val : Nat → Nat → W32 := fun _ _ => 0
  scal : Option (Nat × W64) := none
  mask : Option (Nat × W64 × W64) := none
  cc : Option (BitVec 4) := none
  fp : BitVec 5 := 0

/-- The registers after the effect `e`, in full: what is written, s0 and m0 excepted (R25, R26), and that nothing else is. -/
structure Effect.Done (e : Effect) (x : Iss) (g : Group) : Prop where
  lanes : ∀ r l, l < 64 → g.lane r l = if bit e.ex l then laneAfter e.dst e.val r l (x.g.lane r l) else x.g.lane r l
  scals : ∀ n, g.scal n = match e.scal with
    | some (d, v) => if n = d ∧ n ≠ 0 then v else x.g.scal n
    | none => x.g.scal n
  masks : ∀ n l, l < 64 → bit (g.mask n) l =
    let old := if bit e.ex l then maskAfter e.dst e.val n l (bit (x.g.mask n) l) else bit (x.g.mask n) l
    match e.mask with
    | some (d, lanes, v) => if n = d ∧ n ≠ 0 ∧ bit lanes l then bit v l else old
    | none => old
  flags : g.regs.cc = e.cc.getD x.g.regs.cc
  fpstat : g.regs.fpstat = x.g.regs.fpstat ||| e.fp
  others : { g.regs with
    lanes := x.g.regs.lanes, scal := x.g.regs.scal, masks := x.g.regs.masks, cc := x.g.regs.cc, fpstat := x.g.regs.fpstat } = x.g.regs

/-- The instruction completes: it answers a next state, in which its effect has been made, the quad-set has gone on, and all else is as
before. -/
def Completes (i : Instr) (s : State) (x : Iss) (e : Effect) : Prop :=
  ∃ t g, exec i s = .next t ∧ Went s t x g ∧ e.Done x g

/-! ## Results, read off the tables of the spec -/

/-- A lane operand of one register, as lane l of the issuing quad-set reads it. -/
def Iss.r (x : Iss) (n : BitVec 7) (l : Nat) : W32 := x.v (x.op 1 n.toNat) 0 l

/-- Both elements of a packed word, element 0 low (R64). -/
def bothHalves (f : W16 → W16 → W16 → W16) (a b d : W32) : W32 :=
  f (a.extractLsb' 16 16) (b.extractLsb' 16 16) (d.extractLsb' 16 16)
    ++ f (a.extractLsb' 0 16) (b.extractLsb' 0 16) (d.extractLsb' 0 16)

/-- A result per element of an integer type: .I32 and .UI32 are one element, .I16x2 and .UI16x2 two (R32, R64). -/
def byType (ty : BitVec 2) (f32 : W32 → W32 → W32 → W32) (f16 : W16 → W16 → W16 → W16) (a b d : W32) : W32 :=
  if ty.getLsbD 1 then bothHalves f16 a b d else f32 a b d

/-- The smaller of two values of an integer type, signed for .I types and unsigned for .UI types (R67). -/
def smaller {n : Nat} (ty : BitVec 2) (a b : BitVec n) : BitVec n :=
  if ty.getLsbD 0 then (if b.ult a then b else a) else (if b.slt a then b else a)

/-- The larger one. -/
def larger {n : Nat} (ty : BitVec 2) (a b : BitVec n) : BitVec n :=
  if ty.getLsbD 0 then (if a.ult b then b else a) else (if a.slt b then b else a)

/-- R67, VMULH: bits [63:32] of the 64-bit product, signed (t = 0) or unsigned (t = 1). -/
def highProduct (ty : BitVec 1) (a b : W32) : W32 :=
  if ty = 1 then (a.setWidth 64 * b.setWidth 64).extractLsb' 32 32 else (a.signExtend 64 * b.signExtend 64).extractLsb' 32 32

/-- R70, VBFX, bit by bit: the field, then zeros (t = 0) or copies of its top bit; beyond bit 31 the source reads 0, or its sign. -/
def bitField (ty : BitVec 1) (a b : W32) (j : Nat) : Bool :=
  let pos := (b.extractLsb' 0 5).toNat
  let len := min (b.extractLsb' 8 6).toNat 32
  let src (k : Nat) : Bool := if k < 32 then a.getLsbD k else ty = 1 && a.getLsbD 31
  if j < len then src (pos + j) else ty = 1 && decide (0 < len) && src (pos + len - 1)

/-- R70, VBFI, bit by bit. -/
def bitInsert (a b d : W32) (j : Nat) : Bool :=
  let pos := (b.extractLsb' 0 5).toNat
  let len := min (b.extractLsb' 8 6).toNat 32
  if pos ≤ j ∧ j < pos + len then a.getLsbD (j - pos) else d.getLsbD j

/-- R72: the products of the bytes, signed or unsigned by t: 0 .SS, 1 .UU, 2 .SU. -/
def byteDot (ty : BitVec 2) (a b d : W32) : W32 :=
  let sa (i : Nat) : W32 := if ty = 1 then (a.extractLsb' (8 * i) 8).setWidth 32 else (a.extractLsb' (8 * i) 8).signExtend 32
  let sb (i : Nat) : W32 := if ty = 0 then (b.extractLsb' (8 * i) 8).signExtend 32 else (b.extractLsb' (8 * i) 8).setWidth 32
  d + sa 0 * sb 0 + sa 1 * sb 1 + sa 2 * sb 2 + sa 3 * sb 3

/-- R73: the carry-less product. -/
def carryless (a b : W32) : W64 :=
  (List.range 32).foldl (fun p i => p ^^^ (if a.getLsbD i then b.setWidth 64 <<< i else 0)) 0

/-- Integer arithmetic, logic and immediates of the lane engine (R67, R69 to R76), VSEL among them: destination, execution mask (m0 for
VSEL, R65) and the result in lane l. VBFX and VBFI are said bit by bit elsewhere. -/
def intLane : Instr → Option (BitVec 7 × BitVec 2 × (Iss → Nat → W32))
  | .vadd vd va vb m ty => some (vd, m, fun x l => byType ty (fun a b _ => a + b) (fun a b _ => a + b) (x.r va l) (x.r vb l) 0)
  | .vsub vd va vb m ty => some (vd, m, fun x l => byType ty (fun a b _ => a - b) (fun a b _ => a - b) (x.r va l) (x.r vb l) 0)
  | .vmul vd va vb m ty => some (vd, m, fun x l => byType ty (fun a b _ => a * b) (fun a b _ => a * b) (x.r va l) (x.r vb l) 0)
  | .vmulh vd va vb m ty => some (vd, m, fun x l => highProduct ty (x.r va l) (x.r vb l))
  | .vmad vd va vb m ty =>
    some (vd, m, fun x l => byType ty (fun a b d => a * b + d) (fun a b d => a * b + d) (x.r va l) (x.r vb l) (x.r vd l))
  | .vand vd va vb m => some (vd, m, fun x l => x.r va l &&& x.r vb l)
  | .vor vd va vb m => some (vd, m, fun x l => x.r va l ||| x.r vb l)
  | .vxor vd va vb m => some (vd, m, fun x l => x.r va l ^^^ x.r vb l)
  | .vandn vd va vb m => some (vd, m, fun x l => x.r va l &&& ~~~x.r vb l)
  | .vshl vd va vb m => some (vd, m, fun x l => x.r va l <<< ((x.r vb l).extractLsb' 0 5).toNat)
  | .vshr vd va vb m ty => some (vd, m, fun x l =>
      let n := ((x.r vb l).extractLsb' 0 5).toNat
      if ty = 1 then (x.r va l).sshiftRight n else x.r va l >>> n)
  | .vmin vd va vb m ty =>
    some (vd, m, fun x l => byType ty (fun a b _ => smaller ty a b) (fun a b _ => smaller ty a b) (x.r va l) (x.r vb l) 0)
  | .vmax vd va vb m ty =>
    some (vd, m, fun x l => byType ty (fun a b _ => larger ty a b) (fun a b _ => larger ty a b) (x.r va l) (x.r vb l) 0)
  | .vabsd vd va vb m ty => some (vd, m, fun x l =>
      byType ty (fun a b _ => larger ty a b - smaller ty a b) (fun a b _ => larger ty a b - smaller ty a b) (x.r va l) (x.r vb l) 0)
  | .vsel vd va vb ms => some (vd, 0, fun x l => if bit (x.g.rdMask x.free ms.toNat) l then x.r va l else x.r vb l)
  | .vpopc vd va m => some (vd, m, fun x l => BitVec.ofNat 32 ((List.range 32).countP fun i => (x.r va l).getLsbD i))
  | .vclz vd va m => some (vd, m, fun x l =>
      BitVec.ofNat 32 ((List.range 32).findIdx fun i => (x.r va l).getLsbD (31 - i)))
  | .vbrev vd va m => some (vd, m, fun x l => BitVec.ofFnLE fun i : Fin 32 => (x.r va l).getLsbD (31 - i))
  | .vneg vd va m => some (vd, m, fun x l => -x.r va l)
  | .vdp4 vd va vb m ty => some (vd, m, fun x l => byteDot ty (x.r va l) (x.r vb l) (x.r vd l))
  | .vclmul vd va vb m ty => some (vd, m, fun x l => (carryless (x.r va l) (x.r vb l)).extractLsb' (if ty = 1 then 32 else 0) 32)
  | .vmov vd va m => some (vd, m, fun x l => x.r va l)
  | .vaddi vd va imm m ty => some (vd, m, fun x l =>
      byType ty (fun a _ _ => a + imm.signExtend 32) (fun a _ _ => a + imm.signExtend 16) (x.r va l) 0 0)
  | .vmuli vd va imm m ty => some (vd, m, fun x l =>
      byType ty (fun a _ _ => a * imm.signExtend 32) (fun a _ _ => a * imm.signExtend 16) (x.r va l) 0 0)
  | .vshli vd va imm m => some (vd, m, fun x l => x.r va l <<< imm.toNat)
  | .vshri vd va imm m ty => some (vd, m, fun x l => if ty = 1 then (x.r va l).sshiftRight imm.toNat else x.r va l >>> imm.toNat)
  | .vandi vd va imm m => some (vd, m, fun x l => x.r va l &&& imm.signExtend 32)
  | .vli vd imm m => some (vd, m, fun _ _ => imm.signExtend 32)
  | _ => none

/-- A comparison of R31 on an integer type: 0 EQ, 1 NE, 2 LT, 3 LE, 4 GT, 5 GE. -/
def compares {n : Nat} (ty : BitVec 2) (cnd : BitVec 4) (a b : BitVec n) : Bool :=
  let lt : Bool := if ty.getLsbD 0 then a.ult b else a.slt b
  match cnd.toNat with
  | 0 => a = b
  | 1 => a ≠ b
  | 2 => lt
  | 3 => lt || a = b
  | 4 => !(lt || a = b)
  | _ => !lt

/-- The condition of VCMP and VCMPI in one lane: over packed types, of both elements (R77). -/
def laneCompares (ty : BitVec 2) (cnd : BitVec 4) (a b : W32) : Bool :=
  if ty.getLsbD 1 then
    compares ty cnd (a.extractLsb' 0 16) (b.extractLsb' 0 16) && compares ty cnd (a.extractLsb' 16 16) (b.extractLsb' 16 16)
  else compares ty cnd a b

/-- The table of R117: the result of a scalar operation in n bits, the shift counts being of `k` bits; for the unary ones b is 0. -/
def scalarFn (n k : Nat) : Instr → Option (BitVec 6 × BitVec 6 × BitVec 6 × BitVec 1 × (BitVec n → BitVec n → BitVec n))
  | .sadd sd sa sb wd => some (sd, sa, sb, wd, fun a b => a + b)
  | .ssub sd sa sb wd => some (sd, sa, sb, wd, fun a b => a - b)
  | .smul sd sa sb wd => some (sd, sa, sb, wd, fun a b => a * b)
  | .smulh sd sa sb wd => some (sd, sa, sb, wd, fun a b => (a.signExtend (2 * n) * b.signExtend (2 * n)).extractLsb' n n)
  | .smulhu sd sa sb wd => some (sd, sa, sb, wd, fun a b => (a.setWidth (2 * n) * b.setWidth (2 * n)).extractLsb' n n)
  | .sand sd sa sb wd => some (sd, sa, sb, wd, fun a b => a &&& b)
  | .sor sd sa sb wd => some (sd, sa, sb, wd, fun a b => a ||| b)
  | .sxor sd sa sb wd => some (sd, sa, sb, wd, fun a b => a ^^^ b)
  | .sandn sd sa sb wd => some (sd, sa, sb, wd, fun a b => a &&& ~~~b)
  | .sshl sd sa sb wd => some (sd, sa, sb, wd, fun a b => a <<< (b.extractLsb' 0 k).toNat)
  | .sshr sd sa sb wd => some (sd, sa, sb, wd, fun a b => a >>> (b.extractLsb' 0 k).toNat)
  | .ssra sd sa sb wd => some (sd, sa, sb, wd, fun a b => a.sshiftRight (b.extractLsb' 0 k).toNat)
  | .smin sd sa sb wd => some (sd, sa, sb, wd, fun a b => smaller 0 a b)
  | .smax sd sa sb wd => some (sd, sa, sb, wd, fun a b => larger 0 a b)
  | .sminu sd sa sb wd => some (sd, sa, sb, wd, fun a b => smaller 1 a b)
  | .smaxu sd sa sb wd => some (sd, sa, sb, wd, fun a b => larger 1 a b)
  | .spopc sd sa wd => some (sd, sa, 0, wd, fun a _ => BitVec.ofNat n ((List.range n).countP fun i => a.getLsbD i))
  | .sclz sd sa wd => some (sd, sa, 0, wd, fun a _ => BitVec.ofNat n ((List.range n).findIdx fun i => a.getLsbD (n - 1 - i)))
  | .smov sd sa wd => some (sd, sa, 0, wd, fun a _ => a)
  | .sbfx sd sa sb wd => some (sd, sa, sb, wd, fun a b =>
      BitVec.ofFnLE fun i : Fin n => decide (i < min (b.extractLsb' 8 (k + 1)).toNat n) && a.getLsbD ((b.extractLsb' 0 k).toNat + i))
  | _ => none

/-- Destination and value of the scalar instructions without a .W form (R118, R119, R121, R122). -/
def scalarImmediate : Instr → Option (BitVec 6 × (Iss → W64))
  | .saddi sd sa imm => some (sd, fun x => x.s sa.toNat + imm.signExtend 64)
  | .sandi sd sa imm => some (sd, fun x => x.s sa.toNat &&& imm.signExtend 64)
  | .sori sd sa imm => some (sd, fun x => x.s sa.toNat ||| imm.signExtend 64)
  | .sxori sd sa imm => some (sd, fun x => x.s sa.toNat ^^^ imm.signExtend 64)
  | .sshli sd sa num => some (sd, fun x => x.s sa.toNat <<< num.toNat)
  | .sshri sd sa arith num => some (sd, fun x => if arith = 1 then (x.s sa.toNat).sshiftRight num.toNat else x.s sa.toNat >>> num.toNat)
  | .sli sd imm => some (sd, fun _ => imm.signExtend 64)
  | .slui sd imm => some (sd, fun x => imm.signExtend 51 ++ (x.s sd.toNat).extractLsb' 0 13)
  | .ssel sd sa sb cnd => some (sd, fun x => if condHolds x.g.regs.cc cnd.toNat then x.s sa.toNat else x.s sb.toNat)
  | _ => none

/-- Element e of lane l of an operand of a floating type: an F64 from its register pair, low word in the even register; element e of a
packed word (R64). -/
def Iss.f (x : Iss) (ty : BitVec 2) (n : BitVec 7) (e l : Nat) : Nat :=
  match ty.toNat with
  | 0 => (x.r n l).toNat
  | 1 => (x.v (x.op 2 n.toNat) 1 l ++ x.v (x.op 2 n.toNat) 0 l).toNat
  | _ => ((x.r n l).extractLsb' (16 * e) 16).toNat

/-- Register i of a result of a floating type, formed from its elements (R64). -/
def resultWord (ty : BitVec 2) (c : Nat → Nat) (i : Nat) : W32 :=
  match ty.toNat with
  | 0 => BitVec.ofNat 32 (c 0)
  | 1 => BitVec.ofNat 32 (c 0 / 2 ^ (32 * i))
  | _ => BitVec.ofNat 16 (c 1) ++ BitVec.ofNat 16 (c 0)

/-- Floating arithmetic of the lane engine (R79, R81, R82): destination, execution mask, type, and the result of element e of lane l with
its flags. The operands are read in the type's format (R32), lane l's element e of each; the rounding mode is FMT.RM where the operation
takes one (R51). -/
def floatLane : Instr → Option (BitVec 7 × BitVec 2 × BitVec 2 × (Iss → Nat → Nat → Nat × BitVec 5))
  | .vfadd vd va vb m ty => some (vd, m, ty, fun x e l => fadd (fmtOfTy ty.toNat) (fmtRm x.q.fmt) (x.f ty va e l) (x.f ty vb e l))
  | .vfsub vd va vb m ty => some (vd, m, ty, fun x e l => fsub (fmtOfTy ty.toNat) (fmtRm x.q.fmt) (x.f ty va e l) (x.f ty vb e l))
  | .vfmul vd va vb m ty => some (vd, m, ty, fun x e l => fmul (fmtOfTy ty.toNat) (fmtRm x.q.fmt) (x.f ty va e l) (x.f ty vb e l))
  | .vfma vd va vb m ty => some (vd, m, ty, fun x e l =>
      ffma (fmtOfTy ty.toNat) (fmtRm x.q.fmt) false false (x.f ty va e l) (x.f ty vb e l) (x.f ty vd e l))
  | .vfms vd va vb m ty => some (vd, m, ty, fun x e l =>
      ffma (fmtOfTy ty.toNat) (fmtRm x.q.fmt) false true (x.f ty va e l) (x.f ty vb e l) (x.f ty vd e l))
  | .vfnma vd va vb m ty => some (vd, m, ty, fun x e l =>
      ffma (fmtOfTy ty.toNat) (fmtRm x.q.fmt) true false (x.f ty va e l) (x.f ty vb e l) (x.f ty vd e l))
  | .vfmin vd va vb m ty => some (vd, m, ty, fun x e l => fminmax (fmtOfTy ty.toNat) false (x.f ty va e l) (x.f ty vb e l))
  | .vfmax vd va vb m ty => some (vd, m, ty, fun x e l => fminmax (fmtOfTy ty.toNat) true (x.f ty va e l) (x.f ty vb e l))
  | .vfscale vd va vb m ty => some (vd, m, ty, fun x e l =>
      fscale (fmtOfTy ty.toNat) (fmtRm x.q.fmt) (x.f ty va e l)
        (if ty.getLsbD 1 then ((x.r vb l).extractLsb' (16 * e) 16).toInt else (x.r vb l).toInt))
  | .vfrcp vd va m ty => some (vd, m, ty, fun x e l => frcp (fmtOfTy ty.toNat) (x.f ty va e l))
  | .vfrsq vd va m ty => some (vd, m, ty, fun x e l => frsq (fmtOfTy ty.toNat) (x.f ty va e l))
  | .vfsqrt vd va m ty => some (vd, m, ty, fun x e l => fsqrt (fmtOfTy ty.toNat) (fmtRm x.q.fmt) (x.f ty va e l))
  | .vfexp2 vd va m ty => some (vd, m, ty, fun x e l => fexp2 (fmtOfTy ty.toNat) (x.f ty va e l))
  | .vflog2 vd va m ty => some (vd, m, ty, fun x e l => flog2 (fmtOfTy ty.toNat) (x.f ty va e l))
  | .vfsin vd va m ty => some (vd, m, ty, fun x e l => fsincos (fmtOfTy ty.toNat) false (x.f ty va e l))
  | .vfcos vd va m ty => some (vd, m, ty, fun x e l => fsincos (fmtOfTy ty.toNat) true (x.f ty va e l))
  | .vfabs vd va m ty => some (vd, m, ty, fun x e l => fabsCode (fmtOfTy ty.toNat) (x.f ty va e l))
  | .vfneg vd va m ty => some (vd, m, ty, fun x e l => fnegCode (fmtOfTy ty.toNat) (x.f ty va e l))
  | .vfrndN vd va m ty => some (vd, m, ty, fun x e l => frnd (fmtOfTy ty.toNat) 0 (x.f ty va e l))
  | .vfrndZ vd va m ty => some (vd, m, ty, fun x e l => frnd (fmtOfTy ty.toNat) 1 (x.f ty va e l))
  | .vfrndD vd va m ty => some (vd, m, ty, fun x e l => frnd (fmtOfTy ty.toNat) 2 (x.f ty va e l))
  | .vfrndU vd va m ty => some (vd, m, ty, fun x e l => frnd (fmtOfTy ty.toNat) 3 (x.f ty va e l))
  | .vffrc vd va m ty => some (vd, m, ty, fun x e l => ffrc (fmtOfTy ty.toNat) (fmtRm x.q.fmt) (x.f ty va e l))
  | _ => none

/-- The set flags `fp` are those that some executing lane raises in some element (R57). -/
def RaisedBy (fp : BitVec 5) (ex : W64) (es : List Nat) (flags : Nat → Nat → BitVec 5) : Prop :=
  ∀ k, k < 5 → (fp.getLsbD k = true ↔ ∃ l e, l < 64 ∧ bit ex l = true ∧ e ∈ es ∧ (flags e l).getLsbD k = true)

/-- A code is a NaN of a format with infinities (R46). -/
def FFmt.isNan (f : FFmt) (c : Nat) : Prop := c / 2 ^ f.mb % 2 ^ f.eb = 2 ^ f.eb - 1 ∧ c % 2 ^ f.mb ≠ 0

/-! ## Instructions that move their quad-set or their group -/

/-- The issuing group as its instruction finds it: its turn to issue has been counted (R22, R113, R114). -/
def Iss.now (x : Iss) : Group := x.g.issued x.q

/-- The instruction completes: it answers a next state in which the issuing group is `g`, and all else is as before, the model's counter of
free values excepted. -/
def Becomes (i : Instr) (s : State) (x : Iss) (g : Group) : Prop :=
  ∃ t, exec i s = .next t ∧ t.group? x.g.ref = some g ∧ (∀ r, r ≠ x.g.ref → t.group? r = s.group? r)
    ∧ { t with groups := s.groups, free := s.free } = s

/-- The instruction completes, and all that changes is the issuing quad-set. -/
def Moves (i : Instr) (s : State) (x : Iss) (f : QSet → QSet) : Prop := Becomes i s x (x.now.modQ x.q.tag f)

/-- The instruction goes on to the next word (R21). -/
def GoesOn (i : Instr) (s : State) (x : Iss) : Prop := Moves i s x QSet.advance

/-- The instruction sends its quad-set to a clause header (R21). -/
def GoesTo (i : Instr) (s : State) (x : Iss) (target : W64) : Prop := Moves i s x fun q => q.goto target

/-- A held quad-set: a wait in progress keeps its limit and its count, a new one starts with the group's WAITLIM and keeps the
scalar operands that the instruction read as it issued (R115, R122, R350). -/
def QSet.held (q : QSet) (k : HoldKind) (bounded : Bool) (waitlim : W32) (kept : List (Nat × W64)) : QSet :=
  { q with hold := match q.hold with
    | some h => some { h with kind := k, bounded := bounded }
    | none => some ⟨k, bounded, waitClocks waitlim, 0, kept⟩ }

/-- The instruction holds its quad-set. -/
def Waits (i : Instr) (s : State) (x : Iss) (k : HoldKind) (bounded : Bool) : Prop :=
  Moves i s x fun q => q.held k bounded x.g.regs.waitlim x.kept

/-- A trap at issue with this cause, %taddr and %tdetail (R343); `Obligations.TrapEntry` says what that is. -/
def Traps (i : Instr) (s : State) (x : Iss) (cause : Nat) (addr detail : W64) : Prop :=
  exec i s = .next ((s.prep x).raise x cause addr detail)

/-- A target is a clause header of the context's code, seen as the turn to issue has been counted (R21). -/
def IsHeader (s : State) (x : Iss) (a : W64) : Prop := (s.prep x).headerAt x.t.core x.l.cid a = true

/-- A transfer to `target` if `c` holds (R21, R124): on to the next word otherwise, and TARGET where no header stands. -/
structure Transfers (i : Instr) (s : State) (x : Iss) (c : Prop) (target : W64) : Prop where
  on : ¬c → GoesOn i s x
  taken : c → IsHeader s x target → GoesTo i s x target
  bad : c → ¬IsHeader s x target → Traps i s x 2 target 0

/-- Quads of `q` all lie in `m`. -/
def InQuads (q m : W16) : Prop := ∀ k, k < 16 → q.getLsbD k = true → m.getLsbD k = true

/-- The quads of a set with a lane that is live, not dead, below the width and set in mask m (R101). -/
def Departs (x : Iss) (m : Nat) (dep : W16) : Prop :=
  ∀ k, k < 16 → (dep.getLsbD k = true ↔ x.q.quads.getLsbD k = true ∧ ∃ l, l / 4 = k ∧ l < x.g.width ∧ bit x.g.regs.live l = true
    ∧ bit x.g.regs.dead l = false ∧ bit (x.g.rdMask x.free m) l = true)

/-! ## Taking an exception -/

/-- A team ends with a status and the cause that its completion record carries (R140, R150, R337): the team is ending, its groups have
retired, and nothing else has changed. -/
structure TeamEnds (s t : State) (team status : Nat) (cause : EndCause) : Prop where
  ended : ∀ k, s.team? team = some k → k.state ≠ .ended → k.state ≠ .ending →
    t.team? team = some { k with state := .ending, status := status, cause := cause }
  groups : ∀ g ∈ t.groups, g.team = team → g.run = .retired ∧ g.qsets = []
  others : ∀ r g, s.group? r = some g → g.team ≠ team → t.group? r = some g
  rest : { t with groups := s.groups, teams := s.teams, free := s.free } = s

/-- The quad-set has entered the trap handler (R344, R347): the trap registers, what is saved, and the handler's address; the registers of
the group stay, and the group drops nothing that it has in flight. -/
structure TrapEntered (s t : State) (x : Iss) (cause : Nat) (addr detail handler : W64) : Prop where
  entered : ∃ g save, t.group? x.g.ref = some g ∧ g.trap.mode = some save
    ∧ g.trap.tcause = BitVec.ofNat 64 cause ∧ g.trap.tpc = x.q.pc ∧ g.trap.taddr = addr ∧ g.trap.tdetail = detail
    ∧ save.saved = ⟨x.q.pc, x.q.fmt, x.q.clause⟩ ∧ save.tag = x.q.tag ∧ save.hold = x.q.hold ∧ save.atIssue = true
    ∧ g.q? x.q.tag = some (x.q.goto handler) ∧ (∀ tag, tag ≠ x.q.tag → g.q? tag = x.g.q? tag)
    ∧ { g with trap := x.now.trap, qsets := x.now.qsets } = x.now
  others : ∀ r, r ≠ x.g.ref → t.group? r = s.group? r
  rest : { t with groups := s.groups, free := s.free } = s

/-- The quad-set has entered the emulation handler for word `w` (R140 to R145). -/
structure Emulates (s t : State) (x : Iss) (w : W32) (cause fgrp : Nat) (handler : W64) : Prop where
  entered : ∃ g, t.group? x.g.ref = some g
    ∧ g.emu.level = x.g.emu.level + 1 ∧ (x.g.emu.level = 0 → g.emu.tag = x.q.tag) ∧ (x.g.emu.level = 1 → g.emu.bank = x.g.emu.cur)
    ∧ (if x.g.emu.level = 0 then g.emu.save1 else g.emu.save2) = ⟨x.q.pc, x.q.fmt, x.q.clause⟩
    ∧ g.emu.cur.ecause = BitVec.ofNat 64 (cause + if cause = 2 then (fgrp + 1) * 256 else 0)
    ∧ g.emu.cur.eword = w.setWidth 64 ∧ g.emu.cur.epc = x.q.pc
    ∧ g.emu.cur.emask = x.exec (wordMask x.l.kernel.isa w)
    ∧ (g.emu.cur.w0, g.emu.cur.w1, g.emu.cur.w2, g.emu.cur.w3) = descriptors x.l.kernel.isa (x.g.emu.level = 1) w
    ∧ g.q? x.q.tag = some (x.q.goto handler) ∧ (∀ tag, tag ≠ x.q.tag → g.q? tag = x.g.q? tag)
    ∧ { g with emu := x.now.emu, qsets := x.now.qsets } = x.now
  others : ∀ r, r ≠ x.g.ref → t.group? r = s.group? r
  rest : { t with groups := s.groups, free := s.free } = s

/-! ## Instructions in flight -/

/-- The instruction is in flight as `f` and its quad-set has gone on (R22): `f` is the last of the group's flights under a name of its own,
registers and memory are as before. -/
structure InFlight (i : Instr) (s t : State) (x : Iss) (g : Group) (f : Flight) : Prop where
  here : t.group? x.g.ref = some g
  flights : g.flights = x.now.flights ++ [f]
  flight : f.fid = s.next ∧ f.instr = i ∧ f.pc = x.q.pc ∧ f.tag = x.q.tag ∧ f.quads = x.q.quads ∧ f.fmt = x.q.fmt ∧ f.done = 0
    ∧ f.after = 0 ∧ f.consumed = false ∧ f.trap = none ∧ f.demand = none
  next : g.q? x.q.tag = some x.q.advance
  quads : ∀ tag, tag ≠ x.q.tag → g.q? tag = x.g.q? tag
  group : { g with flights := x.now.flights, busy := x.now.busy, qsets := x.now.qsets } = x.now
  others : ∀ r, r ≠ x.g.ref → t.group? r = s.group? r
  fresh : t.next = s.next + 1
  rest : { t with groups := s.groups, free := s.free, next := s.next } = s

/-- A memory instruction of the lanes: execution mask, use, lookahead, scoreboard slot, bytes, address register, whether it holds a
scratchpad offset, the operand with the words that it carries, and its destination, each as (registers, first register). -/
structure LaneForm where
  m : Nat
  use : AccUse
  look : Nat
  slot : Nat
  size : Nat
  va : Nat
  offset : Bool := false
  data : Option (Nat × Nat) := none
  dst : Option (Nat × Nat) := none

/-- Loads, stores and atomics of the lanes (R24, R33, R183 to R185, R189). -/
def laneForm : Instr → Option LaneForm
  | .vld vd va sz sp la m => some {
      m := m.toNat, use := .load, look := la.toNat, slot := 1, size := szBytes sz.toNat, va := va.toNat, offset := sp = 1
      dst := some (szRegs sz.toNat, vd.toNat) }
  | .vldPr vd va sz la m => some {
      m := m.toNat, use := .load, look := la.toNat, slot := 1, size := szBytes sz.toNat, va := va.toNat
      dst := some (szRegs sz.toNat, vd.toNat) }
  | .vlda vd va sz _ la m => some {
      m := m.toNat, use := .loadAcq, look := la.toNat, slot := 1, size := szBytes sz.toNat, va := va.toNat
      dst := some (szRegs sz.toNat, vd.toNat) }
  | .vst vs va sz sp la m => some {
      m := m.toNat, use := if sz = 5 then .store8 else .store, look := la.toNat, slot := 2, size := szBytes sz.toNat, va := va.toNat
      offset := sp = 1, data := some (szRegs sz.toNat, vs.toNat) }
  | .vstl vs va sz _ la m => some {
      m := m.toNat, use := .storeRel, look := la.toNat, slot := 2, size := szBytes sz.toNat, va := va.toNat
      data := some (szRegs sz.toNat, vs.toNat) }
  | .vatom vd va vb op => some {
      m := 0, use := .atomic, look := if vd = 127 then 15 else 0, slot := 3, size := 4, va := va.toNat
      data := some (if op = 10 then 2 else 1, vb.toNat), dst := if vd = 127 then none else some (1, vd.toNat) }
  | .vatomAr vd va vb op => some {
      m := 0, use := .atomic, look := if vd = 127 then 15 else 0, slot := 3, size := 4, va := va.toNat
      data := some (if op = 10 then 2 else 1, vb.toNat), dst := if vd = 127 then none else some (1, vd.toNat) }
  | .vatomW vd va vb op => some {
      m := 0, use := .atomic, look := if vd = 127 then 15 else 0, slot := 3, size := 8, va := va.toNat
      data := some (if op = 10 then 4 else 2, vb.toNat), dst := if vd = 127 then none else some (2, vd.toNat) }
  | _ => none

/-- Lane l's access of a lane instruction (R177): the 64-bit address of a register pair, low word first, or a 32-bit offset. -/
def LaneForm.ask (a : LaneForm) (x : Iss) (l : Nat) : Ask :=
  ⟨l, if a.offset then (x.r (BitVec.ofNat 7 a.va) l).toNat
      else (x.v (x.op 2 a.va) 1 l ++ x.v (x.op 2 a.va) 0 l).toNat, a.offset,
    match a.data with | some (n, r) => (List.range n).map fun k => x.v (x.op n r) k l | none => []⟩

/-- A scalar memory instruction: use, slot, bytes, the access, and its destination (R177, R186, R187, R190). -/
structure ScalarForm where
  use : AccUse
  slot : Nat
  size : Nat
  addr : W64
  data : List W32 := []
  dst : Option (BitVec 6) := none

/-- The words of a scalar operand of 4 or 8 bytes, low word first. -/
def scalarWords (dw : BitVec 1) (v : W64) : List W32 :=
  if dw = 1 then [v.extractLsb' 0 32, v.extractLsb' 32 32] else [v.extractLsb' 0 32]

/-- Scalar loads, stores, atomics and the cache operations that trap (R186, R187, R190). -/
def scalarForm (x : Iss) : Instr → Option ScalarForm
  | .sld sd sa off dw => some {
      use := .load, slot := 4, size := if dw = 1 then 8 else 4, addr := x.s sa.toNat + (off.signExtend 64 <<< 1), dst := some sd }
  | .sst sd sa off dw => some {
      use := if dw = 1 then .store8 else .store, slot := 4, size := if dw = 1 then 8 else 4
      addr := x.s sa.toNat + (off.signExtend 64 <<< 1), data := scalarWords dw (x.s sd.toNat) }
  | .satom sd sa sb op _ dw => some {
      use := .atomic, slot := 3, size := if dw = 1 then 8 else 4, addr := x.s sa.toNat, dst := some sd
      data := scalarWords dw (x.s sb.toNat) ++ if op = 10 then scalarWords dw (x.s (sb.toNat + 1)) else [] }
  | .clock sd sa => some { use := .cacheOp, slot := 4, size := 1, addr := x.s sa.toNat, dst := some sd }
  | .cunlk sa => some { use := .cacheOp, slot := 4, size := 1, addr := x.s sa.toNat }
  | .cinv sa => some { use := .cacheOp, slot := 4, size := 1, addr := x.s sa.toNat }
  | .cwb sa => some { use := .cacheOp, slot := 4, size := 1, addr := x.s sa.toNat }
  | _ => none

/-- Where an access lies once its segment or offset is known: its offset in the scratchpad, otherwise its address. -/
def Ask.position (k : Ask) (s : State) (x : Iss) : Nat :=
  match k.target x (s.ctx x.l.cid) with
  | some (.spad o) => o
  | _ => k.addr

/-- An access fails check n of R178, the checks being numbered in their order: 0 the 48-bit address, 1 a lease, 2 a segment, 3 the segment's
permission, 4 its kind (R182, R266), 5 the bounds of the scratchpad or of the handler's alias (R149, R163), 6 alignment. -/
def Ask.Fails (k : Ask) (s : State) (x : Iss) (u : AccUse) (size : Nat) : Nat → Prop
  | 0 => k.offset = false ∧ 2 ^ 48 ≤ k.addr
  | 1 => k.offset = false ∧ ∃ b, b < size ∧ ∀ e ∈ x.l.leases, ¬(e.base ≤ k.addr + b ∧ k.addr + b < e.base + e.len ∧ (u.writes = true → e.rw = true))
  | 2 => k.offset = false ∧ (s.ctx x.l.cid).segOf k.addr = none
  | 3 => if x.alias k then u.writes = true else k.offset = false ∧ ∃ n, (s.ctx x.l.cid).segOf k.addr = some n
      ∧ (u.reads = true ∧ ((s.ctx x.l.cid).seg n 3).getLsbD 0 = false ∨ u.writes = true ∧ ((s.ctx x.l.cid).seg n 3).getLsbD 1 = false)
  | 4 => ∃ va o, k.target x (s.ctx x.l.cid) = some (.aperture va o)
      ∧ ((u ≠ .load ∧ u ≠ .store8 ∧ u ≠ .cacheOp) ∨ u ≠ .cacheOp ∧ (s.tenant x.l.tid).channels ≤ o / 4096)
  | 5 => (∃ o, k.target x (s.ctx x.l.cid) = some (.spad o) ∧ x.t.spadBytes ≤ o)
      ∨ ∃ arr o, k.target x (s.ctx x.l.cid) = some (.matrix arr o) ∧ aliasSize arr ≤ o
  | _ => k.position s x % size ≠ 0

/-- What the failing check does (R178): the team ends with status LEASE, MISALIGN, or PERM with its reason. -/
def Refused (i : Instr) (s : State) (x : Iss) (k : Ask) (n : Nat) : Prop :=
  match n with
  | 1 => ∃ t, exec i s = .next t ∧ TeamEnds s t x.g.team 1 .none
  | 6 => Traps i s x 13 (BitVec.ofNat 64 k.addr) (BitVec.ofNat 64 (k.lane % 64))
  | 5 => Traps i s x 5 (BitVec.ofNat 64 (k.position s x)) (BitVec.ofNat 64 (k.lane % 64 + 3 * 256))
  | n => Traps i s x 5 (BitVec.ofNat 64 k.addr) (BitVec.ofNat 64 (k.lane % 64 + (match n with | 0 => 6 | 2 => 1 | 3 => 2 | _ => 5) * 256))

/-- An access of an instruction in flight is the one asked for, at its place. -/
def LaneAcc.Is (a : LaneAcc) (k : Ask) (s : State) (x : Iss) (size : Nat) : Prop :=
  a.lane = k.lane ∧ a.size = size ∧ a.data = k.data ∧ k.target x (s.ctx x.l.cid) = some a.target

/-- R112: stores some lane of which lies in an aperture have one address and one value. -/
def Uniform (s : State) (x : Iss) (u : AccUse) (k : Nat → Ask) (ex : W64) : Prop :=
  u.writes = true → (∃ l va o, bit ex l = true ∧ (k l).target x (s.ctx x.l.cid) = some (.aperture va o)) →
    ∀ l j, bit ex l = true → bit ex j = true → (k l).addr = (k j).addr ∧ (k l).data = (k j).data

/-- The features that the segment of an address can bring in (R37): BTE and SYSATOM. -/
def SegFeatsOn (x : Iss) : Prop := featOn x.l.feat 6 = true ∧ featOn x.l.feat 8 = true

/-! ## What completes in memory -/

/-- `n` bytes from `off` on of a line of a core's L1, all of them VALID, are `bs` (R166). -/
def HeldInL1 (s : State) (core gline off n : Nat) (bs : List Byte) : Prop :=
  ∃ l, (s.coreOf core).l1? gline = some l ∧ l.has off n = true ∧ bs = (List.range n).map fun k => lineByte l.data (off + k)

/-- The same of a line of L2, no word of which is withheld (R170, R373). -/
def HeldInL2 (s : State) (gline off n : Nat) (bs : List Byte) : Prop :=
  ∃ l, s.l2.find? (fun k => k.gline = gline) = some l ∧ l.withheld = 0 ∧ bs = (List.range n).map fun k => lineByte l.data (off + k)

/-- A load of `n` bytes on a core finds the bytes `bs`: in its L1, or in L2 with no word withheld, or in DRAM through a D leaf that is
cached, L2 having room (R166, R170, R171, R373); no word fails its check, and the frame is not DAMAGED (R376). -/
def Finds (s : State) (core tid tia n : Nat) (bs : List Byte) : Prop :=
  let gline := gia tid tia / 128
  let off := tia % 128
  off + n ≤ 128 ∧ tia < 2 ^ 48
    ∧ (HeldInL1 s core gline off n bs
      ∨ ((s.coreOf core).l1? gline = none ∧ s.bad = [] ∧ HeldInL2 s gline off n bs
        ∧ ∀ l, s.l2.find? (fun k => k.gline = gline) = some l → (s.frame l.stamp).damaged = false)
      ∨ ((s.coreOf core).l1? gline = none ∧ (∀ k ∈ s.l2, k.gline ≠ gline) ∧ s.l2.length < 16 ∧ s.bad = []
        ∧ ∃ leaf, (s.translate tid (glineTia gline)).2 = .ok leaf
        ∧ leaf.host = false ∧ leaf.nc = false ∧ leaf.kind = 0 ∧ (s.frame leaf.frame).damaged = false
        ∧ bs = (List.range n).map fun k => s.dram.get (leaf.frame * 65536 + tia % 65536 + k)))

/-- No word of a team's scratchpad fails its check in the core's array, and none is missing from its saved state (R371, R373). -/
abbrev SpadWhole (s : State) (t : Team) : Prop := (∀ p, (2, p) ∉ s.bad) ∧ t.lost = []

/-- An instruction in flight whose turn has come (R197), with nothing of its group waiting to be replayed, no lane of its own that has
failed, no access cut into halves (R180) and no other write to its destination (R23). -/
structure Turn (s : State) (g : Group) (f : Flight) (t : Team) (l : Launch) : Prop where
  there : s.flightAt g.ref f.fid = some (g, f, t, l)
  turn : s.performable g f l.tid = true
  replay : g.trap.replay = []
  failed : f.failed = 0
  sole : ∀ b ∈ g.busy, b.fid = f.fid → b.hit = 0
  lanes : (f.accs.map (·.lane)).Nodup ∧ ∀ a ∈ f.accs, a.lane < 64
  whole : ∀ a ∈ f.accs, a.last = true ∧ a.reg = 0

/-- It has completed: it is in flight no more, and the others are. -/
def Gone (g k : Group) (f : Flight) : Prop := k.flights.map (·.fid) = (g.flights.map (·.fid)).filter fun n => n ≠ f.fid

/-- Some accesses of an instruction in flight have been made: it has completed if none is left, and otherwise it is in flight with the
others left. -/
def Made (g k : Group) (f : Flight) (as : List LaneAcc) : Prop :=
  ((∀ a ∈ f.left, a ∈ as) → Gone g k f)
  ∧ ((∃ a ∈ f.left, a ∉ as) → k.flights.map (·.fid) = g.flights.map (·.fid)
    ∧ ∃ e, k.flight? f.fid = some e ∧ { e with done := f.done } = f ∧ ∀ a, a ∈ e.left ↔ a ∈ f.left ∧ a ∉ as)

/-- Of the teams only the one named has changed, and of it only what a completed access can release: barriers and pacer (R109, R276). -/
def TeamAside (s u : State) (t : Team) : Prop :=
  (∃ m, u.team? t.ref = some m ∧ { m with bars := t.bars, pacer := t.pacer } = t) ∧ ∀ r, r ≠ t.ref → u.team? r = s.team? r

/-- No step of the team's pacer is finished by an access of it that completes (R276). -/
def PacerStays (s : State) (t : Team) : Prop := ∀ p, t.pacer = some p → (p.settle (s.groupsOf t.ref)).2 = false

/-- One access comes to nothing at another package (R179, R389): the instruction is a replay entry with PERM, reason 4, at its lane, and no
register and no memory has changed. -/
def Unreached (s u : State) (g : Group) (f : Flight) (a : LaneAcc) (va : Nat) : Prop :=
  (∃ k e, u.group? g.ref = some k ∧ Gone g k f ∧ k.qsets = g.qsets ∧ k.regs = g.regs ∧ k.trap.replay = [e] ∧ e.fid = f.fid
    ∧ e.trap = some ⟨5, f.pc, BitVec.ofNat 64 va, BitVec.ofNat 64 (a.lane + 4 * 256), f.tag, false⟩)
  ∧ (∀ r, r ≠ g.ref → u.group? r = s.group? r) ∧ u.dram = s.dram ∧ u.hostMem = s.hostMem ∧ u.l2 = s.l2

/-- Registers after a vector result: word j of `ws a` lands in register dst + j of the lane of `a`, dead lanes excepted (R10), and nothing
else of the registers changes. -/
def Landed (g k : Group) (f : Flight) (as : List LaneAcc) (ws : LaneAcc → List W32) : Prop :=
  (∀ r n, n < 64 → k.lane r n = match as.find? (fun a => a.lane = n) with
    | some a => if f.dst ≤ r ∧ r < f.dst + f.ndst ∧ bit g.regs.dead n = false then ((ws a)[r - f.dst]?).getD (g.lane r n) else g.lane r n
    | none => g.lane r n)
  ∧ { k.regs with lanes := g.regs.lanes } = g.regs

/-- The registers of the destination are lane registers of the group. -/
def Flight.inLanes (f : Flight) (g : Group) : Prop := f.file = .lane ∧ (f.dst + f.ndst ≤ g.nregs ∨ 128 ≤ f.dst)

/-- A scalar result lands in `dst`, s0 taking nothing, and nothing else of the registers changes. -/
def LandedScalar (g k : Group) (f : Flight) (v : W64) : Prop :=
  (∀ n, k.scal n = if f.ndst ≠ 0 ∧ n = f.dst ∧ n ≠ 0 then v else g.scal n) ∧ { k.regs with scal := g.regs.scal } = g.regs

/-- The new value of an atomic on n-bit values (R188); the floating ones are those of n = 32. -/
def atomicValue (n op : Nat) (old x y : BitVec n) : BitVec n :=
  match op with
  | 0 => old + x
  | 1 => old - x
  | 2 => if x.slt old then x else old
  | 3 => if old.slt x then x else old
  | 4 => if x.ult old then x else old
  | 5 => if old.ult x then x else old
  | 6 => old &&& x
  | 7 => old ||| x
  | 8 => old ^^^ x
  | 9 => x
  | 10 => if old = x then y else old
  | 11 => if x.ule old then 0 else old + 1
  | 12 => BitVec.ofNat n (fadd fF32 0 old.toNat x.toNat).1
  | 13 => ((BitVec.ofNat 16 (fadd fF16 0 (old.extractLsb' 16 16).toNat (x.extractLsb' 16 16).toNat).1)
      ++ BitVec.ofNat 16 (fadd fF16 0 (old.extractLsb' 0 16).toNat (x.extractLsb' 0 16).toNat).1).setWidth n
  | 14 => BitVec.ofNat n (fminmax fF32 false old.toNat x.toNat).1
  | _ => BitVec.ofNat n (fminmax fF32 true old.toNat x.toNat).1

/-- What a byte of a scratchpad holds after stores, the last of the list that covers it deciding. -/
def storedByte (as : List LaneAcc) (o : Nat) (old : Byte) : Byte :=
  as.foldl (fun v a => match a.target with
    | .spad p => if p ≤ o ∧ o < p + a.size then (wordsBytes a.data).getD (o - p) 0 else v
    | _ => v) old

/-- The same for a byte of the tenant's memory, by its TIA. -/
def storedGlobal (as : List LaneAcc) (o : Nat) (old : Option Byte) : Option Byte :=
  as.foldl (fun v a => match a.target with
    | .glob _ p => if p ≤ o ∧ o < p + a.size then some ((wordsBytes a.data).getD (o - p) 0) else v
    | _ => v) old

/-- A batch state after the open batch has been sealed (R257): it takes NEXT, FAIL tells whether a copy of it has failed, and an empty one is
finished. -/
def BatchSt.afterSeal (b : BatchSt) : BatchSt :=
  { b with
    openJobs := [], openHas := false, openFail := false, next := b.next + 1
    sealed := if b.openJobs = [] then b.sealed else b.sealed ++ [⟨b.next.toNat, b.openJobs⟩]
    fail := (b.fail &&& ~~~(1#16 <<< b.next.toNat)) ||| if b.openFail then 1#16 <<< b.next.toNat else 0 }

/-- A channel reads the word `w` at a VA of its context: an ordinary segment that may be read, and a line that L2 holds (R267, R269). -/
def ReadsWord (s : State) (tid : Nat) (c : Ctx) (va : Nat) (w : W64) : Prop :=
  va < 2 ^ 48 ∧ ∃ i tia, c.place va = some (i, .glob va tia) ∧ (c.seg i 3).getLsbD 0 = true ∧ tia < 2 ^ 48 ∧ tia % 128 + 8 ≤ 128
    ∧ HeldInL2 s (gia tid tia / 128) (tia % 128) 8 (leBytes 8 w.toNat)

/-! ## Status words, and steps without a word -/

/-- The instruction answers a next state in which a scalar holds its status, the quad-set has gone on, and no other register of the group,
no other quad-set and no other group has changed. -/
def Answers (i : Instr) (s : State) (x : Iss) (sd : BitVec 6) (v : W64) (t : State) : Prop :=
  exec i s = .next t ∧ ∃ g, t.group? x.g.ref = some g ∧ g.q? x.q.tag = some x.q.advance ∧ (∀ tag, tag ≠ x.q.tag → g.q? tag = x.g.q? tag)
    ∧ ({ scal := some (x.g.scalNo sd.toNat, v) } : Effect).Done x g ∧ ∀ r, r ≠ x.g.ref → t.group? r = s.group? r

/-- Two states agree but for the groups, the launches and the model's counters. -/
def Besides (s t : State) : Prop := { t with groups := s.groups, launches := s.launches, free := s.free, next := s.next } = s

/-- An agent outside the cores finds the bytes `bs` within one line: in L2 with no word withheld, or in DRAM through a leaf that is cached
(R170, R385, R389). -/
def HomeHolds (s : State) (tid tia n : Nat) (bs : List Byte) : Prop :=
  let gline := gia tid tia / 128
  tia % 128 + n ≤ 128 ∧ tia < 2 ^ 48 ∧ s.bad = [] ∧ (s.tenant tid).l2cap ≠ 0
    ∧ (HeldInL2 s gline (tia % 128) n bs
      ∨ ((∀ k ∈ s.l2, k.gline ≠ gline) ∧ s.l2.length < 16 ∧ ∃ leaf, (s.translate tid (glineTia gline)).2 = .ok leaf
        ∧ leaf.host = false ∧ leaf.nc = false ∧ leaf.kind ≠ 3 ∧ (s.frame leaf.frame).damaged = false
        ∧ bs = (List.range n).map fun k => s.dram.get (leaf.frame * 65536 + tia % 65536 + k)))

/-- The L2 line of a TIA holds the bytes `bs`, dirty, from the TIA on; none leaves a byte alone. -/
def HomeTakes (t : State) (tid tia : Nat) (bs : List (Option Byte)) : Prop :=
  ∃ l, t.l2.find? (fun k => k.gline = gia tid tia / 128) = some l
    ∧ ∀ k b, bs[k]? = some (some b) → lineByte l.data (tia % 128 + k) = b ∧ l.dirty.getLsbD (tia % 128 + k) = true

end Machine

end Sys2Proof
end

