-- ==== Sys2Proof/Certificates/Slice0/Obligations.lean ====
section
/-! DEFINITION. Certificates/Slice0/Obligations.lean: what the model is claimed to do, one proposition a claim. -/

open Sys2Proof Sys2Proof.Machine

/-! ## Scalars -/

/-- The encodings of the scalar instructions (R117 to R121): what the words of OP 0x40 to 0x4A are, none where a word is UNDEF. -/
def scalarWord (w : W32) : Option Instr :=
  let sd := w.extractLsb' 19 6
  let sa := w.extractLsb' 13 6
  let sb := w.extractLsb' 7 6
  let x := w.extractLsb' 0 1
  let imm13 := w.extractLsb' 0 13
  let unary (i : Instr) : Option Instr := if sb = 0 then some i else none
  match (w.extractLsb' 25 7).toNat with
  | 0x40 => match (w.extractLsb' 1 6).toNat with
    | 0 => some (.sadd sd sa sb x)
    | 1 => some (.ssub sd sa sb x)
    | 2 => some (.smul sd sa sb x)
    | 3 => some (.smulh sd sa sb x)
    | 4 => some (.smulhu sd sa sb x)
    | 5 => some (.sand sd sa sb x)
    | 6 => some (.sor sd sa sb x)
    | 7 => some (.sxor sd sa sb x)
    | 8 => some (.sandn sd sa sb x)
    | 9 => some (.sshl sd sa sb x)
    | 10 => some (.sshr sd sa sb x)
    | 11 => some (.ssra sd sa sb x)
    | 12 => some (.smin sd sa sb x)
    | 13 => some (.smax sd sa sb x)
    | 14 => some (.sminu sd sa sb x)
    | 15 => some (.smaxu sd sa sb x)
    | 16 => unary (.spopc sd sa x)
    | 17 => unary (.sclz sd sa x)
    | 18 => unary (.smov sd sa x)
    | 19 => some (.sbfx sd sa sb x)
    | _ => none
  | 0x41 => some (.saddi sd sa imm13)
  | 0x42 => some (.sandi sd sa imm13)
  | 0x43 => some (.sori sd sa imm13)
  | 0x44 => some (.sxori sd sa imm13)
  | 0x45 => if w.extractLsb' 6 7 = 0 then some (.sshli sd sa (w.extractLsb' 0 6)) else none
  | 0x46 => if w.extractLsb' 7 6 = 0 then some (.sshri sd sa (w.extractLsb' 6 1) (w.extractLsb' 0 6)) else none
  | 0x47 => some (.sli sd (w.extractLsb' 0 19))
  | 0x48 => some (.slui sd (w.extractLsb' 0 19))
  | 0x49 => if sd ≠ 0 then none else if x = 1 then some (.scmpi sa (w.extractLsb' 1 12))
    else if w.extractLsb' 1 6 = 0 then some (.scmp sa sb) else none
  | 0x4A => if x = 0 ∧ (w.extractLsb' 1 6).toNat ≤ 12 then some (.ssel sd sa sb (w.extractLsb' 1 6)) else none
  | _ => none

/-- R117: a scalar operation writes its 64-bit result, or the sign-extended 32-bit result of its .W form, to sd, and nothing else; s0 takes
nothing. R118, R119, R121: the immediate forms, SLI, SLUI and SSEL write their value to sd, and nothing else. R120 and R31: SCMP and SCMPI
write %cc alone, and after them the conditions hold as the order of the two values says. Their words are those of `scalarWord`. -/
def Obligations.ScalarInstructions : Prop :=
  (∀ (s : State) (x : Iss) (i : Instr) (sd sa sb : BitVec 6) (wd : BitVec 1) (f : W64 → W64 → W64) (w : W32 → W32 → W32),
     scalarFn 64 6 i = some (sd, sa, sb, wd, f) → scalarFn 32 5 i = some (sd, sa, sb, wd, w) → Issues s x i →
     Completes i s x { scal := some (x.g.scalNo sd.toNat,
       if wd = 1 then (w ((x.s sa.toNat).setWidth 32) ((x.s sb.toNat).setWidth 32)).signExtend 64 else f (x.s sa.toNat) (x.s sb.toNat)) })
  ∧ (∀ (s : State) (x : Iss) (i : Instr) (sd : BitVec 6) (v : Iss → W64), scalarImmediate i = some (sd, v) → Issues s x i →
       Completes i s x { scal := some (x.g.scalNo sd.toNat, v x) })
  ∧ (∀ (s : State) (x : Iss) (i : Instr) (a b : W64),
      ((∃ sa sb : BitVec 6, i = .scmp sa sb ∧ a = x.s sa.toNat ∧ b = x.s sb.toNat)
        ∨ ∃ (sa : BitVec 6) (imm : BitVec 12), i = .scmpi sa imm ∧ a = x.s sa.toNat ∧ b = imm.signExtend 64) → Issues s x i →
      ∃ cc : BitVec 4, Completes i s x { cc := some cc }
        ∧ cc.getLsbD 3 = (a - b).msb ∧ cc.getLsbD 2 = decide (a = b) ∧ cc.getLsbD 1 = decide (b ≤ a)
        ∧ condHolds cc 0 = true
        ∧ condHolds cc 1 = decide (a = b) ∧ condHolds cc 2 = decide (a ≠ b)
        ∧ condHolds cc 3 = a.slt b ∧ condHolds cc 4 = !a.slt b ∧ condHolds cc 5 = a.sle b ∧ condHolds cc 6 = !a.sle b
        ∧ condHolds cc 7 = a.ult b ∧ condHolds cc 8 = !a.ult b ∧ condHolds cc 9 = a.ule b ∧ condHolds cc 10 = !a.ule b
        ∧ condHolds cc 11 = a.ssubOverflow b ∧ condHolds cc 12 = !a.ssubOverflow b)
  ∧ ∀ w : W32, 0x40 ≤ (w.extractLsb' 25 7).toNat → (w.extractLsb' 25 7).toNat ≤ 0x4A → (decodeWord w).toOption = scalarWord w

/-! ## Lanes -/

/-- R67, R69, R71 to R76 (R70 is `FieldsAndCarry`): the integer instructions of the lane engine write their result to the executing lanes of
vd, and nothing else. -/
def Obligations.LaneInteger : Prop :=
  ∀ (s : State) (x : Iss) (i : Instr) (vd : BitVec 7) (m : BitVec 2) (f : Iss → Nat → W32), intLane i = some (vd, m, f) → Issues s x i →
    Completes i s x { dst := x.op 1 vd.toNat, ex := x.exec m.toNat, val := fun _ l => f x l }

/-- R70: VBFX and VBFI, bit by bit. R68: VADDC adds with the carry of mask mc and leaves the carry out in it; with m0 the carry in is 0 and
the carry out is discarded. -/
def Obligations.FieldsAndCarry : Prop :=
  (∀ (s : State) (x : Iss) (vd va vb : BitVec 7) (m : BitVec 2) (ty : BitVec 1),
     (Issues s x (.vbfx vd va vb m ty) → ∃ f : Nat → W32, (∀ l j, j < 32 → (f l).getLsbD j = bitField ty (x.r va l) (x.r vb l) j)
       ∧ Completes (.vbfx vd va vb m ty) s x { dst := x.op 1 vd.toNat, ex := x.exec m.toNat, val := fun _ l => f l })
     ∧ (Issues s x (.vbfi vd va vb m) → ∃ f : Nat → W32, (∀ l j, j < 32 → (f l).getLsbD j = bitInsert (x.r va l) (x.r vb l) (x.r vd l) j)
       ∧ Completes (.vbfi vd va vb m) s x { dst := x.op 1 vd.toNat, ex := x.exec m.toNat, val := fun _ l => f l }))
  ∧ ∀ (s : State) (x : Iss) (vd va vb : BitVec 7) (mc : BitVec 2), Issues s x (.vaddc vd va vb mc) →
      ∃ c : W64, let sum (l : Nat) : BitVec 33 := (x.r va l).setWidth 33 + (x.r vb l).setWidth 33
          + (if mc ≠ 0 ∧ bit (x.g.rdMask x.free mc.toNat) l then 1 else 0)
        (∀ l, l < 64 → bit c l = (sum l).getLsbD 32)
        ∧ Completes (.vaddc vd va vb mc) s x
          { dst := x.op 1 vd.toNat, ex := x.exec 0, val := fun _ l => (sum l).setWidth 32, mask := some (mc.toNat, x.exec 0, c) }

/-- R77: VCMP and VCMPI write EXEC ∧ condition for the lanes of the issuing set to md, and leave its other bits and all else alone. -/
def Obligations.LaneCompare : Prop :=
  ∀ (s : State) (x : Iss) (cnd : BitVec 4) (md : BitVec 3) (va vb : BitVec 7) (m ty : BitVec 2),
    (Issues s x (.vcmp cnd md va vb m ty) → ∃ c : W64, (∀ l, l < 64 → bit c l = (bit (x.exec m.toNat) l && laneCompares ty cnd (x.r va l) (x.r vb l)))
      ∧ Completes (.vcmp cnd md va vb m ty) s x { mask := some (md.toNat, quadLanes x.q.quads, c) })
    ∧ (Issues s x (.vcmpi cnd md va vb m ty) → ∃ c : W64,
      (∀ l, l < 64 → bit c l = (bit (x.exec m.toNat) l && laneCompares ty cnd (x.r va l)
        (if ty.getLsbD 1 then vb.signExtend 16 ++ vb.signExtend 16 else vb.signExtend 32)))
      ∧ Completes (.vcmpi cnd md va vb m ty) s x { mask := some (md.toNat, quadLanes x.q.quads, c) })

/-- R57, R79, R81, R82: floating arithmetic writes its rounded results to the executing lanes of vd and joins the flags that they raise to
%fpstat; nothing else changes. R83: VFCLASS writes one register whatever the type, with one class bit an element, and raises no flag. R77,
R78: VFCMP writes EXEC ∧ condition for the issuing set's lanes to md and joins the flags of the executing lanes; over packed types the
condition is that of both elements. -/
def Obligations.FloatInstructions : Prop :=
  (∀ (s : State) (x : Iss) (i : Instr) (vd : BitVec 7) (m ty : BitVec 2) (r : Iss → Nat → Nat → Nat × BitVec 5),
     floatLane i = some (vd, m, ty, r) → Issues s x i →
     ∃ fp, RaisedBy fp (x.exec m.toNat) (if ty.getLsbD 1 then [0, 1] else [0]) (fun e l => (r x e l).2)
       ∧ Completes i s x
         { dst := x.op (if ty = 1 then 2 else 1) vd.toNat, ex := x.exec m.toNat, fp := fp
           val := fun j l => resultWord ty (fun e => (r x e l).1) j })
  ∧ (∀ (s : State) (x : Iss) (vd va : BitVec 7) (m ty : BitVec 2), Issues s x (.vfclass vd va m ty) →
       let c (e l : Nat) : Nat := fclass (fmtOfTy ty.toNat) (x.f ty va e l)
       (∀ e l, ∃ k, k < 10 ∧ c e l = 2 ^ k)
         ∧ Completes (.vfclass vd va m ty) s x
           { dst := x.op 1 vd.toNat, ex := x.exec m.toNat
             val := fun _ l => if ty.getLsbD 1 then BitVec.ofNat 16 (c 1 l) ++ BitVec.ofNat 16 (c 0 l) else BitVec.ofNat 32 (c 0 l) })
  ∧ ∀ (s : State) (x : Iss) (cnd : BitVec 4) (md : BitVec 3) (va vb : BitVec 7) (m ty : BitVec 2), Issues s x (.vfcmp cnd md va vb m ty) →
      let r (e l : Nat) : Bool × BitVec 5 := fcmp (fmtOfTy ty.toNat) cnd.toNat (x.f ty va e l) (x.f ty vb e l)
      ∃ (c : W64) (fp : BitVec 5),
        (∀ l, l < 64 → bit c l = (bit (x.exec m.toNat) l && ((r 0 l).1 && (!ty.getLsbD 1 || (r 1 l).1))))
        ∧ RaisedBy fp (x.exec m.toNat) (if ty.getLsbD 1 then [0, 1] else [0]) (fun e l => (r e l).2)
        ∧ Completes (.vfcmp cnd md va vb m ty) s x { mask := some (md.toNat, quadLanes x.q.quads, c), fp := fp }

/-- R55: the minimum and maximum of VFMIN and VFMAX: of a NaN and a number the number, of two NaNs the default NaN, of two numbers the smaller
or larger, −0 being less than +0; a signalling NaN raises NV. R46, R54: in the four lane formats a NaN operand of the other operations gives
the default NaN, payloads never pass, and NV is raised by a signalling NaN alone. R79, R81, R59: so do the fused operations, where ∞·0 raises
NV and gives the default NaN whatever the addend holds, the scaling, the exponential, the logarithm, the sine and the cosine. -/
def Obligations.NanRules : Prop :=
  ∀ (f : FFmt) (rm a b d : Nat), f ∈ [fF32, fF64, fF16, fBF16] →
    let nan (c : Nat) : Prop := f.isNan c
    let sig (c : Nat) : Prop := nan c ∧ c / 2 ^ (f.mb - 1) % 2 = 0
    let inf (c : Nat) : Prop := c % 2 ^ (f.eb + f.mb) = (2 ^ f.eb - 1) * 2 ^ f.mb
    let zero (c : Nat) : Prop := c % 2 ^ (f.eb + f.mb) = 0
    (nan a ∨ nan b → ∀ op ∈ [fadd f rm, fsub f rm, fmul f rm, fdiv f rm],
      (op a b).1 = fnan f ∧ ((op a b).2 = 1 ∨ (op a b).2 = 0) ∧ ((op a b).2 = 1 ↔ sig a ∨ sig b))
    ∧ (let bad := inf a ∧ zero b ∨ zero a ∧ inf b
      nan a ∨ nan b ∨ nan d ∨ bad → ∀ np nd, let r := ffma f rm np nd a b d
        r.1 = fnan f ∧ (r.2 = 1 ∨ r.2 = 0) ∧ (r.2 = 1 ↔ sig a ∨ sig b ∨ sig d ∨ bad))
    ∧ (nan a → ∀ n : Int, ∀ op ∈ [fsqrt f rm, frcp f, frsq f, fabsCode f, fnegCode f, frnd f rm, ffrc f rm, (fscale f rm · n), fexp2 f, flog2 f,
        fsincos f false, fsincos f true],
      (op a).1 = fnan f ∧ ((op a).2 = 1 ∨ (op a).2 = 0) ∧ ((op a).2 = 1 ↔ sig a))
    ∧ (∀ mx, nan a → ¬nan b → (fminmax f mx a b).1 = b) ∧ (∀ mx, ¬nan a → nan b → (fminmax f mx a b).1 = a)
    ∧ (∀ mx, nan a → nan b → (fminmax f mx a b).1 = fnan f)
    ∧ (∀ mx, nan a ∨ nan b → ((fminmax f mx a b).2 = 1 ↔ sig a ∨ sig b))
    -- two numbers, ordered as their codes in sign and magnitude, −0 below +0
    ∧ (let n := f.eb + f.mb
      let key (c : Nat) : Int := if c / 2 ^ n = 1 then -(c % 2 ^ n : Nat) - 1 else (c : Nat)
      a < 2 ^ (n + 1) → b < 2 ^ (n + 1) → ¬nan a → ¬nan b →
        fminmax f false a b = (if key a < key b then a else b, 0) ∧ fminmax f true a b = (if key a < key b then b else a, 0))

/-- R34, R84: VCVT converts element by element and writes every destination register of the executing lanes; rounding is the word's own,
saturation FMT.SAT's. -/
def Obligations.Conversion : Prop :=
  ∀ (s : State) (x : Iss) (vd va code : BitVec 7) (m rnd : BitVec 2), Issues s x (.vcvt vd va code m rnd) →
    let k := convKinds code.toNat
    let src := x.op (convRegs code.toNat).1 va.toNat
    let r (e l : Nat) : Nat × BitVec 5 := convElem k.1 k.2.1 rnd.toNat (bit x.q.fmt 17) (convSrc k.1 (fun j => x.v src j l) e)
    ∃ fp, RaisedBy fp (x.exec m.toNat) (List.range k.2.2) (fun e l => (r e l).2)
      ∧ Completes (.vcvt vd va code m rnd) s x
        { dst := x.op (convRegs code.toNat).2 vd.toNat, ex := x.exec m.toNat, fp := fp
          val := fun j l => convDst k.2.1 k.2.2 (fun e => (r e l).1) j }

/-! ## Across lanes -/

/-- R85 to R87: a shuffle gives a lane its own value where the source is out of range, 0 where the source lane is absent, and the source's
value of issue otherwise; in the .D form the lanes with an absent source are set in the report mask, whose bits are only set. -/
def Obligations.Shuffle : Prop :=
  ∀ (s : State) (x : Iss) (vd va : BitVec 7) (rep : BitVec 1) (vx : BitVec 6) (m ty : BitVec 2) (i : Instr) (amt : Nat → Nat) (mode : Nat),
    (i = .vshfl vd va rep vx m ty ∧ amt = (fun l => (x.v (x.op 1 vx.toNat) 0 l).toNat) ∧ mode = ty.toNat
      ∨ i = .vshfli vd va rep vx m ty ∧ amt = (fun _ => vx.toNat) ∧ mode = ty.toNat + 1) →
    x.l.kernel.compat16 = false → Issues s x i →
    let ex := x.exec (if rep = 1 then 0 else m.toNat)
    let src (l : Nat) : Int :=
      if mode = 0 then (amt l % x.g.width : Nat) else if mode = 1 then (l ^^^ (amt l % 64) : Nat)
      else if mode = 2 then (l : Int) - (amt l % 64 : Nat) else if mode = 3 then (l + amt l % 64 : Nat) else ((l + amt l) % x.g.width : Nat)
    let outside (l : Nat) : Bool := src l < 0 ∨ (x.g.width : Int) ≤ src l
    let absent (l : Nat) : Bool := bit x.g.regs.dead (src l).toNat || !bit (quadLanes x.q.quads) (src l).toNat
    ∃ c : W64, (∀ l, l < 64 → bit c l = (bit ex l && (!outside l && absent l)))
      ∧ Completes i s x { dst := x.op 1 vd.toNat, ex := ex
                          val := fun _ l => if outside l then x.r va l else if absent l then 0 else x.r va (src l).toNat
                          mask := if rep = 1 then some (m.toNat, c, BitVec.allOnes 64) else none }

/-- R88: the votes over the executing lanes. R89, R90: folds over the executing lanes in ascending order, from the identity, into a scalar;
the floating sum raises the flags of its roundings. R90: inclusive prefixes in ascending order of the executing lanes, which alone
contribute and are written. -/
def Obligations.Reductions : Prop :=
  (∀ (s : State) (x : Iss) (sd : BitVec 6) (va : BitVec 7) (m ty : BitVec 2), Issues s x (.vvote sd va m ty) →
     ∃ b : Bool, (b = true ↔
         if ty = 0 then ∃ l, bit (x.exec m.toNat) l ∧ x.r va l ≠ 0
         else if ty = 1 then ∀ l, bit (x.exec m.toNat) l → x.r va l ≠ 0
         else ∀ l k, bit (x.exec m.toNat) l → bit (x.exec m.toNat) k → x.r va l = x.r va k)
       ∧ Completes (.vvote sd va m ty) s x { scal := some (x.g.scalNo sd.toNat, if b then 1 else 0) })
  ∧ (∀ (s : State) (x : Iss) (sd : BitVec 6) (va op : BitVec 7) (m : BitVec 2), Issues s x (.vfold sd va op m) →
       let vs := (bitList (x.exec m.toNat)).map (x.r va)
       let c := addChain (fmtRm x.q.fmt) vs
       Completes (.vfold sd va op m) s x { scal := some (x.g.scalNo sd.toNat,
           match op.toNat with
           | 0 => (vs.foldr (· + ·) 0).signExtend 64
           | 1 => (vs.map (·.setWidth 64)).foldr (· + ·) 0
           | 2 => (vs.foldr (smaller 0) 0x7FFFFFFF#32).signExtend 64
           | 3 => (vs.foldr (larger 0) 0x80000000#32).signExtend 64
           | 4 => (vs.foldr (smaller 1) 0xFFFFFFFF#32).setWidth 64
           | 5 => (vs.foldr (larger 1) 0#32).setWidth 64
           | 6 => (vs.foldr (· &&& ·) 0xFFFFFFFF#32).setWidth 64
           | 7 => (vs.foldr (· ||| ·) 0#32).setWidth 64
           | 8 => (vs.foldr (· ^^^ ·) 0#32).setWidth 64
           | _ => BitVec.ofNat 64 ((c.getLast?.map (·.1)).getD 0x80000000)), fp := if op = 9 then chainFlags c else 0 })
  ∧ ∀ (s : State) (x : Iss) (vd va : BitVec 7) (m : BitVec 2) (ty : BitVec 1), Issues s x (.vscan vd va m ty) →
      let c := addChain (fmtRm x.q.fmt) ((bitList (x.exec m.toNat)).map (x.r va))
      let upTo (l : Nat) := ((List.range (l + 1)).filter fun k => bit (x.exec m.toNat) k)
      Completes (.vscan vd va m ty) s x { dst := x.op 1 vd.toNat, ex := x.exec m.toNat, fp := if ty = 1 then chainFlags c else 0
                                          val := fun _ l => if ty = 1 then BitVec.ofNat 32 ((c.map (·.1)).getD ((upTo l).length - 1) 0x80000000)
                                            else ((upTo l).map (x.r va)).foldr (· + ·) 0 }

/-- R91, R92: VBCAST, VSPEC, VGETL and VPUTL at an operand that is a lane register. -/
def Obligations.LaneAccess : Prop :=
  ∀ (s : State) (x : Iss) (v : BitVec 7) (ss : BitVec 6) (m : BitVec 2) (byS : BitVec 1) (n : BitVec 6),
    let lane := if byS = 1 then (x.s n.toNat).toNat else n.toNat
    let out := x.g.width ≤ lane ∨ bit x.g.regs.dead lane
    (Issues s x (.vbcast v ss m) → Completes (.vbcast v ss m) s x
      { dst := x.op 1 v.toNat, ex := x.exec m.toNat, val := fun _ _ => (x.s ss.toNat).setWidth 32 })
    ∧ (∀ k : BitVec 7, Issues s x (.vspec v k m) → Completes (.vspec v k m) s x
      { dst := x.op 1 v.toNat, ex := x.exec m.toNat
        val := fun _ l => if k = 0 then BitVec.ofNat 32 l else if k = 1 then BitVec.ofNat 32 (l / 4) else x.g.item l })
    ∧ (∀ r, x.op 1 v.toNat = [.lane r] → Issues s x (.vgetl ss v byS n) →
      Completes (.vgetl ss v byS n) s x { scal := some (x.g.scalNo ss.toNat, if out then 0 else (x.g.rdLane x.free r lane).setWidth 64) })
    ∧ (∀ r, x.op 1 v.toNat = [.lane r] → x.g.width ≤ 64 → Issues s x (.vputl v ss byS n) →
      Completes (.vputl v ss byS n) s x
        { dst := [.lane r], ex := if out then 0 else laneBit lane, val := fun _ _ => (x.s ss.toNat).setWidth 32 })

/-- R93: mask operations write the bits of the issuing set's lanes in md and leave the other bits. R94: the mask transfers outside trap mode
and COMPAT16; B is the set of the issuing set's lanes below the width. -/
def Obligations.Masks : Prop :=
  (∀ (s : State) (x : Iss) (md ma mb : BitVec 3),
     let a := x.g.rdMask x.free ma.toNat
     let b := x.g.rdMask x.free mb.toNat
     ∀ e ∈ [(Instr.mand md ma mb, a &&& b), (.mor md ma mb, a ||| b), (.mxor md ma mb, a ^^^ b), (.mandn md ma mb, a &&& ~~~b),
         (.mnot md ma, ~~~a), (.mmov md ma, a)],
       Issues s x e.1 → Completes e.1 s x { mask := some (md.toNat, quadLanes x.q.quads, e.2) })
  ∧ ∀ (s : State) (x : Iss) (mn : BitVec 3) (sn : BitVec 6), x.g.trap.mode = none → x.l.kernel.compat16 = false →
      let a := x.g.rdMask x.free mn.toNat
      let inB (l : Nat) : Bool := decide (l < x.g.width) && bit (quadLanes x.q.quads) l
      let hits := (List.range 64).filter fun l => inB l && bit a l
      (Issues s x (.mget mn sn) → Completes (.mget mn sn) s x { scal := some (x.g.scalNo sn.toNat, a) })
      ∧ (Issues s x (.mset mn sn) → ∃ lanes : W64, (∀ l, l < 64 → bit lanes l = inB l)
        ∧ Completes (.mset mn sn) s x { mask := some (mn.toNat, lanes, x.s sn.toNat) })
      ∧ (Issues s x (.mpop mn sn) →
        Completes (.mpop mn sn) s x { scal := some (x.g.scalNo sn.toNat, BitVec.ofNat 64 hits.length) })
      ∧ (Issues s x (.mffs mn sn) →
        Completes (.mffs mn sn) s x { scal := some (x.g.scalNo sn.toNat, BitVec.ofNat 64 (hits.headD 64)) })

/-! ## Control -/

/-- R21, R124, R125: BR, BRM and BRI, taken to a clause header, not taken, and to an address where no header stands. R104, R126: CALL and
CALLI push the header after their clause with the issuing quads; RET takes its quads out of the innermost entry that holds them, which goes
when it is empty. The room is checked before the target.
An address whose word cannot be fetched counts as one where a header stands, which is the model's reading (log entry 23). -/
def Obligations.BranchAndCall : Prop :=
  (∀ (s : State) (x : Iss),
     (∀ (cnd : BitVec 5) (off : BitVec 20), Issues s x (.br cnd off) →
       Transfers (.br cnd off) s x (condHolds x.g.regs.cc cnd.toNat = true) (x.q.pc + (off.signExtend 64 <<< 2)))
     ∧ (∀ (test : BitVec 2) (m : BitVec 3) (off : BitVec 20), test ≠ 3 → Issues s x (.brm test m off) →
       Transfers (.brm test m off) s x
         (if test = 0 then ∀ l, l < 64 → ¬bit (x.exec0 m.toNat) l = true
          else if test = 1 then ∃ l, l < 64 ∧ bit (x.exec0 m.toNat) l = true
          else ∀ l, l < 64 → (bit (x.exec0 0) l = true ↔ bit (x.exec0 m.toNat) l = true)) (x.q.pc + (off.signExtend 64 <<< 2)))
     ∧ (∀ ss : BitVec 6, Issues s x (.bri ss) → Transfers (.bri ss) s x True (x.s ss.toNat)))
  ∧ ∀ (s : State) (x : Iss),
      (∀ (i : Instr) (dest : W64), ((∃ off : BitVec 20, i = .call off ∧ dest = x.q.pc + (off.signExtend 64 <<< 2))
          ∨ ∃ ss : BitVec 6, i = .calli ss ∧ dest = x.s ss.toNat) → Issues s x i →
        (256 ≤ x.g.retstack.length → Traps i s x 9 0 5)
        ∧ (x.g.retstack.length < 256 → ¬IsHeader s x dest → Traps i s x 2 dest 0)
        ∧ ∀ c, x.q.clause = some c → x.g.retstack.length < 256 → IsHeader s x dest →
          Becomes i s x (({ x.now with retstack := ⟨c.hdr + BitVec.ofNat 64 (4 * c.words.length), x.q.quads⟩ :: x.g.retstack } : Group).modQ
            x.q.tag fun q => q.goto dest))
      ∧ (Issues s x .ret →
        ((∀ e ∈ x.g.retstack, ¬InQuads x.q.quads e.quads) → Traps .ret s x 9 0 4)
        ∧ ∀ inner e outer, x.g.retstack = inner ++ e :: outer → (∀ k ∈ inner, ¬InQuads x.q.quads k.quads) → InQuads x.q.quads e.quads →
          (¬IsHeader s x e.addr → Traps .ret s x 2 e.addr 0)
          ∧ (IsHeader s x e.addr →
            let left := e.quads &&& ~~~x.q.quads
            Becomes .ret s x (({ x.now with
              retstack := inner ++ (if left = 0 then outer else ⟨e.addr, left⟩ :: outer) } : Group).modQ x.q.tag fun q => q.goto e.addr)))

/-- R101, R127, R128: MARK pushes an entry, the target being checked before the room; SPLIT sends the departing quads to its target, as a
quad-set of their own with the FMT of the whole if some stay. R101, R128: REGANG holds its quad-set, bounded by WAITLIM, until every running
quad of the group is held at a REGANG of its address; then they are one quad-set after it, with the FMT of the set that holds the lowest
quad, and what they have in flight is its own. No entry is taken to be complete. -/
def Obligations.SplitAndRegang : Prop :=
  (∀ (s : State) (x : Iss),
     (∀ off : BitVec 20, Issues s x (.mark off) →
       let dest := x.q.pc + (off.signExtend 64 <<< 2)
       (¬IsHeader s x dest → Traps (.mark off) s x 2 dest 0)
       ∧ (IsHeader s x dest → 16 ≤ x.g.rstack.length → Traps (.mark off) s x 9 0 1)
       ∧ (IsHeader s x dest → x.g.rstack.length < 16 →
         Becomes (.mark off) s x
           (({ x.now with rstack := ⟨dest, x.q.quads, x.q.fmt, 0⟩ :: x.g.rstack } : Group).modQ x.q.tag QSet.advance)))
     ∧ ∀ (m : BitVec 3) (off : BitVec 20) (dep : W16), Departs x m.toNat dep → Issues s x (.split m off) →
       let dest := x.q.pc + (off.signExtend 64 <<< 2)
       (dep = 0 → GoesOn (.split m off) s x)
       ∧ (dep ≠ 0 → ¬IsHeader s x dest → Traps (.split m off) s x 2 dest 0)
       ∧ (dep ≠ 0 → IsHeader s x dest → dep = x.q.quads → GoesTo (.split m off) s x dest)
       ∧ (dep ≠ 0 → IsHeader s x dest → dep ≠ x.q.quads →
         let stay := x.now.modQ x.q.tag fun q => QSet.advance { q with quads := q.quads &&& ~~~dep }
         Becomes (.split m off) s x { stay with
           qsets := stay.qsets ++ [{ tag := x.g.nextTag, quads := dep, pc := dest, fmt := x.q.fmt, clause := none, hold := none }]
           nextTag := x.g.nextTag + 1 }))
  ∧ ∀ (s : State) (x : Iss), Issues s x .regang → (∀ k ∈ x.g.rstack, ¬InQuads (k.quads &&& x.g.running) k.arrived) →
      let here (p : QSet) : Prop := p.tag = x.q.tag ∨ p.pc = x.q.pc ∧ ∃ h, p.hold = some h ∧ h.kind = .regang
      ((∃ p ∈ x.g.qsets, ¬here p) → Waits .regang s x .regang true)
      ∧ ((∀ p ∈ x.g.qsets, here p) → (∀ p ∈ x.g.qsets, p.tag = x.q.tag → p = x.q) → ∃ g q, Becomes .regang s x g
        ∧ g.qsets = [q] ∧ q.quads = x.g.running ∧ q.pc = x.q.pc + 4 ∧ q.hold = none
        ∧ (∃ p ∈ x.g.qsets, q.fmt = p.fmt ∧ ∀ p' ∈ x.g.qsets, lowQuad p.quads ≤ lowQuad p'.quads)
        ∧ g = ({ x.now with qsets := [q] } : Group).retag (x.g.qsets.map fun p => p.tag) q.tag)

/-- R100 to R102, R127: JOIN without an entry, in another clause than its entry's, before its last partner (held, and its quads marked as
arrived) and as the last: the entry goes, and its quad-sets are one, with the FMT of the MARK, after the latest JOIN; what they have in
flight is its own from then on. No other entry is taken to be complete, which is so after every event that can complete one (R101). -/
def Obligations.Join : Prop :=
  ∀ (s : State) (x : Iss), Issues s x .join →
    ((∀ e ∈ x.g.rstack, ¬InQuads x.q.quads e.quads) → Traps .join s x 9 0 2)
    ∧ ∀ inner e outer, x.g.rstack = inner ++ e :: outer → (∀ k ∈ inner, ¬InQuads x.q.quads k.quads) → InQuads x.q.quads e.quads →
      (x.q.clause.map (·.hdr) ≠ some e.rejoin → Traps .join s x 9 0 3)
      ∧ (x.q.clause.map (·.hdr) = some e.rejoin → (∀ k ∈ inner ++ outer, ¬InQuads (k.quads &&& x.g.running) k.arrived) →
        let last := InQuads (e.quads &&& x.g.running) (e.arrived ||| x.q.quads)
          ∧ ∀ p ∈ x.g.qsets, p.tag ≠ x.q.tag → p.quads ≠ 0 → InQuads p.quads e.quads → ∃ h, p.hold = some h ∧ h.kind = .join
        (¬last → ∃ g, Becomes .join s x g
          ∧ g.rstack = inner ++ { e with arrived := e.arrived ||| x.q.quads } :: outer
          ∧ (∃ h, g.q? x.q.tag = some { x.q with hold := some h } ∧ h.kind = .join ∧ h.bounded = false)
          ∧ (∀ tag, tag ≠ x.q.tag → g.q? tag = x.g.q? tag)
          ∧ { g with rstack := x.now.rstack, qsets := x.now.qsets } = x.now)
        ∧ (last → x.q.quads ≠ 0 → ∃ g q, Becomes .join s x g
          ∧ g.rstack = inner ++ outer
          ∧ { g with rstack := x.now.rstack, qsets := x.now.qsets } = x.now.retag ((x.g.qsets.filter e.holds).map fun p => p.tag) q.tag
          ∧ q ∈ g.qsets ∧ q.fmt = e.fmt ∧ q.hold = none
          ∧ (∀ k, k < 16 → (q.quads.getLsbD k = true ↔ ∃ p ∈ x.g.qsets, InQuads p.quads e.quads ∧ p.quads.getLsbD k = true))
          ∧ (∃ p ∈ x.g.qsets, InQuads p.quads e.quads ∧ q.tag = p.tag ∧ q.pc = p.pc + 4
            ∧ ∀ p' ∈ x.g.qsets, p'.quads ≠ 0 → InQuads p'.quads e.quads → p'.pc.toNat ≤ p.pc.toNat)
          ∧ (∀ p ∈ x.g.qsets, (p.quads = 0 ∨ ¬InQuads p.quads e.quads) → p.tag ≠ x.q.tag → p ∈ g.qsets)))

/-- R106, R107, R129: IHEAD gives the next items of the launch, in order, to the lanes of the passing set below the width that are neither
live nor dead, lowest lane first, while items are left, and branches if then no lane of the set is live; IDONE clears LIVE where EXEC is
set. -/
def Obligations.ItemLoop : Prop :=
  ∀ (s : State) (x : Iss),
    (∀ off : BitVec 20, Issues s x (.ihead off) → s.launch? x.l.ref = some x.l →
      let want (l : Nat) : Bool := bit x.lanes l && !bit x.g.regs.live l && !bit x.g.regs.dead l
      let rank (l : Nat) : Nat := (List.range l).countP want
      let gets (l : Nat) : Bool := want l && decide (rank l < x.l.itemsLeft)
      let dest := x.q.pc + (off.signExtend 64 <<< 2)
      let some' := ∃ l, l < 64 ∧ bit x.lanes l = true ∧ bit x.g.regs.dead l = false ∧ (bit x.g.regs.live l = true ∨ gets l = true)
      (¬some' → ¬IsHeader s x dest → Traps (.ihead off) s x 2 dest 0)
      ∧ ((some' ∨ IsHeader s x dest) → ∃ t g, exec (.ihead off) s = .next t ∧ t.group? x.g.ref = some g
        ∧ t.launch? x.l.ref = some { x.l with cursor := x.l.cursor + (List.range 64).countP gets }
        ∧ (∀ l, l < 64 → bit g.regs.live l = (bit x.g.regs.live l || gets l))
        ∧ (∀ l, l < 64 → tget 0xFFFFFFFF#32 g.regs.items l
            = if gets l then BitVec.ofNat 32 (itemAt x.l.ranges (x.l.cursor + rank l)) else tget 0xFFFFFFFF#32 x.g.regs.items l)
        ∧ { g.regs with live := x.g.regs.live, items := x.g.regs.items } = x.g.regs
        ∧ (some' → g.q? x.q.tag = some x.q.advance) ∧ (¬some' → g.q? x.q.tag = some (x.q.goto dest))
        ∧ (∀ tag, tag ≠ x.q.tag → g.q? tag = x.g.q? tag)
        ∧ (∀ r, r ≠ x.g.ref → t.group? r = s.group? r) ∧ (∀ r, r ≠ x.l.ref → t.launch? r = s.launch? r)
        ∧ { t with groups := s.groups, launches := s.launches, free := s.free } = s))
    ∧ (∀ m : BitVec 3, Issues s x (.idone m) →
      Becomes (.idone m) s x (({ x.now with regs := { x.g.regs with live := x.g.regs.live &&& ~~~x.exec0 m.toNat } } : Group).modQ
        x.q.tag QSet.advance))

/-- R108 to R110: barriers. As the last arrival, BARSYNC and BARARR go on, the generation is the next one and its records are clear; before
it, BARSYNC is held, bounded by WAITLIM, and BARARR goes on, the quads counted; BARWAIT is held only with an arrival open in the
generation of the group's last arrival. -/
def Obligations.Barriers : Prop :=
  ∀ (s : State) (x : Iss) (bar : BitVec 4), x.q.hold = none →
    let b := x.t.bar bar.toNat
    let had : W16 := tget 0 b.quads x.g.gix
    let others := (s.groupsOf x.t.ref).filter fun k => k.ref ≠ x.g.ref
    (∀ i : Instr, (i = .barsync bar ∨ i = .bararr bar) → Issues s x i → x.q.quads &&& had = 0 →
      (InQuads x.g.running (had ||| x.q.quads) → x.g.run = .run → x.g.running ≠ 0 → x.g.gix < 32 → b.arrived.getLsbD x.g.gix = false →
        (∀ k ∈ others, k.gix ≠ x.g.gix ∧ (k.run = .retired ∨ b.arrived.getLsbD k.gix = true ∧ k.released (tget 0 b.marks k.gix) = true)) →
        (∀ f ∈ x.g.unfinished, f.accesses = false) → (∀ k ∈ s.groups, k.ref = x.g.ref → k = x.g) →
        ∃ t g k, exec i s = .next t ∧ t.group? x.g.ref = some g ∧ g.q? x.q.tag = some x.q.advance ∧ g.regs = x.g.regs
          ∧ t.team? x.t.ref = some k ∧ (k.bar bar.toNat).gen = (b.gen + 1) % 65536 ∧ (k.bar bar.toNat).count = 0
          ∧ (k.bar bar.toNat).arrived = 0 ∧ (k.bar bar.toNat).quads = []
          ∧ (∀ r, r ≠ x.g.ref → t.group? r = s.group? r) ∧ t.dram = s.dram ∧ t.hostMem = s.hostMem)
      ∧ ((∃ k ∈ others, k.run ≠ .retired ∧ k.gix ≠ x.g.gix ∧ b.arrived.getLsbD k.gix = false ∧ ¬InQuads k.running (tget 0 b.quads k.gix)
          ∧ ∀ j ∈ s.groupsOf x.t.ref, j ≠ k → j.gix ≠ k.gix) →
        ∃ t g k, exec i s = .next t ∧ t.group? x.g.ref = some g ∧ g.regs = x.g.regs
          ∧ (i = .bararr bar → g.q? x.q.tag = some x.q.advance)
          ∧ (i = .barsync bar → g.q? x.q.tag
            = some { x.q with hold := some ⟨.barrier bar.toNat b.gen, true, waitClocks x.g.regs.waitlim, 0, x.kept⟩ })
          ∧ t.team? x.t.ref = some k ∧ (k.bar bar.toNat).gen = b.gen ∧ tget 0 (k.bar bar.toNat).quads x.g.gix = had ||| x.q.quads
          ∧ (∀ r, r ≠ x.g.ref → t.group? r = s.group? r) ∧ t.dram = s.dram ∧ t.hostMem = s.hostMem))
    ∧ (Issues s x (.barwait bar) →
      let stays := b.arrived.getLsbD x.g.gix = true ∧ b.gen = (tget 0 b.last x.g.gix).toNat
      (¬stays → GoesOn (.barwait bar) s x) ∧ (stays → Waits (.barwait bar) s x (.barrier bar.toNat b.gen) true))

/-- R130, R131, R352: NOP and YIELD, and the local waits, which go on when nothing of what they name is in flight and hold the quad-set
without a limit otherwise. A YIELD halts a group that has been asked to halt and is at a yield point. R17, R19: a clause header waits for
its batches and scoreboard slots, without counting as an instruction, and leads to the word after it; one whose CLS is 7 raises CLAUSE
(R18). -/
def Obligations.WaitInstructions : Prop :=
  (∀ (s : State) (x : Iss),
     (∀ (i : Instr) (c : Prop),
       ((∃ slots : BitVec 7, i = .waitSb slots ∧ c = ∀ k, k < 7 → slots.getLsbD k = true → ∀ f ∈ x.g.flights, f.slot ≠ k + 1)
         ∨ (i = .waitDet ∧ c = ∀ f ∈ x.g.flights, f.look ≠ 15)
         ∨ (∃ n : BitVec 4, i = .waitOpc n ∧ c = ((x.g.flights.filter fun f => isMatrixOp f.instr && !f.consumed).length ≤ n.toNat))
         ∨ (∃ n : BitVec 4, i = .waitMat n ∧ c = ((x.g.flights.filter fun f => isMatrixOp f.instr).length ≤ n.toNat))
         ∨ (∃ n : BitVec 4, i = .waitBatch n ∧ c = (x.g.batch.sealed.length ≤ n.toNat))) → Issues s x i →
       (c → GoesOn i s x) ∧ (¬c → Waits i s x .cond false))
     ∧ (Issues s x .nop → GoesOn .nop s x)
     ∧ (Issues s x .yield →
       let halts := x.g.preq = true ∧ x.g.run = .run ∧ x.g.yields = true
       (¬halts → GoesOn .yield s x)
       ∧ (halts → Becomes .yield s x ({ x.now.modQ x.q.tag QSet.advance with run := .halted }))))
  ∧ ∀ (s : State) (x : Iss) (batch : BitVec 4) (sbwait : BitVec 8) (yld : BitVec 1) (cls : BitVec 3) (count : BitVec 4), s.iss = some x →
      let i := Instr.clauseHeader batch sbwait yld cls count
      let free := (batch = 15 ∨ x.g.batch.sealed.length ≤ batch.toNat) ∧ (sbwait.getLsbD 0 = true → ∀ f ∈ x.g.flights, f.look ≠ 15)
        ∧ ∀ k, k < 7 → sbwait.getLsbD (k + 1) = true → ∀ f ∈ x.g.flights, f.slot ≠ k + 1
      (cls = 7 → exec i s = .next (s.raise x 1 0 0))
      ∧ (cls ≠ 7 → x.g.preq = false →
        ∃ t, exec i s = .next t ∧ (∀ r, r ≠ x.g.ref → t.group? r = s.group? r) ∧ { t with groups := s.groups } = s
          ∧ (free → t.group? x.g.ref = some (x.g.modQ x.q.tag QSet.advance))
          ∧ (¬free → t.group? x.g.ref = some (x.g.modQ x.q.tag fun q => q.held .cond false x.g.regs.waitlim x.kept)))

/-- R132: EXIT waits for what the group has in flight; then the quad-set's quads leave the group, and the last of them, or a handler's,
retires it once its copies are done: an open batch is sealed first, which waits for room at 15. The last group to retire ends its team as
DONE. When the last quads leave is the model's reading (log entry 34). -/
def Obligations.ExitGroup : Prop :=
  ∀ (s : State) (x : Iss), Issues s x .exit →
    (x.g.flights ≠ [] → Waits .exit s x (.drain s.next) false)
    ∧ (x.g.flights = [] → x.exitsAll = false → ∃ t g, exec .exit s = .next t ∧ t.group? x.g.ref = some g
      ∧ (∀ k, k < 16 → (g.running.getLsbD k = true ↔ x.g.running.getLsbD k = true ∧ x.q.quads.getLsbD k = false))
      ∧ (∀ e ∈ g.retstack, e.quads &&& x.q.quads = 0) ∧ (∀ e ∈ g.rstack, e.quads &&& x.q.quads = 0)
      ∧ g.regs = x.g.regs ∧ (∀ r, r ≠ x.g.ref → t.group? r = s.group? r) ∧ t.dram = s.dram ∧ t.hostMem = s.hostMem)
    ∧ (x.g.flights = [] → x.exitsAll = true → x.g.batch.openHas = false ∨ x.g.batch.openJobs = [] → x.g.batch.sealed = [] →
      ∃ t g k, exec .exit s = .next t
      ∧ t.group? x.g.ref = some g ∧ g.run = .retired ∧ g.qsets = [] ∧ g.regs = x.g.regs
      ∧ t.team? x.t.ref = some k
      ∧ ((∀ j ∈ s.groupsOf x.t.ref, j.ref ≠ x.g.ref → j.run = .retired) → x.t.state = .running → k.state = .ending ∧ k.status = 0)
      ∧ (∀ r, r ≠ x.g.ref → t.group? r = s.group? r) ∧ t.dram = s.dram ∧ t.hostMem = s.hostMem)
    ∧ (x.g.flights = [] → x.exitsAll = true → x.g.batch.sealed ≠ [] → x.g.batch.openHas = false ∨ 15 ≤ x.g.batch.sealed.length →
      Waits .exit s x .cond false)
    ∧ (x.g.flights = [] → x.exitsAll = true → x.g.batch.openHas = true → x.g.batch.sealed.length < 15 →
      x.g.batch.openJobs ≠ [] ∨ x.g.batch.sealed ≠ [] → Becomes .exit s x (({ x.now with batch := x.g.batch.afterSeal } : Group).modQ
        x.q.tag fun q => q.held .cond false x.g.regs.waitlim x.kept))

/-- R133: SETFMT writes FMT[18:0] of its quad-set and leaves CBSEL; the scalar form writes FMT[20:0] from a scalar. R27, R122, R133, R256,
R293, R294, R387: SSET writes what is defined of its register and nothing else: FMT of its quad-set, the flags, the wait limit and %cstat
(ones clear) of its group, the handlers' addresses and the map of its context. A range register of a context that is not a runtime context
raises PERM, reason 8. R294: the write of word 3 of a segment puts the three staged words in force with it; a segment that the rule excludes
is left invalid and PERM, reason 7, is raised. -/
def Obligations.RegisterWrites : Prop :=
  (∀ (s : State) (x : Iss),
     (∀ imm : BitVec 19, Issues s x (.setfmt imm) →
       Moves (.setfmt imm) s x fun q => { q.advance with fmt := (x.q.fmt.extractLsb' 19 2 ++ imm).setWidth 64 })
     ∧ (∀ ss : BitVec 6, Issues s x (.setfmtScalar ss) →
       Moves (.setfmtScalar ss) s x fun q => { q.advance with fmt := ((x.s ss.toNat).extractLsb' 0 21).setWidth 64 }))
  ∧ (∀ (s : State) (x : Iss) (sa : BitVec 6),
       let v := x.s sa.toNat
       let on (g : Group) : Group := g.modQ x.q.tag QSet.advance
       let inCtx (i : Instr) (c : Ctx) : Prop := ∃ t, exec i s = .next t ∧ t.ctx x.l.cid = c ∧ (∀ d, d ≠ x.l.cid → t.ctx d = s.ctx d)
         ∧ t.group? x.g.ref = some (on x.now) ∧ (∀ r, r ≠ x.g.ref → t.group? r = s.group? r)
         ∧ (∀ d, { t.tenant d with ctxs := (s.tenant d).ctxs } = s.tenant d)
         ∧ { t with groups := s.groups, free := s.free, tenants := s.tenants } = s
       let c := s.ctx x.l.cid
       (Issues s x (.sset sa 0x010) → Moves (.sset sa 0x010) s x fun q => { q.advance with fmt := (v.extractLsb' 0 21).setWidth 64 })
       ∧ (Issues s x (.sset sa 0x011) →
         Becomes (.sset sa 0x011) s x (on { x.now with regs := { x.g.regs with fpstat := v.extractLsb' 0 5 } }))
       ∧ (Issues s x (.sset sa 0x012) → Becomes (.sset sa 0x012) s x (on { x.now with regs := { x.g.regs with cc := v.extractLsb' 0 4 } }))
       ∧ (Issues s x (.sset sa 0x029) → Becomes (.sset sa 0x029) s x (on { x.now with batch := { x.g.batch with
           fail := x.g.batch.fail &&& ~~~(v.extractLsb' 0 16), armf := x.g.batch.armf && !v.getLsbD 16 } }))
       ∧ (Issues s x (.sset sa 0x031) →
         Becomes (.sset sa 0x031) s x (on { x.now with regs := { x.g.regs with waitlim := v.extractLsb' 0 32 } }))
       ∧ (∀ k : BitVec 2, Issues s x (.sset sa (0x044 + k.setWidth 12)) → ∃ g, Becomes (.sset sa (0x044 + k.setWidth 12)) s x (on g)
         ∧ (let d := g.emu.cur.w k.toNat
           d.extractLsb' 0 7 = v.extractLsb' 0 7 ∧ d.extractLsb' 11 2 = v.extractLsb' 11 2 ∧ d.extractLsb' 32 32 = v.extractLsb' 32 32
             ∧ d.extractLsb' 8 3 = (if 4 ≤ (v.extractLsb' 8 3).toNat then 7 else v.extractLsb' 8 3)
             ∧ d.getLsbD 7 = false ∧ d.extractLsb' 13 19 = 0)
         ∧ (∀ j : BitVec 2, j ≠ k → g.emu.cur.w j.toNat = x.g.emu.cur.w j.toNat) ∧ { g with emu := x.now.emu } = x.now)
       ∧ (Issues s x (.sset sa 0x060) → inCtx (.sset sa 0x060) { c with eha := (v.extractLsb' 0 48).setWidth 64 })
       ∧ (Issues s x (.sset sa 0x061) → inCtx (.sset sa 0x061) { c with trh := (v.extractLsb' 0 48).setWidth 64 })
       ∧ (Issues s x (.sset sa 0x063) → inCtx (.sset sa 0x063) { c with ems := (v.extractLsb' 0 48).setWidth 64 })
       ∧ (∀ k : BitVec 6, let n : BitVec 12 := 0x100 + k.setWidth 12
         Issues s x (.sset sa n) →
         (c.rt = false → Traps (.sset sa n) s x 5 (n.setWidth 64) 0x800)
         ∧ (c.rt = true → k.extractLsb' 0 2 ≠ 3 →
           inCtx (.sset sa n) { c with stage := tset 0 c.stage k.toNat (v &&& 0x0000FFFFFFFF0000) })))
  ∧ ∀ (s : State) (x : Iss) (sa : BitVec 6) (seg : BitVec 4), let n : BitVec 12 := 0x100 + (seg ++ 3#2).setWidth 12
      let v := x.s sa.toNat &&& 0x800000FF00000707
      let c := s.ctx x.l.cid
      let w (j : Nat) : W64 := tget 0 c.stage (4 * seg.toNat + j)
      let fld (j : Nat) : Nat := ((w j).extractLsb' 16 32).toNat
      let kind := (v.extractLsb' 8 3).toNat
      let pkg := (v.extractLsb' 32 8).toNat
      let excluded := v.getLsbD 63 = true ∧ (fld 1 < fld 0 ∨ 2 ^ 32 ≤ fld 2 + fld 1 - fld 0 ∨ 4 < kind ∨ (v.getLsbD 2 = true ∧ kind ≠ 0)
        ∨ (pkg ≠ 0 ∧ kind ≠ 3) ∨ 143 < pkg ∨ (fld 2 ≠ 0 ∧ kind = 1))
      Issues s x (.sset sa n) → c.rt = true → ∃ u : State, (excluded → exec (.sset sa n) s = .next (u.raise x 5 (seg.setWidth 64) 0x700))
        ∧ (¬excluded → exec (.sset sa n) s = .next (u.advance x))
        ∧ (∀ j, j < 3 → (u.ctx x.l.cid).seg seg.toNat j = w j)
        ∧ (u.ctx x.l.cid).seg seg.toNat 3 = (if excluded then v &&& 0x7FFFFFFFFFFFFFFF else v)
        ∧ (∀ i j, i ≠ seg.toNat → j < 4 → (u.ctx x.l.cid).seg i j = c.seg i j) ∧ u.groups = (s.prep x).groups

/-! ## Exceptions -/

/-- R137, R343, R344, R347: TRAP and BRK with a handler installed, and nothing in flight: the handler is entered, with the code in %tdetail.
With BRKHALT the core is halted instead (R359), %tpc at the BRK, unless the issuing team borrows it (R368).
Where execution goes on after such a halt is the model's reading (log entry 33). -/
def Obligations.TrapInstructions : Prop :=
  ∀ (s : State) (x : Iss) (i : Instr) (code : BitVec 16) (cause : Nat),
    (i = .trap code ∧ cause = 12 ∨ i = .brk code ∧ cause = 11) → Issues s x i →
    let trh := (s.ctx x.l.cid).trh
    let halts := i = .brk code ∧ (s.coreOf x.t.core).dbg.brkhalt = true ∧ s.borrowed x.t.core x.l.tid = false
    (¬halts → x.g.trap.mode = none → x.g.flights = [] → x.g.trap.replay = [] → x.g.trap.shadows = [] → trh ≠ 0 → IsHeader s x trh →
      ∃ t, exec i s = .next t ∧ TrapEntered s t x cause 0 (code.setWidth 64) trh)
    ∧ (halts → ∃ t g, exec i s = .next t ∧ t.group? x.g.ref = some g ∧ g.trap = { x.now.trap with tpc := x.q.pc }
      ∧ g.q? x.q.tag = some x.q.advance ∧ g.regs = x.g.regs
      ∧ (t.coreOf x.t.core).dbg.state = 1 ∧ (t.coreOf x.t.core).dbg.halt = true)

/-- R343, R344, R347: a trap at issue, whatever its cause: the handler is entered at once if the group has nothing in flight and nothing
else to report, otherwise the trap waits for that; without a handler, with one that stands at no header, and in trap mode the team ends with
status TRAP and the cause. R345, R347, R15, R350: TRAP_ENTRY enters the handler for a trap that has waited until its group drained, and
WAITLIM_EXPIRY raises STALL at a quad-set whose bounded wait has reached its limit and is not over.
The order in which a trap without a handler is looked at is the model's (log entry 89). -/
def Obligations.TrapEntry : Prop :=
  (∀ (s : State) (x : Iss) (cause : Nat) (addr detail : W64), s.iss = some x → cause < 15 →
     let u := (s.prep x).raise x cause addr detail
     let trh := (s.ctx x.l.cid).trh
     (x.g.trap.mode.isSome = true → TeamEnds s u x.g.team 4 (.trap cause))
     ∧ (x.g.trap.mode = none → x.g.flights ≠ [] ∨ x.g.trap.replay ≠ [] ∨ x.g.trap.shadows ≠ [] →
       u.group? x.g.ref = some { x.now with trap := { x.now.trap with pend := some ⟨cause, x.q.pc, addr, detail, x.q.tag, true⟩ } }
       ∧ (∀ r, r ≠ x.g.ref → u.group? r = s.group? r) ∧ { u with groups := s.groups, free := s.free } = s)
     ∧ (x.g.trap.mode = none → x.g.flights = [] → x.g.trap.replay = [] → x.g.trap.shadows = [] →
       (trh = 0 ∨ ¬IsHeader s x trh → TeamEnds s u x.g.team 4 (.trap cause))
       ∧ (trh ≠ 0 → IsHeader s x trh → TrapEntered s u x cause addr detail trh)))
  ∧ (∀ (s : State) (g : Group) (q : QSet) (t : Team) (l : Launch) (r : TrapRec), s.group? g.ref = some g → s.homeOf g = some (t, l) →
      g.q? r.tag = some q → g.run = .run → g.flights = [] → g.trap.replay = [] → g.trap.shadows = [] → g.trap.parked = false →
      g.trap.pend = some r → s.debugHeld t.core = false → g.trap.mode = none → r.cause < 15 → s.headerAt t.core l.cid (s.ctx l.cid).trh = true → (s.ctx l.cid).trh ≠ 0 →
      ∃ u k, exec (.trapEntry g.ref) s = .next u ∧ u.group? g.ref = some k
        ∧ k.trap.tcause = BitVec.ofNat 64 r.cause ∧ k.trap.tpc = r.pc ∧ k.trap.taddr = r.addr ∧ k.trap.tdetail = r.detail
        ∧ k.trap.mode.isSome = true ∧ k.trap.pend = none ∧ k.q? r.tag = some (q.goto (s.ctx l.cid).trh) ∧ k.regs = g.regs
        ∧ (∀ n, n ≠ g.ref → u.group? n = s.group? n) ∧ { u with groups := s.groups } = s)
    ∧ ∀ (s : State) (x : Iss) (h : Hold), s.issAt x.g.ref x.q.tag = some x → x.g.run = .run → x.g.trap.pend = none → x.g.trap.replay = [] →
      x.g.trap.parked = false → s.debugHeld x.t.core = false → x.mayRun = true → x.q.hold = some h → h.bounded = true → h.limit ≤ h.count →
      s.holdOver x h = false → acceptDue s x.g.ref x.q.tag = false → exec (.waitlimExpiry x.g.ref x.q.tag) s = .next (s.raise x 8 0 0)

/-- R138, R349: TRET ends trap mode: the replay list is in flight again, without the reported entry for `.next`, and the quad-set is back at
its pc, or behind the reported instruction for `.next` of a trap at issue; `.kill` ends the team with the cause. No JOIN or REGANG is taken
to be complete, and no step of the pacer. -/
def Obligations.TrapReturn : Prop :=
  ∀ (s : State) (x : Iss) (form : BitVec 2) (save : TrapSave), x.g.trap.mode = some save → save.tag = x.q.tag → Issues s x (.tret form) →
    (form = 2 → ∃ t, exec (.tret form) s = .next t ∧ TeamEnds s t x.g.team 4 (.trap (x.g.trap.tcause.extractLsb' 0 8).toNat))
    ∧ (form = 0 ∨ form = 1 ∧ (∀ h job, save.hold = some h → h.kind ≠ .armed job) →
      (∀ e ∈ x.g.rstack, ¬InQuads (e.quads &&& x.g.running) e.arrived) → (∀ h, save.hold = some h → h.kind ≠ .regang) →
      s.team? x.g.team = some x.t → PacerStays s x.t →
      ∃ t g, exec (.tret form) s = .next t ∧ t.group? x.g.ref = some g
      ∧ g.trap.mode = none ∧ g.trap.replay = []
      ∧ g.flights.map (·.fid) = (save.replay.filter fun f => !(form = 1 ∧ some f.fid = save.reported)).map (·.fid) ++ x.g.flights.map (·.fid)
      ∧ (∃ q, g.q? x.q.tag = some q ∧ q.fmt = save.saved.fmt
        ∧ q.pc = (if form = 1 ∧ save.atIssue = true then save.saved.pc + 4 else save.saved.pc)
        ∧ (form = 0 → q.clause = save.saved.clause ∧ q.hold = save.hold.map fun h => { h with count := 0 }))
      ∧ (∀ tag, tag ≠ x.q.tag → g.q? tag = x.g.q? tag) ∧ g.regs = x.g.regs
      ∧ (∀ r, r ≠ x.g.ref → t.group? r = s.group? r) ∧ TeamAside s t x.t
      ∧ { t with groups := s.groups, teams := s.teams, free := s.free } = s)

/-- R36, R140, R348: a word that is not an instruction, with its cause: RSVD, COMPAT in a kernel of generation 2, UNDEF. R37, R140, R348:
what keeps a word from executing. A word undefined where it stands enters the handler with UNDEF; one of a feature group that is off with
MASKED; in trap mode a word outside R348's list ends the team. Said for integer lane words, VCLMUL among them, F64 arithmetic, SPLOAD, the
PACE words, TRET, ERET, SSET, multicast copies, and VLDA and VSTL. R37, R140: MASKED for a feature group that operands bring in: BTE for a store some
executing lane of which addresses an aperture, SYSATOM for atomics, VLDA and VSTL in a host or fabric window, F64, CPLX and K5 for the formats
of a matrix operation, as its B descriptor leaves them.
Which of two grounds comes first where both hold is the model's reading (log entry 96), and so is which group is reported (106). -/
def Obligations.WordRefused : Prop :=
  (∀ (s : State) (x : Iss) (w : W32), s.iss = some x →
     exec (.emulationEntry w) s = .next ((s.prep x).enterEmu x w
       (if 0x6E ≤ w.toNat / 2 ^ 25 ∧ w.toNat / 2 ^ 25 ≤ 0x7E then 3 else if x.l.kernel.isa = 2 ∧ compatWord w = true then 4 else 1) 0))
  ∧ (∀ (s : State) (x : Iss) (i : Instr), s.iss = some x →
      ((intLane i).isSome = true ∨ (floatLane i).isSome = true ∨ (∃ a b l, i = .spload a b l) ∨ i = .pdone ∨ (∃ a, i = .pwait a) ∨ (∃ d a, i = .pfin d a)
        ∨ (∃ f, i = .tret f) ∨ (∃ r, i = .eret r) ∨ (∃ a n, i = .sset a n) ∨ (∃ d a n z v q t f, i = .cpy d a n z 1 v 0 q t f)
        ∨ (∃ d a z c l m, i = .vlda d a z c l m) ∨ ∃ d a z c l m, i = .vstl d a z c l m) →
      (x.g.trap.mode.isSome = true → trapAllowed i = false → ∃ t, exec i s = .next t ∧ TeamEnds s t x.g.team 4 .none)
      ∧ (x.g.trap.mode = none ∨ trapAllowed i = true → undefHere x i = true → exec i s = .next ((s.prep x).enterEmu x (wordOf i) 1 0))
      ∧ (x.g.trap.mode = none ∨ trapAllowed i = true → undefHere x i = false → ∀ f, staticFeats i = [f] → featOn x.l.feat f = false →
        exec i s = .next ((s.prep x).enterEmu x (wordOf i) 2 f)))
  ∧ ∀ (s : State) (x : Iss) (i : Instr), Issues s x i →
      let masked (f : Nat) : Prop := exec i s = .next ((s.prep x).enterEmu x (wordOf i) 2 f)
      let on (f : Nat) : Prop := featOn x.l.feat f = true
      let off (f : Nat) : Prop := featOn x.l.feat f = false
      let lies (va kind : Nat) : Prop := va < 2 ^ 48 ∧ ∃ n, (s.ctx x.l.cid).segOf va = some n
        ∧ (((s.ctx x.l.cid).seg n 3).extractLsb' 8 3).toNat = kind
      let stores (u : AccUse) : Prop := u = .store ∨ u = .store8 ∨ u = .storeRel
      let systems (u : AccUse) : Prop := u = .atomic ∨ u = .loadAcq ∨ u = .storeRel
      let at' (u : AccUse) (has : Nat → Prop) : Prop := (stores u → has 2 → off 6 → masked 6)
        ∧ (systems u → has 3 ∨ has 4 → off 8 → ¬(stores u ∧ has 2 ∧ off 6) → masked 8)
      (∀ a : LaneForm, laneForm i = some a →
        at' a.use fun kind => a.offset = false ∧ ∃ l, l < 64 ∧ bit (x.exec a.m) l = true ∧ lies (a.ask x l).addr kind)
      ∧ (∀ a : ScalarForm, scalarForm x i = some a → at' a.use (lies a.addr.toNat))
      ∧ ∀ (mms : Bool) (vc : BitVec 7) (sA : BitVec 5) (va : Option (BitVec 7)) (sB : BitVec 5) (zero : BitVec 1) (la : BitVec 4),
        i = (match va with
          | none => if mms then .mms vc sA sB zero la else .mma vc sA sB zero la
          | some r => if mms then .mmsR vc r sB zero la else .mmaR vc r sB zero la) →
        matrixUndef mms vc.toNat (va.map (·.toNat)) sB.toNat x s = false →
        let o := mop mms x.q.fmt (x.s sB.toNat)
        (o.af = 0 ∨ o.bf = 0 → off 1 → masked 1) ∧ (isCplxFmt o.af = true → on 1 → off 2 → masked 2)
          ∧ (o.bf = 0x1C → on 1 → on 2 → off 7 → masked 7)

/-- R140 to R145, R151: the entry of the emulation handler in the order of its steps: the team ends with the cause (trap mode; a FATAL group;
no handler), the word waits until the group has nothing in flight, EMUOVF at level 2, and the handler one level up.
The descriptors of a COMPAT word are the model's reading (log entry 30). -/
def Obligations.EmulationEntry : Prop :=
  ∀ (s : State) (x : Iss) (w : W32) (cause fgrp : Nat), s.iss = some x →
    let u := (s.prep x).enterEmu x w cause fgrp
    let eha := (s.ctx x.l.cid).eha
    let fatal := cause = 2 ∧ featFatal x.l.feat fgrp = true
    (x.g.trap.mode.isSome = true → TeamEnds s u x.g.team 4 (.word cause))
    ∧ (x.g.trap.mode = none →
      (fatal → TeamEnds s u x.g.team 5 (.word cause))
      ∧ (¬fatal →
        (x.g.flights ≠ [] → u.group? x.g.ref = some (x.now.modQ x.q.tag fun q => q.held (.drain s.next) false x.g.regs.waitlim x.kept)
          ∧ (∀ r, r ≠ x.g.ref → u.group? r = s.group? r) ∧ { u with groups := s.groups, free := s.free } = s)
        ∧ (x.g.flights = [] →
          (x.g.emu.level = 2 → u = (s.prep x).raise x 10 0 (BitVec.ofNat 64 cause))
          ∧ (x.g.emu.level < 2 →
            (eha = 0 ∨ ¬IsHeader s x eha → TeamEnds s u x.g.team 4 (.word cause))
            ∧ (eha ≠ 0 → IsHeader s x eha → Emulates s u x w cause fgrp eha)))))

/-- R152, R153, R155: ERET waits for what is in flight, and then leaves one level: FMT and pc of that level are back, behind the emulated word for
`.next`, and the level-1 entry state comes back from the bank; a matrix word that the handler completed counts in %opc. EWIN repoints a window. That a
word which is no defined matrix operation but has one of their opcodes counts as well is the model's choice (log entry 104). -/
def Obligations.EmulationReturn : Prop :=
  ∀ (s : State) (x : Iss),
    (∀ retry : BitVec 1, Issues s x (.eret retry) →
      (x.g.flights ≠ [] → Waits (.eret retry) s x (.drain s.next) false)
      ∧ (x.g.flights = [] → ∃ g, Becomes (.eret retry) s x g
        ∧ g.emu.level = x.g.emu.level - 1 ∧ (x.g.emu.level = 2 → g.emu.cur = x.g.emu.bank)
        ∧ (let saved := if x.g.emu.level = 2 then x.g.emu.save2 else x.g.emu.save1
          ∃ q, g.q? x.q.tag = some q ∧ q.quads = x.q.quads ∧ q.fmt = saved.fmt ∧ q.hold = none
            ∧ q.pc = (if retry = 1 then saved.pc else saved.pc + 4))
        ∧ (∀ tag, tag ≠ x.q.tag → g.q? tag = x.g.q? tag)
        ∧ g.regs.opc = (if retry = 0 ∧ (x.g.emu.cur.eword.extractLsb' 25 7 = 0x66 ∨ x.g.emu.cur.eword.extractLsb' 25 7 = 0x67)
          then x.g.regs.opc + 1 else x.g.regs.opc)
        ∧ { g.regs with opc := x.g.regs.opc } = x.g.regs))
    ∧ (∀ (win : BitVec 2) (num : BitVec 7) (kind : BitVec 2), Issues s x (.ewin win num kind) → ∃ g, Becomes (.ewin win num kind) s x g
      ∧ g.q? x.q.tag = some x.q.advance ∧ g.regs = x.g.regs
      ∧ (let d := x.g.emu.cur.w win.toNat
        let e := g.emu.cur.w win.toNat
        e.extractLsb' 0 7 = num ∧ e.extractLsb' 8 3 = kind.setWidth 3 ∧ e.getLsbD 12 = false ∧ e.getLsbD 11 = d.getLsbD 11
          ∧ e.extractLsb' 32 32 = d.extractLsb' 32 32)
      ∧ ∀ k : BitVec 2, k ≠ win → g.emu.cur.w k.toNat = x.g.emu.cur.w k.toNat)

/-! ## Memory -/

/-- R22, R177, R178, R181: loads, stores and atomics of the lanes whose every check holds are in flight, with one access for each executing
lane, at the place that its address names, in lane order; without an executing lane they go on at once. R22, R177, R178, R186, R187, R190:
the same for scalar accesses, and PREF, which is in flight without a trap or, where a check fails, does nothing. -/
def Obligations.MemoryIssue : Prop :=
  (∀ (s : State) (x : Iss) (i : Instr) (a : LaneForm), laneForm i = some a → Issues s x i → SegFeatsOn x →
     let ex := x.exec a.m
     (ex = 0 → GoesOn i s x)
     ∧ (ex ≠ 0 → (∀ l n, bit ex l = true → n < 7 → ¬(a.ask x l).Fails s x a.use a.size n) → Uniform s x a.use (a.ask x) ex →
       ∃ t g f, exec i s = .next t ∧ InFlight i s t x g f ∧ f.exec = ex ∧ f.look = a.look ∧ f.slot = a.slot
         ∧ f.accs.map (·.lane) = (List.range 64).filter (fun l => bit ex l)
         ∧ (∀ k ∈ f.accs, k.Is (a.ask x k.lane) s x a.size)
         ∧ (x.g.hlevel = 0 → match a.dst with
           | some (n, r) => f.file = .lane ∧ f.dst = r ∧ f.ndst = n
           | none => f.ndst = 0)))
  ∧ ∀ (s : State) (x : Iss) (i : Instr), Issues s x i → SegFeatsOn x →
      (∀ a : ScalarForm, scalarForm x i = some a →
        let k : Ask := ⟨0, a.addr.toNat, false, a.data⟩
        (∀ n, n < 7 → ¬k.Fails s x a.use a.size n) →
        ∃ t g f acc, exec i s = .next t ∧ InFlight i s t x g f ∧ f.look = 0 ∧ f.slot = a.slot ∧ f.accs = [acc] ∧ acc.Is k s x a.size
          ∧ match a.dst with
            | some sd => f.ndst = (if sd = 0 then 0 else 1) ∧ f.file = .scalar ∧ f.dst = x.g.scalNo sd.toNat
            | none => f.ndst = 0)
      ∧ (∀ (sa : BitVec 6) (l2only : BitVec 1), i = .pref sa l2only →
        let k : Ask := ⟨0, (x.s sa.toNat).toNat, false, []⟩
        ((∃ n, n < 7 ∧ k.Fails s x .cacheOp 1 n) → GoesOn i s x)
        ∧ ((∀ n, n < 7 → ¬k.Fails s x .cacheOp 1 n) →
          ∃ t g f acc, exec i s = .next t ∧ InFlight i s t x g f ∧ f.look = 15 ∧ f.slot = 4 ∧ f.ndst = 0 ∧ f.accs = [acc] ∧ acc.Is k s x 1))

/-- R178, R179, R182: the first check that fails decides, at the lowest executing lane at which it fails: LEASE ends the team, the others
raise PERM or MISALIGN with the lane and the reason. Nothing of the access is made. R112: a store with some lane in an aperture whose lanes
differ raises UNIFORM at the lowest lane that differs from the first in address or data: with 1 where its address differs and where some lane
lies elsewhere, with 2 for its data alone.
That a window segment is checked against the leases is the model's reading (log entry 91), and so is 1 for a lane that differs in both (110). -/
def Obligations.AccessRefused : Prop :=
  (∀ (s : State) (x : Iss) (i : Instr), Issues s x i → SegFeatsOn x →
     (∀ (a : LaneForm) (l n : Nat), laneForm i = some a → n < 7 → bit (x.exec a.m) l = true →
       (a.ask x l).Fails s x a.use a.size n →
       (∀ j, bit (x.exec a.m) j = true → j < l → ¬(a.ask x j).Fails s x a.use a.size n) →
       (∀ j c, bit (x.exec a.m) j = true → c < n → ¬(a.ask x j).Fails s x a.use a.size c) → Refused i s x (a.ask x l) n)
     ∧ (∀ (a : ScalarForm) (n : Nat), scalarForm x i = some a → n < 7 →
       let k : Ask := ⟨0, a.addr.toNat, false, a.data⟩
       k.Fails s x a.use a.size n → (∀ c, c < n → ¬k.Fails s x a.use a.size c) → Refused i s x k n))
  ∧ ∀ (s : State) (x : Iss) (i : Instr) (a : LaneForm) (l0 l : Nat), laneForm i = some a → Issues s x i → SegFeatsOn x →
      let ex := x.exec a.m
      a.use.writes = true → (∀ j n, bit ex j = true → n < 7 → ¬(a.ask x j).Fails s x a.use a.size n) →
      (∃ j va o, bit ex j = true ∧ (a.ask x j).target x (s.ctx x.l.cid) = some (.aperture va o)) →
      bit ex l0 = true → (∀ j, bit ex j = true → l0 ≤ j) → bit ex l = true →
      let same (j : Nat) : Prop := (a.ask x j).addr = (a.ask x l0).addr ∧ (a.ask x j).data = (a.ask x l0).data
      let elsewhere := ∃ j, bit ex j = true ∧ ∀ va o, (a.ask x j).target x (s.ctx x.l.cid) ≠ some (.aperture va o)
      ¬same l → (∀ j, bit ex j = true → j < l → same j) →
      ((a.ask x l).addr ≠ (a.ask x l0).addr ∨ elsewhere → Traps i s x 3 (BitVec.ofNat 64 l) 1)
      ∧ ((a.ask x l).addr = (a.ask x l0).addr → ¬elsewhere → Traps i s x 3 (BitVec.ofNat 64 l) 2)

/-- R22, R163, R166, R169, R183, R185, R186: LOAD_DATA_RETURN. The bytes that a load finds, in the scratchpad, in global memory, in a host
window or a fabric window, land in its destination, sign-extended where its size says so; a scalar load's value is zero-extended. Of several
lanes those named are performed, and the load completes when none is left. A VLDA at dev or sys scope reads L2 whatever L1 holds, and then the
tenant's words in L1 whose bytes are not DIRTY are valid no more. R389: an access that the other package does not serve raises PERM.
Which lanes one step performs is open, and the event that names them the model's form (log entry 26); what another package's memory holds, and
whether it serves an access, are free values (log entry 5). -/
def Obligations.LoadReturn : Prop :=
  ∀ (s : State) (g : Group) (f : Flight) (t : Team) (l : Launch) (lanes : W64), Turn s g f t l → isLoad f.instr = true → PacerStays s t →
    let spad := ∀ a ∈ f.left, ∃ o, a.target = .spad o
    let vector := ∀ sd sa off dw, f.instr ≠ .sld sd sa off dw
    let named := f.left.filter fun a => bit lanes a.lane
    -- the scratchpad, the lanes named
    (spad → SpadWhole s t → s.team? t.ref = some t → vector → f.inLanes g → ∃ u k, exec (.loadDataReturn g.ref ⟨f.fid, lanes⟩) s = .next u
      ∧ u.group? g.ref = some k ∧ Made g k f named ∧ k.qsets = g.qsets
      ∧ Landed g k f named (fun a => match a.target with
          | .spad o => loadedWords f.instr (t.spad.read o a.size)
          | _ => [])
      ∧ (∀ r, r ≠ g.ref → u.group? r = s.group? r) ∧ TeamAside s u t ∧ u.dram = s.dram ∧ u.hostMem = s.hostMem)
    ∧ (∀ a o, f.left = [a] → a.target = .spad o → SpadWhole s t → s.team? t.ref = some t → ¬vector →
      ∃ u k, exec (.loadDataReturn g.ref ⟨f.fid, lanes⟩) s = .next u ∧ u.group? g.ref = some k ∧ Gone g k f ∧ k.qsets = g.qsets
        ∧ LandedScalar g k f (BitVec.ofNat 64 (leNat (t.spad.read o a.size)))
        ∧ (∀ r, r ≠ g.ref → u.group? r = s.group? r) ∧ TeamAside s u t ∧ u.dram = s.dram ∧ u.hostMem = s.hostMem)
    -- global memory, one lane
    ∧ (∀ a va tia bs, f.left = [a] → bit lanes a.lane = true → a.target = .glob va tia → Finds s t.core l.tid tia a.size bs →
      (loadMode f.instr).2 = false → 0 < a.size → (a.size ≠ 16 ∨ s.ncPage l.tid tia = false) →
      ∃ u k, exec (.loadDataReturn g.ref ⟨f.fid, lanes⟩) s = .next u ∧ u.group? g.ref = some k ∧ Gone g k f ∧ k.qsets = g.qsets
        ∧ (vector → f.inLanes g → Landed g k f f.left fun _ => loadedWords f.instr bs)
        ∧ (¬vector → LandedScalar g k f (BitVec.ofNat 64 (leNat bs)))
        ∧ (∀ r, r ≠ g.ref → u.group? r = s.group? r) ∧ TeamAside s u t)
    -- global memory, several lanes whose lines the core holds
    ∧ (∀ bs : LaneAcc → List Byte, vector → f.inLanes g → (loadMode f.instr).2 = false →
      (∀ a ∈ f.left, ∃ va tia, a.target = .glob va tia ∧ 0 < a.size ∧ (a.size ≠ 16 ∨ s.ncPage l.tid tia = false)
        ∧ HeldInL1 s t.core (gia l.tid tia / 128) (tia % 128) a.size (bs a)) →
      ∃ u k, exec (.loadDataReturn g.ref ⟨f.fid, lanes⟩) s = .next u ∧ u.group? g.ref = some k ∧ Made g k f named ∧ k.qsets = g.qsets
        ∧ Landed g k f named (fun a => loadedWords f.instr (bs a))
        ∧ (∀ r, r ≠ g.ref → u.group? r = s.group? r) ∧ TeamAside s u t ∧ u.dram = s.dram ∧ u.hostMem = s.hostMem ∧ u.l2 = s.l2)
    -- one lane: an acquire beyond core scope; a host window; a fabric window
    ∧ (∀ a, f.left = [a] → bit lanes a.lane = true → vector → f.inLanes g → 0 < a.size →
      let lands (bs : List Byte) (p : State → Prop) : Prop := ∃ u k, exec (.loadDataReturn g.ref ⟨f.fid, lanes⟩) s = .next u
        ∧ u.group? g.ref = some k ∧ Gone g k f ∧ k.qsets = g.qsets ∧ Landed g k f [a] (fun _ => loadedWords f.instr bs)
        ∧ (∀ r, r ≠ g.ref → u.group? r = s.group? r) ∧ TeamAside s u t ∧ u.hostMem = s.hostMem ∧ p u
      (∀ va tia bs, a.target = .glob va tia → (loadMode f.instr).2 = true → tia % 128 + a.size ≤ 128 →
        (a.size ≠ 16 ∨ s.ncPage l.tid tia = false) → HeldInL2 s (gia l.tid tia / 128) (tia % 128) a.size bs →
        (∀ n, (s.coreOf t.core).l1? (gia l.tid tia / 128) = some n → n.dirty = 0) →
        lands bs fun u => ∀ n ∈ (u.coreOf t.core).l1, glineTid n.gline = l.tid → ∀ w, w < 32 → n.valid.getLsbD w = true →
          ∀ b, b < 4 → n.dirty.getLsbD (4 * w + b) = true)
      ∧ (∀ va tia leaf, a.target = .host va tia → a.size ≠ 16 → reportMask f.instr = none → tia < 2 ^ 48 → tia % 128 + a.size ≤ 128 →
        (s.translate l.tid (glineTia (gia l.tid tia / 128))).2 = .ok leaf → leaf.host = true → s.linkDown hostLink = false →
        lands (s.hostMem.read (s.hostAddr l.tid leaf.frame (tia % 65536)) a.size) fun u => u.dram = s.dram)
      ∧ (∀ va pkg tia, a.target = .fabric va pkg tia → a.size ≠ 16 → reportMask f.instr = none → g.run ≠ .retired → f.trap = none →
        (∃ p ∈ fabricPorts, s.linkDown p = false) →
        (Config.fabricServes s.free = true → lands (fabricBytes s.free a.size) fun u => u.dram = s.dram ∧ u.l2 = s.l2)
        ∧ (Config.fabricServes s.free = false → ∃ u, exec (.loadDataReturn g.ref ⟨f.fid, lanes⟩) s = .next u ∧ Unreached s u g f a va)))

/-- R164, R166, R169, R180, R183, R185, R197, R310: STORE_COMPLETE. Stores of the scratchpad leave in it what they store, lane after lane, and
every other byte of memory as it was; the lanes named are performed, but none before a lower lane that writes a byte of it, and the store
completes when none is left. Stores to lines that their core holds with write permission leave there what they store, as every core reads
memory. Where a line lacks it, its home slice gives it, and the frame is dirty from then on. A VSTL at dev or sys scope leaves its bytes in L2,
and of the tenant no dirty byte in the core's L1. A host window takes the bytes to host memory, a fabric window to the other package, or to
PERM where that package serves no such access (R389).
Which lanes one step performs is open, and the event that names them the model's form (log entry 26); whether another package serves an access
is a free value (log entry 5). -/
def Obligations.StoreComplete : Prop :=
  ∀ (s : State) (g : Group) (f : Flight) (t : Team) (l : Launch) (lanes : W64), Turn s g f t l → isStore f.instr = true →
    (∀ m ∈ s.adms, m.src ≠ some (g.ref, f.fid)) → (∀ a ∈ f.left, a.size ≤ 4 * a.data.length) → PacerStays s t →
    let named := f.turns lanes LaneAcc.touches
    let plain := storeScope f.instr = 0
    (plain → (∀ a ∈ f.left, ∃ o, a.target = .spad o) → SpadWhole s t → s.team? t.ref = some t →
      ((∀ a ∈ f.left, bit lanes a.lane = true) → named = f.left)
      ∧ ∃ u k m, exec (.storeComplete g.ref ⟨f.fid, lanes⟩) s = .next u
      ∧ u.group? g.ref = some k ∧ Made g k f named ∧ k.qsets = g.qsets ∧ k.regs = g.regs
      ∧ u.team? t.ref = some m ∧ (∀ o, m.spad.get o = storedByte named o (t.spad.get o))
      ∧ (∀ r, r ≠ t.ref → u.team? r = s.team? r) ∧ (∀ r, r ≠ g.ref → u.group? r = s.group? r)
      ∧ u.dram = s.dram ∧ u.hostMem = s.hostMem ∧ u.cores = s.cores ∧ u.l2 = s.l2)
    -- global memory, lines that the core may write
    ∧ (plain → (∀ a ∈ f.left, ∃ va tia ln, a.target = .glob va tia ∧ tia % 128 + a.size ≤ 128 ∧ tia < 2 ^ 48 ∧ 0 < a.size
        ∧ (s.coreOf t.core).l1? (gia l.tid tia / 128) = some ln ∧ ln.wp = true ∧ (admits f.instr = true → s.viewAt l.tid a = false)
        ∧ (a.size ≠ 16 ∨ s.ncPage l.tid tia = false)) →
      ∃ u k, exec (.storeComplete g.ref ⟨f.fid, lanes⟩) s = .next u ∧ u.group? g.ref = some k ∧ Made g k f named ∧ k.qsets = g.qsets
        ∧ k.regs = g.regs
        ∧ (∀ c d o, o < 2 ^ 48 → d < 64 → u.peek c d o = if c = t.core ∧ d = l.tid then storedGlobal named o (s.peek c d o) else s.peek c d o)
        ∧ (∀ r, r ≠ g.ref → u.group? r = s.group? r) ∧ (∀ r m, u.team? r = some m → ∃ m', s.team? r = some m' ∧ m.spad = m'.spad)
        ∧ u.dram = s.dram ∧ u.hostMem = s.hostMem ∧ u.l2 = s.l2)
    -- one lane: a line without write permission; a release; a host window; a fabric window
    ∧ (∀ a, f.left = [a] → bit lanes a.lane = true → 0 < a.size →
      let made (p : State → Prop) : Prop := ∃ u k, exec (.storeComplete g.ref ⟨f.fid, lanes⟩) s = .next u ∧ u.group? g.ref = some k
        ∧ Gone g k f ∧ k.qsets = g.qsets ∧ k.regs = g.regs ∧ (∀ r, r ≠ g.ref → u.group? r = s.group? r) ∧ p u
      let byte (i : Nat) : Byte := (wordsBytes a.data).getD i 0
      (∀ va tia, a.target = .glob va tia → tia % 128 + a.size ≤ 128 → tia < 2 ^ 48 → s.bad = [] →
        (admits f.instr = true → s.viewAt l.tid a = false) → (a.size ≠ 16 ∨ s.ncPage l.tid tia = false) →
        let gl := gia l.tid tia / 128
        let inLine (data : BitVec 1024) (dirty : BitVec 128) : Prop := ∀ i, i < a.size →
          lineByte data (tia % 128 + i) = byte i ∧ dirty.getLsbD (tia % 128 + i) = true
        ∀ k, s.l2.find? (fun n => n.gline = gl) = some k → k.withheld = 0 →
          (plain → (∀ n, (s.coreOf t.core).l1? gl = some n → n.wp = false) →
            (k.wp = true → (s.frame k.stamp).damaged = false → made fun u => ∃ n, (u.coreOf t.core).l1? gl = some n ∧ n.wp = true
              ∧ n.stamp = k.stamp ∧ inLine n.data n.dirty)
            ∧ ∀ leaf, k.wp = false → (s.translate (glineTid gl) (glineTia gl)).2 = .ok leaf → leaf.host = false → leaf.nc = false →
              leaf.kind = 0 → leaf.w = true → (s.frame leaf.frame).damaged = false → made fun u => (∃ n, (u.coreOf t.core).l1? gl = some n
                ∧ n.wp = true ∧ n.stamp = leaf.frame ∧ inLine n.data n.dirty) ∧ (u.frame leaf.frame).dirty = true)
          ∧ (¬plain → k.wp = true → ((s.coreOf t.core).l1.map (·.gline)).Nodup → s.l2.length + (s.coreOf t.core).l1.length < 16 →
            (s.frame k.stamp).damaged = false → made fun u =>
            (∃ n, u.l2.find? (fun n => n.gline = gl) = some n ∧ inLine n.data n.dirty)
              ∧ ∀ n ∈ (u.coreOf t.core).l1, glineTid n.gline = l.tid → n.dirty = 0))
      ∧ (∀ va tia leaf, a.target = .host va tia → plain → a.size ≠ 16 → tia < 2 ^ 48 → tia % 128 + a.size ≤ 128 →
        (s.translate l.tid (glineTia (gia l.tid tia / 128))).2 = .ok leaf → leaf.host = true → leaf.kind = 0 → leaf.w = true →
        s.linkDown hostLink = false →
        let place := s.hostAddr l.tid leaf.frame (tia % 65536)
        made fun u => u.dram = s.dram ∧ ∀ o, u.hostMem.get o = if place ≤ o ∧ o < place + a.size then byte (o - place) else s.hostMem.get o)
      ∧ (∀ va pkg tia, a.target = .fabric va pkg tia → plain → a.size ≠ 16 → g.run ≠ .retired → f.trap = none →
        (∃ p ∈ fabricPorts, s.linkDown p = false) →
        (Config.fabricServes s.free = true → made fun u =>
          u.fabricOut = s.fabricOut ++ [(pkg, tia, (wordsBytes a.data).take a.size)] ∧ u.dram = s.dram ∧ u.hostMem = s.hostMem)
        ∧ (Config.fabricServes s.free = false → ∃ u, exec (.storeComplete g.ref ⟨f.fid, lanes⟩) s = .next u ∧ Unreached s u g f a va
          ∧ u.fabricOut = s.fabricOut)))

/-- R188 to R190: ATOMIC_PERFORM, one lane: the destination takes the old value, the memory the new one; on the scratchpad no other byte
changes. R164, R166, R188: on global memory it is performed at the home slice: the core's own dirty bytes of the line go there first, L2 holds
the new value, dirty, and the core's L1 nothing valid of the line.
Which lanes one step performs is open, and the event that names them the model's form (log entry 26). -/
def Obligations.AtomicPerform : Prop :=
  ∀ (s : State) (g : Group) (f : Flight) (t : Team) (l : Launch) (a : LaneAcc) (n : Nat) (lanes : W64), Turn s g f t l →
    isAtomic f.instr = true → f.left = [a] → bit lanes a.lane = true → s.team? t.ref = some t →
    PacerStays s t → n = 32 ∨ n = 64 ∧ atomicOp f.instr < 12 → a.size = n / 8 →
    a.data.length = n / 32 * (if atomicOp f.instr = 10 then 2 else 1) →
    let x : BitVec n := BitVec.ofNat n (leNat (wordsBytes (a.data.take (n / 32))))
    let y : BitVec n := BitVec.ofNat n (leNat (wordsBytes (a.data.drop (n / 32))))
    let new (old : BitVec n) : BitVec n := atomicValue n (atomicOp f.instr) old x y
    let lands (k : Group) (old : BitVec n) : Prop :=
      ((∃ sd sa sb op ord dw, f.instr = .satom sd sa sb op ord dw) → LandedScalar g k f (old.setWidth 64))
      ∧ ((∀ sd sa sb op ord dw, f.instr ≠ .satom sd sa sb op ord dw) → f.inLanes g →
        Landed g k f [a] fun _ => (List.range (n / 32)).map fun j => old.extractLsb' (32 * j) 32)
    (∀ o, a.target = .spad o → SpadWhole s t →
    let old : BitVec n := BitVec.ofNat n (leNat (t.spad.read o a.size))
    ∃ u k m, exec (.atomicPerform g.ref ⟨f.fid, lanes⟩) s = .next u ∧ u.group? g.ref = some k ∧ Gone g k f ∧ k.qsets = g.qsets
      ∧ u.team? t.ref = some m
      ∧ BitVec.ofNat n (leNat (m.spad.read o a.size)) = new old
      ∧ (∀ b, b < o ∨ o + a.size ≤ b → m.spad.get b = t.spad.get b) ∧ lands k old
      ∧ (∀ r, r ≠ t.ref → u.team? r = s.team? r) ∧ (∀ r, r ≠ g.ref → u.group? r = s.group? r)
      ∧ (atomicOrder f.instr = (false, false) → u.dram = s.dram ∧ u.hostMem = s.hostMem ∧ u.cores = s.cores ∧ u.l2 = s.l2))
    ∧ (∀ va tia h, a.target = .glob va tia → tia < 2 ^ 48 → tia % 128 + a.size ≤ 128 → (atomicOrder f.instr).1 = false →
      let gl := gia l.tid tia / 128
      let off := tia % 128
      s.l2.find? (fun m => m.gline = gl) = some h → h.withheld = 0 → h.wp = true →
      let byte (i : Nat) : Byte := match (s.coreOf t.core).l1? gl with
        | some m => if m.dirty.getLsbD (off + i) then lineByte m.data (off + i) else lineByte h.data (off + i)
        | none => lineByte h.data (off + i)
      let old : BitVec n := BitVec.ofNat n (leNat ((List.range a.size).map byte))
      ∃ u k m, exec (.atomicPerform g.ref ⟨f.fid, lanes⟩) s = .next u ∧ u.group? g.ref = some k ∧ Gone g k f ∧ k.qsets = g.qsets
        ∧ lands k old
        ∧ u.l2.find? (fun m => m.gline = gl) = some m
        ∧ BitVec.ofNat n (leNat ((List.range a.size).map fun i => lineByte m.data (off + i))) = new old
        ∧ (∀ i, i < a.size → m.dirty.getLsbD (off + i) = true)
        ∧ (∀ i, i < 128 → i < off ∨ off + a.size ≤ i → (∀ m, (s.coreOf t.core).l1? gl = some m → m.dirty = 0) →
          lineByte m.data i = lineByte h.data i)
        ∧ (∀ m ∈ (u.coreOf t.core).l1, m.gline = gl → m.valid = 0 ∧ m.lock ≠ 0)
        ∧ (∀ r, r ≠ g.ref → u.group? r = s.group? r) ∧ TeamAside s u t ∧ u.dram = s.dram ∧ u.hostMem = s.hostMem)

/-- R169, R191 to R194: the fences and MOFENCE hold their quad-set until what they name of the group has completed; then, at dev and sys
scope, the tenant's lines in the core's L1 are written back (FENCE, FENCE.REL) and lose what is valid (FENCE, FENCE.ACQ). FENCE.LT marks the
accesses issued so far and holds nothing. Registers stay. R139: FBAR drops every line of the context from the issuing core's instruction
cache, and keeps those of other contexts.
That a fence waits for what was issued before it first issued is the model's reading (log entry 83). -/
def Obligations.FencesAndBarrier : Prop :=
  (∀ (s : State) (x : Iss), ((s.coreOf x.t.core).l1.map (·.gline)).Nodup → x.q.hold = none →
     (∀ (i : Instr) (scope : BitVec 2) (rel acq : Bool) (p : Flight → Bool),
       (i = .fence scope ∧ rel = true ∧ acq = true ∧ p = Flight.accesses
         ∨ i = .fenceAcq scope ∧ rel = false ∧ acq = true ∧ p = Flight.reads
         ∨ i = .fenceRel scope ∧ rel = true ∧ acq = false ∧ p = Flight.accesses
         ∨ i = .mofence ∧ rel = false ∧ acq = false ∧ scope = 1 ∧ p = mofenceWaits) → Issues s x i →
       ((∃ f ∈ x.g.flights, f.fid < s.next ∧ p f = true) → Waits i s x (.drain s.next) false)
       ∧ ((∀ f ∈ x.g.flights, f.fid < s.next → p f = false) → ∃ t g, exec i s = .next t ∧ t.group? x.g.ref = some g
         ∧ g = x.now.modQ x.q.tag QSet.advance ∧ (∀ r, r ≠ x.g.ref → t.group? r = s.group? r)
         ∧ (scope = 1 → { t with groups := s.groups, free := s.free } = s)
         ∧ (2 ≤ scope.toNat → ∀ k ∈ (t.coreOf x.t.core).l1, glineTid k.gline = x.l.tid →
           (rel = true → k.dirty = 0)
           ∧ (acq = true → ∀ w, w < 32 → k.valid.getLsbD w = true → ∀ b, b < 4 → k.dirty.getLsbD (4 * w + b) = true))))
     ∧ (Issues s x .fenceLt → Becomes .fenceLt s x ({ x.now.modQ x.q.tag QSet.advance with ltMark := s.next }))
     ∧ (∀ scope : BitVec 2, Issues s x (.fenceHv scope) →
       let mine := ∃ f ∈ x.g.flights, f.fid < s.next ∧ f.accesses = true
       let theirs := ∃ k ∈ s.groups, k.ref ≠ x.g.ref ∧ ∃ t l, s.homeOf k = some (t, l) ∧ l.tid = x.l.tid ∧ (scope = 1 → t.core = x.t.core)
         ∧ ∃ f ∈ k.unfinished, f.fid < k.ltMark ∧ f.accesses = true
       (mine ∨ theirs → Waits (.fenceHv scope) s x (.drain s.next) false)
       ∧ (¬mine → ¬theirs → scope = 1 → GoesOn (.fenceHv scope) s x)
       ∧ (¬mine → ¬theirs → 2 ≤ scope.toNat → ∃ t, exec (.fenceHv scope) s = .next t
         ∧ t.group? x.g.ref = some (x.now.modQ x.q.tag QSet.advance)
         ∧ ((∀ c, ((s.coreOf c).l1.map (·.gline)).Nodup) → ∀ c, ∀ k ∈ (t.coreOf c).l1, glineTid k.gline = x.l.tid → k.dirty = 0 ∧ k.valid = 0))))
  ∧ ∀ (s : State) (x : Iss), Issues s x .fbar → ∃ t g, exec .fbar s = .next t ∧ t.group? x.g.ref = some g
      ∧ g = x.now.modQ x.q.tag QSet.advance
      ∧ (∀ l, l ∈ (t.coreOf x.t.core).ic ↔ l ∈ (s.coreOf x.t.core).ic ∧ l.cid ≠ x.l.cid)
      ∧ (∀ c, c ≠ x.t.core → t.coreOf c = s.coreOf c)
      ∧ { t.coreOf x.t.core with ic := (s.coreOf x.t.core).ic } = s.coreOf x.t.core
      ∧ (∀ r, r ≠ x.g.ref → t.group? r = s.group? r)
      ∧ { t with groups := s.groups, free := s.free, cores := s.cores } = s

/-- R22, R167, R175, R187: CACHE_OPERATION_COMPLETE on the line of an ordinary segment: CUNLK clears the context's lock, CINV leaves no such
line in the L1, CWB leaves it clean, PREF completes whatever happens; CLOCK writes its status: 0 for a line that the context holds locked
already and for one that it locks now, which is then whole in the L1, 1 at the context's quota, 2 in a set with four locked lines, 3 for an
uncacheable page and outside the ordinary segments.
That a refused one reports as a load of a byte is the model's reading (log entry 94), and so is which of 0 and 2 a line gets that another
context holds locked (126). -/
def Obligations.CacheOperations : Prop :=
  ∀ (s : State) (g : Group) (f : Flight) (t : Team) (l : Launch) (a : LaneAcc), Turn s g f t l → f.left = [a] →
    let run (u : State) (k : Group) : Prop := exec (.cacheOperationComplete g.ref f.fid) s = .next u ∧ u.group? g.ref = some k ∧ Gone g k f
      ∧ k.qsets = g.qsets ∧ ∀ r, r ≠ g.ref → u.group? r = s.group? r
    (∀ va tia, a.target = .glob va tia →
      let gl := gia l.tid tia / 128
      (∀ sa, f.instr = .cunlk sa → ∃ u k, run u k ∧ k.regs = g.regs
        ∧ (∀ n ∈ (u.coreOf t.core).l1, n.gline = gl → n.lock.getLsbD (l.cid % 4) = false)
        ∧ (u.coreOf t.core).l1.map (fun n => { n with lock := 0 }) = (s.coreOf t.core).l1.map fun n => { n with lock := 0 })
      ∧ (∀ sa, f.instr = .cinv sa → ∃ u k, run u k ∧ k.regs = g.regs ∧ ∀ n ∈ (u.coreOf t.core).l1, n.gline ≠ gl)
      ∧ (∀ sa, f.instr = .cwb sa → ∃ u k, run u k ∧ k.regs = g.regs
        ∧ (((s.coreOf t.core).l1.map (·.gline)).Nodup → ∀ n ∈ (u.coreOf t.core).l1, n.gline = gl → n.dirty = 0))
      ∧ (∀ sa l2only, f.instr = .pref sa l2only → ∃ u k, run u k ∧ k.regs = g.regs)
      ∧ (∀ sd sa n, f.instr = .clock sd sa → (s.coreOf t.core).l1? gl = some n → n.lock.getLsbD (l.cid % 4) = true →
        ∃ u k, run u k ∧ LandedScalar g k f 0)
      ∧ ∀ sd sa, f.instr = .clock sd sa →
        let answers (v : W64) (p : State → Prop) : Prop := ∃ u k, run u k ∧ LandedScalar g k f v ∧ p u
        let mine := ((s.coreOf t.core).l1.filter fun n => glineTid n.gline = l.cid / 4 ∧ n.lock.getLsbD (l.cid % 4) = true).length
        let inSet := ((s.coreOf t.core).l1.filter fun n => n.gline % 128 = gl % 128 ∧ n.lock ≠ 0).length
        (∀ leaf, (s.coreOf t.core).l1? gl = none → (∀ m ∈ s.l2, m.gline ≠ gl) → (s.translate (glineTid gl) (glineTia gl)).2 = .ok leaf →
          leaf.host = false → leaf.nc = true → answers 3 fun _ => True)
        ∧ ∀ bs, HeldInL1 s t.core gl 0 128 bs ∨ (s.coreOf t.core).l1? gl = none ∧ HeldInL2 s gl 0 128 bs ∧ s.bad = []
            ∧ (∀ m, s.l2.find? (fun m => m.gline = gl) = some m → (s.frame m.stamp).damaged = false) →
          (∀ n, (s.coreOf t.core).l1? gl = some n → n.lock.getLsbD (l.cid % 4) = false) →
          ((s.ctx l.cid).lockq ≤ mine → answers 1 fun _ => True)
          ∧ (mine < (s.ctx l.cid).lockq → 4 ≤ inSet → (∀ n, (s.coreOf t.core).l1? gl = some n → n.lock = 0) → answers 2 fun _ => True)
          ∧ (mine < (s.ctx l.cid).lockq → inSet < 4 ∨ (∃ n, (s.coreOf t.core).l1? gl = some n ∧ n.lock ≠ 0) → answers 0 fun u =>
            ∃ n, (u.coreOf t.core).l1? gl = some n ∧ n.lock.getLsbD (l.cid % 4) = true ∧ n.valid = BitVec.allOnes 32
              ∧ ∀ i, i < 128 → lineByte n.data i = bs.getD i 0))
    ∧ (∀ o, a.target = .spad o →
      (∀ sd sa, f.instr = .clock sd sa → ∃ u k, run u k ∧ LandedScalar g k f 3)
      ∧ (∀ sa, f.instr = .cunlk sa ∨ f.instr = .cinv sa ∨ f.instr = .cwb sa ∨ (∃ b, f.instr = .pref sa b) → ∃ u k, run u k ∧ k.regs = g.regs))

/-! ## Operands, special registers, division -/

/-- R8, R10, R25, R26: outside a handler, and where nothing in flight has them as its destination, registers read as they are held; s0 reads
0 and m0 all ones; EXEC holds the lanes of the issuing set below the width that are live, not dead, and set in the mask. A lane register
at or above the declared count has no name. -/
def Obligations.OperandReads : Prop :=
  ∀ (s : State) (x : Iss), s.iss = some x → x.g.hlevel = 0 → x.g.busy = [] →
    (∀ n : BitVec 7, n.toNat < x.g.nregs → ∀ l, x.r n l = x.g.lane n.toNat l)
    ∧ (∀ n : BitVec 7, x.g.nregs ≤ n.toNat → x.g.span 1 1 n.toNat = none)
    ∧ (x.q.hold = none → ∀ n : BitVec 6, n.toNat < 56 ∨ x.g.trap.mode = none →
      x.s n.toNat = if n = 0 then 0 else tget 0 x.g.regs.scal n.toNat)
    ∧ (x.q.hold = none → ∀ n : BitVec 6, 56 ≤ n.toNat → x.g.trap.mode.isSome = true → x.s n.toNat = tget 0 x.g.regs.scal (n.toNat + 24))
    -- R115: what an instruction that waits has read as it issued
    ∧ (∀ h e, x.q.hold = some h → h.opnds.find? (fun k => k.1 = e.1) = some e → x.s e.1 = e.2)
    ∧ (∀ m l, l < 64 → (bit (x.exec m) l = true ↔ bit x.g.regs.live l = true ∧ bit x.g.regs.dead l = false ∧ l < x.g.width
      ∧ x.q.quads.getLsbD (l / 4) = true ∧ (m = 0 ∨ bit (tget 0 x.g.regs.masks m) l = true)))

/-- R27, R122: SGET writes the special register, zero-extended, to sd and nothing else.
%gid as numbered here is the model's reading (log entry 57). -/
def Obligations.SpecialRead : Prop :=
  ∀ (s : State) (x : Iss) (sd : BitVec 6) (n : BitVec 12) (v : W64), Issues s x (.sget sd n) →
    let nat (k : Nat) : W64 := BitVec.ofNat 64 k
    let c := s.ctx x.l.cid
    ((n, v) ∈ [(0x000#12, nat x.g.gid), (0x001#12, nat x.t.idx), (0x002#12, nat x.l.handle), (0x003#12, nat x.t.core),
        (0x004#12, nat (x.t.core / 12)), (0x005#12, nat x.g.width), (0x006#12, nat x.l.depth), (0x007#12, nat x.l.tid),
        (0x008#12, x.g.regs.live), (0x009#12, x.g.regs.dead), (0x00A#12, x.q.quads.setWidth 64), (0x010#12, x.q.fmt),
        (0x011#12, x.g.regs.fpstat.setWidth 64), (0x012#12, x.g.regs.cc.setWidth 64), (0x020#12, if x.g.preq then 1 else 0),
        (0x021#12, nat x.g.pleft), (0x028#12, nat (x.g.batch.sealed.length + 16 * x.g.batch.next.toNat + if x.g.batch.openHas then 256 else 0)),
        (0x029#12, nat (x.g.batch.fail.toNat + (if x.g.batch.armf then 2 ^ 16 else 0) + 2 ^ 24 * x.g.batch.reason.toNat)),
        (0x02A#12, x.g.regs.opc), (0x030#12, (s.coreOf x.t.core).clk), (0x031#12, x.g.regs.waitlim.setWidth 64), (0x032#12, nat c.lockq),
        (0x040#12, x.g.emu.cur.ecause), (0x041#12, x.g.emu.cur.eword), (0x042#12, x.g.emu.cur.epc), (0x043#12, x.g.emu.cur.emask),
        (0x044#12, x.g.emu.cur.w0), (0x045#12, x.g.emu.cur.w1), (0x046#12, x.g.emu.cur.w2), (0x047#12, x.g.emu.cur.w3),
        (0x048#12, nat x.g.emu.level), (0x050#12, x.g.trap.tcause), (0x051#12, x.g.trap.tpc), (0x052#12, x.g.trap.taddr),
        (0x053#12, x.g.trap.tdetail), (0x060#12, c.eha), (0x061#12, c.trh), (0x062#12, x.l.feat), (0x063#12, c.ems),
        (0x070#12, nat ((x.l.ranges.map (·.2)).sum - x.l.cursor))]
      ∨ (∃ p, x.t.pacer = some p ∧ (n, v) ∈ [(0x018#12, p.step.setWidth 64), (0x019#12, p.fin.setWidth 64), (0x01A#12, nat p.index)])
      ∨ (∃ k, k < 64 ∧ n = BitVec.ofNat 12 (0x100 + k) ∧ v = if k % 4 = 1 then tget 0 c.segs k ||| 0xFFFF else tget 0 c.segs k)) →
    Completes (.sget sd n) s x { scal := some (x.g.scalNo sd.toNat, v) }

/-- R80, R123: the divisions are in flight with their operands as read at issue, SB7, and the lookahead of the word; VFDIV without an
executing lane goes on at once. R10, R57, R80, R123: DIVIDE_COMPLETE. A zero divisor gives all ones and the dividend; the most negative
number over −1 gives itself and 0; the quotient truncates towards zero and the remainder has the sign of the dividend; .W forms sign-extend.
VFDIV's quotients land in the lanes that are not dead, with their flags. -/
def Obligations.Division : Prop :=
  (∀ (s : State) (x : Iss),
     (∀ (i : Instr) (sd sa sb : BitVec 6) (la : BitVec 4) (wd : BitVec 1),
       i ∈ [.sdiv sd sa sb la wd, .sdivu sd sa sb la wd, .srem sd sa sb la wd, .sremu sd sa sb la wd] → Issues s x i →
       ∃ t g f, exec i s = .next t ∧ InFlight i s t x g f ∧ f.opnds = [x.s sa.toNat, x.s sb.toNat] ∧ f.look = la.toNat ∧ f.slot = 7
         ∧ f.ndst = (if sd = 0 then 0 else 1) ∧ f.file = .scalar ∧ f.dst = x.g.scalNo sd.toNat)
     ∧ (∀ (vd va vb : BitVec 7) (m : BitVec 2) (f64 det : BitVec 1), let i := Instr.vfdiv vd va vb m f64 det
       Issues s x i → let ex := x.exec m.toNat
       let n := if f64 = 1 then 2 else 1
       (ex = 0 → GoesOn i s x)
       ∧ (ex ≠ 0 → ∃ t g f, exec i s = .next t ∧ InFlight i s t x g f ∧ f.exec = ex ∧ f.look = (if det = 1 then 15 else 0) ∧ f.slot = 7
         ∧ f.accs.map (·.lane) = (List.range 64).filter (fun l => bit ex l)
         ∧ (∀ a ∈ f.accs, a.data = (List.range n).map (fun j => x.v (x.op n va.toNat) j a.lane)
           ++ (List.range n).map fun j => x.v (x.op n vb.toNat) j a.lane)
         ∧ (x.g.hlevel = 0 → f.file = .lane ∧ f.dst = vd.toNat ∧ f.ndst = n))))
  ∧ ∀ (s : State) (g : Group) (f : Flight), s.group? g.ref = some g → g.flight? f.fid = some f → (∀ b ∈ g.busy, b.fid = f.fid → b.hit = 0) →
      let run (u : State) (k : Group) : Prop := exec (.divideComplete g.ref f.fid) s = .next u ∧ u.group? g.ref = some k ∧ Gone g k f
        ∧ k.qsets = g.qsets ∧ (∀ r, r ≠ g.ref → u.group? r = s.group? r) ∧ { u with groups := s.groups, free := s.free } = s
      (∀ (sd sa sb : BitVec 6) (la : BitVec 4) (wd : BitVec 1) (a b : W64), f.opnds = [a, b] →
        let a' : W32 := a.setWidth 32
        let b' : W32 := b.setWidth 32
        let pick (r64 : W64) (r32 : W32) : W64 := if wd = 1 then r32.signExtend 64 else r64
        (f.instr = .sdiv sd sa sb la wd → ∃ u k, run u k ∧ LandedScalar g k f
          (pick (if b = 0 then BitVec.allOnes 64 else a.sdiv b) (if b' = 0 then BitVec.allOnes 32 else a'.sdiv b')))
        ∧ (f.instr = .sdivu sd sa sb la wd → ∃ u k, run u k ∧ LandedScalar g k f
          (pick (if b = 0 then BitVec.allOnes 64 else a.udiv b) (if b' = 0 then BitVec.allOnes 32 else a'.udiv b')))
        ∧ (f.instr = .srem sd sa sb la wd → ∃ u k, run u k ∧ LandedScalar g k f
          (pick (if b = 0 then a else a.srem b) (if b' = 0 then a' else a'.srem b')))
        ∧ (f.instr = .sremu sd sa sb la wd → ∃ u k, run u k ∧ LandedScalar g k f
          (pick (if b = 0 then a else a.umod b) (if b' = 0 then a' else a'.umod b'))))
      ∧ (∀ (vd va vb : BitVec 7) (m : BitVec 2) (f64 det : BitVec 1), f.instr = .vfdiv vd va vb m f64 det → f.inLanes g →
        (f.accs.map (·.lane)).Nodup → (∀ a ∈ f.accs, a.lane < 64 ∧ a.data.length = if f64 = 1 then 4 else 2) →
        f.ndst = (if f64 = 1 then 2 else 1) →
        let rm := ((f.fmt.extractLsb' 15 2).toNat)
        let q (a : LaneAcc) : Nat × BitVec 5 := if f64 = 1
          then fdiv fF64 rm (a.data.getD 1 0 ++ a.data.getD 0 0).toNat (a.data.getD 3 0 ++ a.data.getD 2 0).toNat
          else fdiv fF32 rm (a.data.getD 0 0).toNat (a.data.getD 1 0).toNat
        ∃ u k, run u k
          ∧ (∀ r l, l < 64 → k.lane r l = match f.accs.find? fun a => a.lane = l with
            | some a => if f.dst ≤ r ∧ r < f.dst + f.ndst ∧ bit g.regs.dead l = false then BitVec.ofNat 32 ((q a).1 / 2 ^ (32 * (r - f.dst)))
              else g.lane r l
            | none => g.lane r l)
          ∧ (∀ j, j < 5 → (k.regs.fpstat.getLsbD j = true ↔ g.regs.fpstat.getLsbD j = true
            ∨ ∃ a ∈ f.accs, bit g.regs.dead a.lane = false ∧ (q a).2.getLsbD j = true)))

/-! ## The matrix engine -/

/-- R217, R218, R231, R233 to R236: a matrix operation whose formats, registers, layout word and B descriptor pass their checks. Without an
acting lane it counts in %opc and is over; otherwise it is in flight in SB5 with its accumulators and A rows as at issue. An MMS waits for
the group's own table writes, whose metadata it checks.
That wait is the model's reading (log entry 36). -/
def Obligations.MatrixIssue : Prop :=
  ∀ (s : State) (x : Iss) (i : Instr) (mms : Bool) (vc : BitVec 7) (sA : Option (BitVec 5)) (va : BitVec 7) (sB : BitVec 5) (zero : BitVec 1)
    (la : BitVec 4),
    ((∃ a, sA = some a ∧ i = if mms then .mms vc a sB zero la else .mma vc a sB zero la)
      ∨ sA = none ∧ i = if mms then .mmsR vc va sB zero la else .mmaR vc va sB zero la) → Issues s x i → x.q.hold = none →
    let bd := x.s sB.toNat
    let o := mop mms x.q.fmt bd
    let ex := x.exec 0
    let accs := if o.cf = 0x00 ∨ o.cf = 0x1F then 32 else 16
    let width := if mms then 32 else 16
    matrixAcc o.af o.bf (x.q.fmt.getLsbD 18) = some o.cf → (mms = true → isCplxFmt o.af = false) → x.g.hlevel = 0 → x.g.nregs ≤ 128 →
    (vc.toNat % 8 = 0 ∧ vc.toNat + accs ≤ x.g.nregs) → (sA = none → va.toNat % 8 = 0 ∧ va.toNat + width ≤ x.g.nregs) →
    (∀ n ∈ [1, 2, 7], featOn x.l.feat n = true) →
    (mms = true → (∃ f ∈ x.g.flights, isTableOp f.instr = true) → Waits i s x .cond false)
    ∧ ((mms = true → ∀ f ∈ x.g.flights, isTableOp f.instr = false) →
      (∀ a, sA = some a → layoutCheck o x.t (x.s a.toNat) ex = none) →
      descriptorCheck o (x.t.tableSet x.g.part) (fun a => s.bad.contains (9, whereTable x.t.core x.g.part 1 a)) bd ex = none →
      (ex = 0 → Becomes i s x (({ x.now with regs := { x.g.regs with opc := x.g.regs.opc + 1 } } : Group).modQ x.q.tag QSet.advance))
      ∧ (ex ≠ 0 → ∃ t g f, exec i s = .next t ∧ InFlight i s t x g f ∧ f.exec = ex ∧ f.look = la.toNat ∧ f.slot = 5
        ∧ f.file = .lane ∧ f.dst = vc.toNat ∧ f.ndst = accs ∧ f.opnds.head? = some bd
        ∧ (∀ a, sA = some a → f.opnds = [bd, x.s a.toNat])
        ∧ (∀ l j, bit ex l = true → j < accs → zero = 0 → tget 0 f.snap (64 * (32 + j) + l) = x.r (vc + BitVec.ofNat 7 j) l)
        ∧ (sA = none → ∀ l j, bit ex l = true → j < width → tget 0 f.snap (64 * j + l) = x.r (va + BitVec.ofNat 7 j) l)))

/-- R220, R223, R224, R233: the checks of a layout-form MMA or MMS in their order, with the trap that each raises: 2 and 3 for the layout word,
4 for a byte beyond the allocation, 5 for a tag, 6 to 9 for the descriptor, whose SPOFF an MMA ignores (R237), 10 for a nibble in words
that pass their check. The first that fails decides.
That checks 7 to 10 concern acting quarters alone is the model's reading (log entry 37). -/
def Obligations.MatrixChecks : Prop :=
  ∀ (s : State) (x : Iss) (i : Instr) (mms : Bool) (vc : BitVec 7) (sA sB : BitVec 5) (zero : BitVec 1) (la : BitVec 4),
    (i = if mms then .mms vc sA sB zero la else .mma vc sA sB zero la) → Issues s x i →
    let lw := x.s sA.toNat
    let bd := x.s sB.toNat
    let o := mop mms x.q.fmt bd
    let offs := aOffsets o lw (x.exec 0)
    let set := x.t.tableSet x.g.part
    let f (w : W64) (lo n : Nat) : Nat := (w.extractLsb' lo n).toNat
    matrixUndef mms vc.toNat none sB.toNat x s = false → (∀ n ∈ [1, 2, 7], featOn x.l.feat n = true) →
    (mms = true → ∀ k ∈ x.g.flights, isTableOp k.instr = false) →
    let c2 := f lw 40 24 ≠ 0 ∨ f lw 0 20 % 16 ≠ 0 ∨ f lw 20 16 % 16 ≠ 0
    let c3 := lw.getLsbD 36 = true ∧ mContainer o.af < 8
    let c4 := ∃ a ∈ offs, x.t.spadBytes ≤ a
    let c5 := ∃ a ∈ offs, (tget 0 x.t.tags (a / 2048)).toNat ≠ f lw 37 3
    let c6 := f bd 53 11 ≠ 0 ∨ bd.getLsbD 23 = true ∨ f bd 0 18 % 64 ≠ 0 ∨ mms = true ∧ f bd 24 14 % 8 ≠ 0
    let acts := x.exec 0 ≠ 0
    let c7 := acts ∧ 262144 < f bd 0 18 + o.tileBytes
    let c8 := acts ∧ isZFmt o.bf = true ∧ 4096 < f bd 38 12 + 16 * o.blocks
    let c9 := acts ∧ mms = true ∧ 16384 < f bd 24 14 + 2 * o.k
    (c2 → Traps i s x 6 0 2)
    ∧ (¬c2 → c3 → Traps i s x 6 0 3)
    ∧ (¬c2 → ¬c3 → c4 → ∃ a ∈ offs, x.t.spadBytes ≤ a ∧ (∀ b ∈ offs, x.t.spadBytes ≤ b → a ≤ b) ∧ Traps i s x 5 (BitVec.ofNat 64 a) 0x300)
    ∧ (¬c2 → ¬c3 → ¬c4 → c5 → ∃ a ∈ offs, (tget 0 x.t.tags (a / 2048)).toNat ≠ f lw 37 3
      ∧ (∀ b ∈ offs, (tget 0 x.t.tags (b / 2048)).toNat ≠ f lw 37 3 → a / 2048 ≤ b / 2048)
      ∧ Traps i s x 6 (BitVec.ofNat 64 (2048 * (a / 2048))) 1)
    ∧ (¬c2 → ¬c3 → ¬c4 → ¬c5 →
      (c6 → Traps i s x 6 0 4) ∧ (¬c6 → c7 → Traps i s x 6 0 5) ∧ (¬c6 → ¬c7 → c8 → Traps i s x 6 0 6)
      ∧ (¬c6 → ¬c7 → ¬c8 → c9 → Traps i s x 6 0 7)
      ∧ (¬c6 → ¬c7 → ¬c8 → ¬c9 → acts → mms = true → (∀ p, (9, p) ∉ s.bad) → ∀ g n, g < o.k / 4 → n < 16 →
        let bad (g n : Nat) : Prop := onesBelow (nibble set.side (f bd 24 14) g n) 4 ≠ 2
        bad g n → (∀ g' n', n' < 16 → 16 * g' + n' < 16 * g + n → ¬bad g' n') →
        Traps i s x 14 (BitVec.ofNat 64 (f bd 24 14 + 8 * g)) (BitVec.ofNat 64 n)))

/-- R48, R50, R61, R225 to R227, R231, R236: MATRIX_OPERANDS_CONSUMED. Column n of an executing lane will be its accumulator with the products
of A row element k and B element (k, n) added, chunk by chunk: over integers their sum modulo 2³², or with SAT clamped after each chunk of 8;
over floating formats one rounding for each chunk of 8, for F64 for each product; over block-scaled formats one for each block of 32, whose
exact sum is scaled; over complex formats one for the real and one for the imaginary terms of a chunk. B element (k, n) of an MMS is that of the
tile's stored row which the metadata names, and pruned elements are +0. The operation counts in %opc, and no
register that software sees as a lane register changes yet. R10, R231, R236: MATRIX_RESULT_WRITTEN writes what was formed to the
accumulators of the executing lanes that are not dead, and completes the operation.
The signs of exact zeros are the model's readings (log entries 35, 112), and a free value stands for an A row that was written meanwhile. -/
def Obligations.MatrixWork : Prop :=
  (∀ (s : State) (g : Group) (f : Flight) (t : Team) (l : Launch), s.flightAt g.ref f.fid = some (g, f, t, l) → consumeDue s g.ref f.fid = true →
     s.bad = [] → t.lost = [] → PacerStays s t →
     let bd := f.opnds.headD 0
     let o := mop (isMms f.instr) f.fmt bd
     let set := t.tableSet g.part
     ∃ u k e, exec (.matrixOperandsConsumed g.ref f.fid) s = .next u ∧ u.group? g.ref = some k ∧ k.flight? f.fid = some e
       ∧ e.consumed = true ∧ { e with consumed := f.consumed, snap := f.snap } = f ∧ k.regs = { g.regs with opc := g.regs.opc + 1 }
       ∧ k.qsets = g.qsets ∧ k.flights.map (·.fid) = g.flights.map (·.fid)
       ∧ (∀ r, r ≠ g.ref → u.group? r = s.group? r) ∧ TeamAside s u t ∧ { u with groups := s.groups, teams := s.teams, free := s.free } = s
       ∧ ∀ lane n, lane < 64 → bit f.exec lane = true → n < 16 →
           let a (j : Nat) : MElem := mdec o.af (aRow f o t s.free lane / 2 ^ (mContainer o.af * j) % 2 ^ mContainer o.af)
           let row (r j : Nat) : MElem := bElem o set ((bd.extractLsb' 38 12).toNat) (tileCode o (o.tile set bd) r n) j n
           let meta' (j : Nat) : Nat := nibble set.side (bd.extractLsb' 24 14).toNat (j / 4) n
           let b (j : Nat) : Option MElem := if o.mms = false then some (row j j)
             else if (meta' j).testBit (j % 4) then some (row (2 * (j / 4) + (List.range (j % 4)).countP (meta' j).testBit) j) else none
           let int (j : Nat) : Int := match b j with | some e => (a j).i * e.i | none => 0
           let sum (p : Nat → Int) (from' len : Nat) : Int := ((List.range len).map fun i => p (from' + i)).sum
           let chunk (p : Nat → List FVal) (q : Nat) : FVal := chunkSum ((List.range 8).flatMap fun i => p (8 * q + i))
           let rm := (f.fmt.extractLsb' 15 2).toNat
           let sat := f.fmt.getLsbD 17
           let c0 := accOf f o lane n
           let word (i : Nat) : W32 := tget 0 e.snap (64 * i + lane)
           let runs (c : Nat → Nat) (first steps : Nat) (next : Nat → Nat → Nat) : Prop := c 0 = first ∧ ∀ q, q < steps → c (q + 1) = next q (c q)
           (o.cf = 0x0C → sat = false → word n = BitVec.ofInt 32 ((c0 : Int) + sum int 0 o.k))
           ∧ (o.cf = 0x0C → sat = true → ∃ c : Nat → Int, c 0 = (BitVec.ofNat 32 c0).toInt
             ∧ (∀ q, q < o.k / 8 → c (q + 1) = max (-2 ^ 31) (min (2 ^ 31 - 1) (c q + sum int (8 * q) 8))) ∧ word n = BitVec.ofInt 32 (c (o.k / 8)))
           ∧ (o.cf = 0x01 → f.fmt.getLsbD 18 = false → ∃ c, runs c c0 (o.k / 8) (fun q v => maccum fF32 rm v (chunk (fun j => [mprod (a j, b j)]) q))
             ∧ word n = BitVec.ofNat 32 (c (o.k / 8)))
           ∧ (o.cf = 0x01 → f.fmt.getLsbD 18 = true →
             let scale (q : Nat) : FVal := fdec fBF16 (leNat (set.zero.read (4 * ((bd.extractLsb' 38 12).toNat + 16 * q + n) + 2) 2))
             ∃ c, runs c c0 ((o.k + 31) / 32) (fun q v => maccum fF32 rm v (fmulV (scale q) (MElem.int (sum int (32 * q) (min 32 (o.k - 32 * q)))).f).1)
               ∧ word n = BitVec.ofNat 32 (c ((o.k + 31) / 32)))
           ∧ (o.cf = 0x00 → ∃ c, runs c c0 o.k (fun j v => maccum fF64 rm v (mprod (a j, b j)))
             ∧ word (2 * n) = BitVec.ofNat 32 (c o.k) ∧ word (2 * n + 1) = BitVec.ofNat 32 (c o.k / 2 ^ 32))
           ∧ (o.cf = 0x1F →
             let re (j : Nat) : List FVal := match b j with | some e => [(fmulV (a j).f e.f).1, fneg (fmulV (a j).im e.im).1] | none => [.fin false 0 0]
             let im (j : Nat) : List FVal := match b j with | some e => [(fmulV (a j).f e.im).1, (fmulV (a j).im e.f).1] | none => [.fin false 0 0]
             ∃ c d, runs c (c0 % 2 ^ 32) (o.k / 8) (fun q v => maccum fF32 rm v (chunk re q))
               ∧ runs d (c0 / 2 ^ 32) (o.k / 8) (fun q v => maccum fF32 rm v (chunk im q))
               ∧ word (2 * n) = BitVec.ofNat 32 (c (o.k / 8)) ∧ word (2 * n + 1) = BitVec.ofNat 32 (d (o.k / 8))))
  ∧ ∀ (s : State) (g : Group) (f : Flight), s.group? g.ref = some g → g.flight? f.fid = some f → isMatrixOp f.instr = true → f.consumed = true →
      (∀ e ∈ g.before f.fid, isMatrixOp e.instr = false) → (∀ b ∈ g.busy, b.fid = f.fid → b.hit = 0) → f.inLanes g →
      ∃ u k, exec (.matrixResultWritten g.ref f.fid) s = .next u ∧ u.group? g.ref = some k ∧ Gone g k f ∧ k.qsets = g.qsets
        ∧ (∀ r n, n < 64 → k.lane r n = if bit f.exec n = true ∧ bit g.regs.dead n = false ∧ f.dst ≤ r ∧ r < f.dst + f.ndst
          then tget 0 f.snap (64 * (r - f.dst) + n) else g.lane r n)
        ∧ { k.regs with lanes := g.regs.lanes } = g.regs
        ∧ (∀ r, r ≠ g.ref → u.group? r = s.group? r) ∧ { u with groups := s.groups, free := s.free } = s

/-- R228, R240 to R245: the matrix-support loads and MZERO are in flight in SB5 with their two words, or over at once without a byte to load.
R244: a load's checks in their order, the first that fails deciding: 8, 9 and 10 for its words, PERM, LEASE and PERM again for a global source
at its lowest failing byte, the bounds of the scratchpad, the alignment of ADDR, and the tag of a scratchpad block. TABLE_SET_SWITCH gives the partition to the team; TABLE_LOAD_WRITE writes the bytes of a source in the scratchpad, taken through its span,
to the array at its place and nothing else of the tables, and MZERO's clears them.
That upper bits of a scratchpad's ADDR count as reserved and that a bound reports the offset are the model's readings (log entries 38, 39). -/
def Obligations.TableLoads : Prop :=
  (∀ (s : State) (x : Iss) (sa sb : BitVec 5) (la : BitVec 4) (i : Instr) (arr : Nat),
    (i, arr) ∈ [(.wbload sa sb la, 0), (.spload sa sb la, 1), (.cbload sa sb la, 2), (.zpload sa sb la, 3)] → Issues s x i →
    let src := x.s sa.toNat
    let dst := x.s sb.toNat
    let c := s.ctx x.l.cid
    let len := (dst.extractLsb' 32 19).toNat
    let at' := (dst.extractLsb' 0 19).toNat
    let a := (src.extractLsb' 0 48).toNat
    let span := (src.extractLsb' 60 3).toNat
    let sp := src.getLsbD 63
    let grain := match arr with | 0 => 64 | 1 => 8 | 2 => 2 | _ => 4
    let bytes := match arr with | 0 => 262144 | 1 => 16384 | 2 => 256 | _ => 16384
    let reads (v : Nat) : Prop := a ≤ v ∧ v < a + len
    let off (v : Nat) : Option Nat := if sp then some v else match c.place v with | some (_, .spad o) => some o | _ => none
    let c2 := src.extractLsb' 48 12 ≠ 0 ∨ (sp = false ∧ span ≠ 0) ∨ (sp = true ∧ 2 ^ 32 ≤ a) ∨ dst.extractLsb' 51 13 ≠ 0 ∨ dst.extractLsb' 19 13 ≠ 0
    let c3 := at' % grain ≠ 0 ∨ len % grain ≠ 0
    let c4 := bytes < at' + len
    let c5 (v : Nat) : Prop := sp = false ∧ reads v ∧ 2 ^ 48 ≤ v
    let c6 (v : Nat) : Prop := sp = false ∧ reads v ∧ ∀ e ∈ x.l.leases, ¬(e.base ≤ v ∧ v < e.base + e.len)
    let c7 (v : Nat) : Prop := sp = false ∧ reads v ∧ ∀ n, c.segOf v = some n → (c.seg n 3).getLsbD 0 = false
    let c8 (v : Nat) : Prop := sp = false ∧ reads v ∧ ∃ n va o, c.place v = some (n, .aperture va o)
    let c9 (v : Nat) : Prop := reads v ∧ ∃ o, off v = some o ∧ x.t.spadBytes ≤ o
    let c11 (v : Nat) : Prop := reads v ∧ ∃ o, off v = some o ∧ (tget 0 x.t.tags (o / 2048)).toNat ≠ span
    let no (p : Nat → Prop) : Prop := ∀ v, ¬p v
    let low (p : Nat → Prop) (v : Nat) : Prop := p v ∧ ∀ w, p w → v ≤ w
    let words := ¬c2 ∧ ¬c3 ∧ ¬c4
    (c2 → Traps i s x 6 0 8) ∧ (¬c2 → c3 → Traps i s x 6 0 9) ∧ (¬c2 → ¬c3 → c4 → Traps i s x 6 0 10)
    ∧ (words → ∀ v, low c5 v → Traps i s x 5 (BitVec.ofNat 64 v) 0x600)
    ∧ (words → no c5 → (∃ v, c6 v) → ∃ t, exec i s = .next t ∧ TeamEnds s t x.g.team 1 .none)
    ∧ (words → no c5 → no c6 → ∀ v, low c7 v → Traps i s x 5 (BitVec.ofNat 64 v) (if c.segOf v = none then 0x100 else 0x200))
    ∧ (words → no c5 → no c6 → no c7 → ∀ v, low c8 v → Traps i s x 5 (BitVec.ofNat 64 v) 0x500)
    ∧ (words → no c5 → no c6 → no c7 → no c8 →
      (∀ v o, low c9 v → off v = some o → Traps i s x 5 (BitVec.ofNat 64 o) 0x300)
      ∧ (no c9 → a % 16 ≠ 0 → Traps i s x 13 (BitVec.ofNat 64 a) 0)
      ∧ (no c9 → a % 16 = 0 → ∀ v o, low c11 v → off v = some o → Traps i s x 6 (BitVec.ofNat 64 (2048 * (o / 2048))) 1)
      ∧ (no c9 → a % 16 = 0 → no c11 → (len = 0 → GoesOn i s x)
        ∧ (len ≠ 0 → ∃ t g f, exec i s = .next t ∧ InFlight i s t x g f ∧ f.look = la.toNat ∧ f.slot = 5 ∧ f.ndst = 0 ∧ f.opnds = [src, dst]))))
  ∧ (∀ (s : State) (x : Iss) (la : BitVec 4), Issues s x (.mzero la) →
    ∃ t g f, exec (.mzero la) s = .next t ∧ InFlight (.mzero la) s t x g f ∧ f.look = la.toNat ∧ f.slot = 5 ∧ f.ndst = 0)
  ∧ (∀ (s : State) (t : Team) (part : Nat), s.team? t.ref = some t → switchDue s t.ref part = true →
    ∃ u, exec (.tableSetSwitch t.ref part) s = .next u ∧ u.owns t part = true
      ∧ (∀ p, p ≠ part → tget 0 (u.coreOf t.core).owner p = tget 0 (s.coreOf t.core).owner p)
      ∧ (∀ c, c ≠ t.core → u.coreOf c = s.coreOf c) ∧ { u with cores := s.cores } = s)
  ∧ ∀ (s : State) (g : Group) (f : Flight) (t : Team) (l : Launch), s.flightAt g.ref f.fid = some (g, f, t, l) →
    tableDue s g.ref f.fid = true → g.trap.replay = [] → s.bad = [] → t.lost = [] → (∀ b ∈ g.busy, b.fid = f.fid → b.hit = 0) →
    (∀ la, f.instr = .mzero la → ∃ u k m, exec (.tableLoadWrite g.ref f.fid) s = .next u ∧ u.group? g.ref = some k ∧ Gone g k f
      ∧ k.qsets = g.qsets ∧ u.team? t.ref = some m ∧ m.tableSet g.part = ⟨[], [], [], []⟩ ∧ m.spad = t.spad
      ∧ ∀ p, p ≠ g.part → m.tableSet p = t.tableSet p)
    ∧ (∀ src dst, (∀ la, f.instr ≠ .mzero la) → f.opnds = [src, dst] → src.getLsbD 63 = true → PacerStays s t →
      let at' := (dst.extractLsb' 0 19).toNat
      let len := (dst.extractLsb' 32 19).toNat
      let arr := loadArray f.instr
      ∃ u k m, exec (.tableLoadWrite g.ref f.fid) s = .next u ∧ u.group? g.ref = some k ∧ Gone g k f ∧ k.qsets = g.qsets ∧ k.regs = g.regs
        ∧ u.team? t.ref = some m ∧ m.spad = t.spad
        ∧ (∀ b, ((m.tableSet g.part).array arr).get b = if at' ≤ b ∧ b < at' + len
          then t.spad.get (swizzle (src.extractLsb' 60 3).toNat ((src.extractLsb' 0 48).toNat + (b - at'))) else ((t.tableSet g.part).array arr).get b)
        ∧ (∀ a, a < 4 → a ≠ arr → (m.tableSet g.part).array a = (t.tableSet g.part).array a)
        ∧ (∀ p, p ≠ g.part → m.tableSet p = t.tableSet p) ∧ (∀ r, r ≠ t.ref → u.team? r = s.team? r)
        ∧ (∀ r, r ≠ g.ref → u.group? r = s.group? r) ∧ u.dram = s.dram ∧ u.hostMem = s.hostMem)

/-! ## Words -/

/-- R2, R16, R28, R29: every well-formed instruction has the word of its format, and the decoder reads that instruction from the bytes of
the word, whatever stands behind them. -/
def Obligations.EncodeDecode : Prop :=
  ∀ (i : Instr) (w : W32) (rest : List Byte), i.wellFormed = true → encode i = some w →
    decodeWord w = .ok i ∧ decode (wordBytes w ++ rest) = .ok (i, rest)

/-- R29, R30, R36: what the decoder reads is well formed, and its word is the one that was read, so that no bit is dropped and no word has
two readings; the reserved major spaces and the opcodes that the map does not list are no instructions. -/
def Obligations.DecodeEncode : Prop :=
  (∀ (w : W32) (i : Instr), decodeWord w = .ok i → i.wellFormed = true ∧ encode i = some w)
  ∧ (∀ w : W32, 0x6E ≤ (w.extractLsb' 25 7).toNat → (w.extractLsb' 25 7).toNat ≤ 0x7E → decodeWord w = .error .reservedSpace)
  ∧ ∀ w : W32, (w.extractLsb' 25 7).toNat ∈ [0x00, 0x1E, 0x1F, 0x2D, 0x2E, 0x2F, 0x3A, 0x3B, 0x3C, 0x3D, 0x3E, 0x3F, 0x4D, 0x4E, 0x4F, 0x59] →
    decodeWord w = .error .unlistedOpcode

/-- Words that the spec writes out (R69, R78, R93, R119, R120, R131, R155, R183, R189, R236, R250, R283, R327), each with the instruction
that it stands for. -/
def Obligations.DecodeSamples : Prop :=
  ∀ e ∈ ([(0x02102860#32, .vadd 4 5 6 0 0), (0x041C3825#32, .vsub 7 7 2 1 1), (0x46284090#32, .vfma 10 8 9 0 0),
      (0x70053000#32, .mand 1 2 3), (0x8E201678#32, .sli 4 0x1678), (0x902091A2#32, .slui 4 0x91A2), (0x92006015#32, .scmpi 3 10),
      (0x8028C381#32, .sadd 5 6 7 1), (0xA2900003#32, .brm 1 1 3), (0xAC480002#32, .waitBatch 2), (0xB0220000#32 + 0x1400#32, .ewin 1 5 0),
      (0xB60C3242#32, .vst 3 6 2 1 0 2), (0xC42010AA#32, .vatomAr 8 2 10 10), (0xCC80425F#32, .mma 32 8 9 1 15),
      (0xD2429820#32, .cpy 4 5 6 0 0 1 0 0 0 0), (0xD601C002#32, .pwait 14), (0xDA408280#32, .fretype 8 4 5)] : List (W32 × Instr)),
    decodeWord e.1 = .ok e.2

/-! ## A step, an invariant, reset -/

/-- R2, R16, R113, R140: with nothing chosen from outside, `step` runs the instruction to which the word at the pc of the quad-set that issues
decodes, the entry of the emulation handler where the word is no instruction, and the fetch of the clause where no word is there; a quad-set
that may no longer issue is passed over, and a step chosen from outside goes first. Time passes once everything chosen for the clock has
issued; with no team asked to halt nothing but the clocks, what the ports carry, waits, issue readiness, and the halts of groups at yield
points, has changed then.
What is chosen from outside going first, and then what issues, is the model's own order (log entry 20). -/
def Obligations.StepRuns : Prop :=
  (∀ (s : State) (x : Iss), s.agenda = [] → s.iss = some x → s.mayIssue x = true →
    (∀ w i, x.q.word? = some w → decodeWord w = .ok i → step s = afterwards (exec i s) State.afterFocus)
    ∧ (∀ w e, x.q.word? = some w → decodeWord w = .error e → step s = afterwards (exec (.emulationEntry w) s) State.afterFocus)
    ∧ (x.q.word? = none → step s = afterwards (exec (.clauseFetch x.g.ref x.q.tag) s) State.afterFocus))
  ∧ (∀ (s : State) (x : Iss), s.agenda = [] → s.iss = some x → s.mayIssue x = false → step s = .next s.afterFocus)
  ∧ (∀ (s : State) (i : Instr) (rest : List Instr), s.agenda = i :: rest →
    step s = afterwards (exec i { s with agenda := rest }) fun t => t.elapse)
  ∧ ∀ (s : State) (n : Nat),
    (s.focus.tail = [] → s.afterFocus = ({ s with focus := [] } : State).elapse)
    ∧ (s.focus.tail ≠ [] → s.afterFocus = { s with focus := s.focus.tail })
    ∧ (s.elapse n).tick = s.tick + 1
    ∧ ((∀ t ∈ s.teams, t.asked = false) →
      { s.elapse n with tick := s.tick, groups := s.groups, teams := s.teams, copies := s.copies, cores := s.cores, lodge := s.lodge } = s
      ∧ { (s.elapse n).lodge with clk := s.lodge.clk, idle := s.lodge.idle } = s.lodge
      ∧ (∀ c, c < Config.cores →
        { (s.elapse n).coreOf c with clk := (s.coreOf c).clk, ports := (s.coreOf c).ports, issued := (s.coreOf c).issued } = s.coreOf c)
      ∧ (∀ r t, s.team? r = some t → ∃ k, (s.elapse n).team? r = some k ∧ { k with endWait := t.endWait } = t)
      ∧ (∀ r g, s.group? r = some g → ∃ k, (s.elapse n).group? r = some k
        ∧ { k with qsets := g.qsets, flights := g.flights, pleft := g.pleft, ready := g.ready, run := g.run } = g
        ∧ (k.run = g.run ∨ g.run = .run ∧ k.run = .halted ∧ g.preq = true)
        ∧ k.flights.map (·.fid) = g.flights.map (·.fid)
        ∧ (g.run ≠ .run → k.qsets = g.qsets ∧ k.flights = g.flights)
        ∧ ∀ tag q, g.q? tag = some q → ∃ p, k.q? tag = some p ∧ { p with hold := q.hold } = q
          ∧ (∀ h, q.hold = some h → ∃ n, p.hold = some { h with count := n } ∧ min h.limit h.count ≤ n) ∧ (q.hold = none → p.hold = none)))

/-- The canonical form of both byte memories, which makes equal memories equal data, is kept by every step.
The form and the 0 that an unlisted byte reads are the model's own (log entry 8). -/
def Obligations.MemoryStaysCanonical : Prop := ∀ s t : State, s.memWf → step s = .next t → t.memWf

/-- What a package reset leaves (R267, R333, R339, R352, R363, R369, R387, R391, R392): no launch, team, group or tenancy, every register of
every function 0, field by field, its rings and bindings among them, nothing listed in memory, the measurements and banks cleared, and the
preset thresholds and deadlines. The model's choices are the 0 of unlisted memory (log entry 8) and of what the Lodge sets for a tenancy
(log entry 70): CTXEN, L2CAP, %feat, the quota, ABASE, the channels and the host memory. -/
def Obligations.ResetState : Prop :=
  State.reset.memWf ∧ State.reset.launches = [] ∧ State.reset.teams = [] ∧ State.reset.groups = [] ∧ State.reset.copies = []
  ∧ (∀ tid, State.reset.tenant tid = {
      live := false, ctxen := 0, l2cap := 0, feat := 0, rv := false, rerr := false, root := 0, abase := 0, alen := 0, quota := 0, held := 0
      corr := 0, uncorr := 0, lanedead := 0, shretry := 0, forcedh := 0, sliceovr := 0, recallovr := 0, faultq := 0, nextRec := 0, recs := []
      hwbase := 0, fcarg0 := 0, fcarg1 := 0, fcarg2 := 0, fcop := 0, fcerr := false, fcres := 0, fcwait := none, rings := [], channels := 0
      binds := [], chans := [], msix := [], ctxs := [], hostBase := 0, hostCount := 0, spdm := ⟨0, false, [], .none⟩ })
  ∧ (∀ tid k, tget Ring.reset (State.reset.tenant tid).rings k = ⟨0, 0, false, 0, 0, 0⟩
    ∧ tget Binding.reset (State.reset.tenant tid).binds k = ⟨0, 0, 0⟩ ∧ (State.reset.tenant tid).msix = [])
  ∧ (∀ c, State.reset.ctx c = Ctx.reset) ∧ (∀ a, State.reset.dram.get a = 0) ∧ (∀ c, (State.reset.coreOf c).l1 = [])
  ∧ (∀ k, tget 0 State.reset.lodge.meas k = 0) ∧ (∀ k, tget 0 State.reset.lodge.bank0 k = 0) ∧ (∀ k, tget 0 State.reset.lodge.bank1 k = 0)
  ∧ State.reset.lodge.active = false ∧ State.reset.lodge.gen = 0 ∧ State.reset.lodge.thot = 95 ∧ State.reset.lodge.hyst = 6
  ∧ State.reset.lodge.dlim = 64 ∧ State.reset.lodge.pdeadline = 20000 ∧ State.reset.lodge.boot = .off

/-! ## Launches and teams -/

/-- R134, R135: LAUNCH waits for the group's accesses, makes the core's release, and answers the first status that applies: 0x10 at depth 9,
0x11 in a group that is not the team's first, 0x13 for a record that is misaligned or cannot be read, 0x12 with the queue full; otherwise
the launch is posted under a new handle. LWAIT answers HANDLE for what is no child of its launch, waits for a child, within WAITLIM, and
answers its status with the dead lanes after the core's acquire.
The die of the queue bounds is the model's reading (log entry 84), the handle a free value (log entry 3). -/
def Obligations.LaunchInstructions : Prop :=
  ∀ (s : State) (x : Iss) (sd sa : BitVec 6),
    let a := x.s sa.toNat
    (Issues s x (.launch sd sa) → x.q.hold = none →
      ((∃ f ∈ x.g.flights, f.fid < s.next ∧ f.accesses = true) → Waits (.launch sd sa) s x (.drain s.next) false)
      ∧ ((∀ f ∈ x.g.flights, f.fid < s.next → f.accesses = false) →
        let u := (s.prep x).releaseL1 x.t.core x.l.tid
        let r := u.schedWords x.l.cid a.toNat 8 false
        let here := s.launches.filter fun l => l.state = .posted ∧ l.die = x.t.core / 48
        let full := 256 ≤ here.length ∨ 64 ≤ (here.filter fun l => l.tid = x.l.tid).length
        (x.l.depth = 9 → ∃ t, Answers (.launch sd sa) s x sd 0x10 t ∧ t.launches = s.launches ∧ Besides u t)
        ∧ (x.l.depth ≠ 9 → x.g.gix ≠ 0 → ∃ t, Answers (.launch sd sa) s x sd 0x11 t ∧ t.launches = s.launches ∧ Besides u t)
        ∧ (x.l.depth ≠ 9 → x.g.gix = 0 → a.toNat % 64 ≠ 0 ∨ r.2 = none →
          ∃ t, Answers (.launch sd sa) s x sd 0x13 t ∧ t.launches = s.launches)
        ∧ (∀ ws, x.l.depth ≠ 9 → x.g.gix = 0 → a.toNat % 64 = 0 → r.2 = some ws →
          (full → ∃ t, Answers (.launch sd sa) s x sd 0x12 t ∧ t.launches = s.launches ∧ Besides r.1 t)
          ∧ (¬full → s.launches.length + 2 ≤ 2 ^ 30 → ∃ t l, Answers (.launch sd sa) s x sd (BitVec.ofNat 64 (l.handle * 2 ^ 32)) t
            ∧ t.launches = s.launches ++ [l] ∧ Besides r.1 t
            ∧ l.state = .posted ∧ l.record = ws ∧ l.tid = x.l.tid ∧ l.cid = x.l.cid ∧ l.depth = x.l.depth + 1 ∧ l.parent = some x.l.ref
            ∧ l.die = x.t.core / 48 ∧ l.handle / 2 ^ 30 = x.t.core / 48 % 4 ∧ l.handle ≠ 0
            ∧ ∀ k ∈ s.launches, k.tid = x.l.tid → k.handle ≠ l.handle))))
    ∧ (Issues s x (.lwait sd sa) →
      let child (l : Launch) : Prop := l.parent = some x.l.ref ∧ l.handle = a.toNat
      ((∀ l ∈ s.launches, ¬child l) → Completes (.lwait sd sa) s x { scal := some (x.g.scalNo sd.toNat, 6) })
      ∧ ∀ before l after, s.launches = before ++ l :: after → (∀ k ∈ before, ¬child k) → child l →
        (l.state ≠ .complete → Waits (.lwait sd sa) s x (.lwait l.handle) true)
        ∧ (l.state = .complete → ∃ t, Answers (.lwait sd sa) s x sd (BitVec.ofNat 64 (l.dead % 2 ^ 32 * 2 ^ 32 + l.status)) t
          ∧ t.launches = s.launches ∧ Besides ((s.prep x).acquireL1 x.t.core x.l.tid) t))

/-- R305, R331 to R338, R340: the scheduler's steps. A doorbell moves a ring's TAIL, or, past the ring's size, sets ERR and signals; intake
queues an entry whose checks pass and drains one that fails with KERNEL or FEATURE; a dependence is satisfied at DVAL; resident leases are
pinned, or refused with LEASE; a placement starts a team with the registers, scratchpad and stages as a start leaves them; a completion
drops pins and teams and signals; a team that has ended frees its groups and copies, and its launch counts it.
Which pages the scheduler may read, where scratchpad lies, %gid and the order of checks are the model's readings (log entries 53 to 57, 86). -/
def Obligations.LaunchSteps : Prop :=
  (∀ (s : State) (tid level : Nat) (w : W64), (s.tenant tid).live = true → s.lodge.boot ≠ .failed → level < 4 →
    let r := s.ringOf tid level
    let fits : Bool := decide ((w.setWidth 16 - r.head).toNat ≤ 2 ^ ((w.extractLsb' 32 3).toNat + 4))
    ∃ t, exec (.launchRingDoorbell tid level w) s = .next t
      ∧ t.ringOf tid level = { r with
        lsize := (w.extractLsb' 32 3).toNat, tail := if fits then w.setWidth 16 else r.tail, err := (r.err && !w.getLsbD 35) || !fits }
      ∧ t.irqs = (if fits then s.irqs else s.irqs ++ [(tid, 1)])
      ∧ (∀ k, k ≠ level → t.ringOf tid k = s.ringOf tid k) ∧ (∀ d, d ≠ tid → t.tenant d = s.tenant d)
      ∧ { t.tenant tid with rings := (s.tenant tid).rings } = s.tenant tid ∧ { t with tenants := s.tenants, irqs := s.irqs } = s)
  ∧ (∀ (s : State) (tid level : Nat), (s.tenant tid).live = true → level < 4 → (s.ringOf tid level).head ≠ (s.ringOf tid level).tail →
    (∀ k ∈ s.launches, k.ref ≠ s.next) → s.lodge.drain = false →
    let r := s.ringOf tid level
    let v := s.schedWords r.cid (r.rbase + 64 * (r.head.toNat % 2 ^ (r.lsize + 4))) 8 false
    ∃ t l, exec (.launchIntake (.ring tid level)) s = .next t ∧ t.launches = s.launches ++ [l] ∧ (t.ringOf tid level).head = r.head + 1
      ∧ l.ref = s.next ∧ l.tid = tid ∧ l.cid = r.cid ∧ l.depth = 0 ∧ l.parent = none ∧ l.record = v.2.getD []
      ∧ (l.state = .queued ∨ l.state = .draining ∧ (l.status = 2 ∨ l.status = 3)) ∧ (l.recordOk = false → l.state = .draining ∧ l.status = 2))
  ∧ (∀ (s : State) (l : Launch), s.launch? l.ref = some l → s.lodge.drain = false →
    (l.state = .posted → ∃ t k, exec (.launchIntake (.device l.ref)) s = .next t
      ∧ t.launches = (s.launches.filter fun n => n.ref ≠ l.ref) ++ [k]
      ∧ match (s.checkLaunch l).2 with
        | none => k = { l with state := .draining, status := 2 }
        | some c =>
          let v : State := { (s.checkLaunch l).1 with
            launches := (s.launches.filter fun n => n.ref ≠ l.ref) ++ [{ c with state := .queued, depOk := !c.depv }] }
          if c.kernel.paced = true ∧ featOn (s.tenant l.tid).feat 4 = false then
            k = { c with
              state := .draining, depOk := !c.depv
              status := if (v.readPace c.cid c.paceVa c.teamCount c.kernel.spadBytes).2.isSome then 3 else 2 }
          else k = { c with state := .queued, depOk := !c.depv })
    ∧ (l.state = .queued → l.depOk = false → ∃ t, exec (.dependencePoll l.ref) s = .next t
      ∧ (∀ r, r ≠ l.ref → t.launch? r = s.launch? r)
      ∧ match (s.schedWords l.cid l.dword 1 false).2 with
        | some ws => t.launch? l.ref = some { l with depOk := decide (l.dval.toNat ≤ (ws.headD 0).toNat) }
        | none => t.launch? l.ref = some l)
    ∧ (l.state = .queued → l.leaseOk = false → l.waiting = false → ∃ t, exec (.residentLeaseCheck l.ref) s = .next t
      ∧ (∀ r, r ≠ l.ref → t.launch? r = s.launch? r)
      ∧ match s.residentFate l with
        | .lease none =>
          t.launch? l.ref = some { l with
            state := .draining
            status := if l.kernel.paced = true ∧ (s.readPace l.cid l.paceVa l.teamCount l.kernel.spadBytes).2 = none then 2 else 1 }
          ∧ (l.kernel.paced = false → { t with launches := s.launches } = s)
        | .ok fs => (∀ f ∈ fs, (s.frame f).pin < 65535) → t.launch? l.ref = some { l with leaseOk := true, pins := fs.eraseDups }
          ∧ (∀ f, (t.frame f).pin = (s.frame f).pin + if f ∈ fs then 1 else 0)
          ∧ (∀ f, { t.frame f with pin := (s.frame f).pin } = s.frame f) ∧ { t with launches := s.launches, frames := s.frames } = s
        | .record _ _ _ _ _ => (s.faultStage l.tid).isSome = true → t.launch? l.ref = some { l with waiting := true }
        | .lease (some (u, a)) => t.launch? l.ref = some { l with
            state := .draining
            status := if l.kernel.paced = true
              ∧ ((s.detected u a 0 0).readPace l.cid l.paceVa l.teamCount l.kernel.spadBytes).2 = none then 2 else 1 })
    ∧ (∀ c, placementDue s l.ref = true → l.kernel.paced = false → l.pace = [] → s.chooseCore l = some c → (∀ k ∈ s.teams, k.ref < s.next) →
      (∀ k ∈ s.groups, k.ref < s.next) → ∃ t k, exec (.teamPlacement l.ref) s = .next t
        ∧ t.launch? l.ref = some { l with
          nextTeam := l.nextTeam + 1, groups := l.groups + l.kernel.groups
          feat := if l.nextTeam = 0 then (s.tenant l.tid).feat else l.feat
          state := if l.nextTeam + 1 = l.teamCount then .running else .placing }
        ∧ t.team? s.next = some k ∧ k.core = c ∧ k.launch = l.ref ∧ k.idx = l.nextTeam ∧ k.state = .running
        ∧ k.spadBytes = l.kernel.spadBytes ∧ (∀ o, k.spad.get o = 0) ∧ (∀ b, tget 0 k.tags b = 0) ∧ (∀ n, k.bar n = Barrier.empty)
        ∧ k.stages = []
        ∧ ∀ j, j < l.kernel.groups → ∃ g, t.group? (s.next + 1 + j) = some g ∧ g.team = s.next ∧ g.gix = j ∧ g.width = l.kernel.width
          ∧ g.nregs = l.kernel.nregs ∧ (∀ n, n < 64 → (bit g.regs.live n = true ↔ n < l.kernel.width)) ∧ g.regs.dead = 0
          ∧ (∀ n, tget 0 g.regs.scal n = if n = 1 then l.param else 0) ∧ (∀ r n, g.lane r n = 0) ∧ (∀ n, tget 0 g.regs.masks n = 0)
          ∧ g.regs.cc = 0 ∧ g.regs.fpstat = 0 ∧ g.regs.opc = 0
          ∧ g.regs.waitlim = (if (s.ctx l.cid).waitlim = 0 then 0x00100000 else (s.ctx l.cid).waitlim)
          ∧ (∃ q, g.qsets = [q] ∧ q.pc = BitVec.ofNat 64 (l.entry + l.kernel.first) ∧ q.fmt = 0 ∧ q.hold = none)
          ∧ g.rstack = [] ∧ g.retstack = [] ∧ g.flights = [])
    ∧ (completionReady s l.ref = true → ∃ t, exec (.launchCompletion l.ref) s = .next t
      ∧ (∀ k, t.launch? l.ref = some k → k.state = .complete ∧ k.status = l.status ∧ k.dead = l.dead)
      ∧ (∀ k ∈ t.teams, k.launch ≠ l.ref) ∧ (∀ k ∈ s.teams, k.launch ≠ l.ref → k ∈ t.teams)
      ∧ (∀ f, (t.frame f).pin = (s.frame f).pin - l.pins.count f) ∧ t.groups = s.groups
      ∧ t.irqs = (if l.irq = true ∧ l.parent = none then s.irqs ++ [(l.tid, 0)] else s.irqs)))
  ∧ ∀ (s : State) (t : Team) (l : Launch), s.team? t.ref = some t → s.launch? t.launch = some l → teamEndDue s t.ref = true →
    ∃ u k m, exec (.teamEnd t.ref) s = .next u ∧ u.team? t.ref = some k ∧ k.state = .ended ∧ k.status = t.status ∧ k.cause = t.cause ∧ k.spad = []
      ∧ (∀ r, r ≠ t.ref → u.team? r = s.team? r) ∧ (∀ g, g ∈ u.groups ↔ g ∈ s.groups ∧ g.team ≠ t.ref) ∧ (∀ c ∈ u.copies, c.team ≠ t.ref)
      ∧ (∀ c p, tget 0 (u.coreOf t.core).owner p ≠ t.ref + 1 ∧ (c ≠ t.core → u.coreOf c = s.coreOf c))
      ∧ u.launch? l.ref = some m ∧ m.ended = l.ended + 1 ∧ m.dead = l.dead + s.deadLanes t.ref
      ∧ m.status = (if l.status = 0 then t.status else l.status) ∧ (∀ r, r ≠ l.ref → u.launch? r = s.launch? r)
      ∧ u.dram = s.dram ∧ u.hostMem = s.hostMem

/-- R339, R352 to R357, R359: halts, spills and slices, temperature classes, and debuggers. A forced halt stops every running group of a team where it is;
a save spills all of a halted team, a restore brings a team back with what it held; a slice begins and ends for one tenancy of a paddock, for the
length that is programmed or, where that is below the cost E, for 2E, which is counted; a report classes a core by its thresholds with their
hysteresis; a debugger halts a core of its own paddock. E itself, what is spilled first, and how droops are given, are the model's readings (log
entries 16, 58, 60). -/
def Obligations.HaltsAndSlices : Prop :=
  (∀ (s : State) (t : Team), s.team? t.ref = some t → forcedDue s t.ref = true → ∃ u, exec (.forcedHalt t.ref) s = .next u
    ∧ (∀ r g, s.group? r = some g → ∃ h, u.group? r = some h ∧ { h with run := g.run, preq := g.preq, pleft := g.pleft } = g
      ∧ (g.team ≠ t.ref → h = g) ∧ (g.team = t.ref → h.run = if g.run = .run then .halted else g.run))
    ∧ (u.tenant (s.tidOf t)).forcedh = (s.tenant (s.tidOf t)).forcedh + 1
    ∧ (t.state = .running → (∀ g ∈ s.groupsOf t.ref, g.run ≠ .saved ∧ g.flights = []) →
      u.team? t.ref = some { t with state := .halted, asked := false })
    ∧ { u with groups := s.groups, teams := s.teams, tenants := s.tenants } = s)
  ∧ (∀ (s : State) (t : Team), s.team? t.ref = some t →
    (t.state = .halted → s.debugHeld t.core = false → s.lodge.drain = false → (∀ p, (2, p) ∉ s.bad ∧ (9, p) ∉ s.bad) →
      ∃ u, exec (.teamSave t.ref) s = .next u
      ∧ u.team? t.ref = some { t with state := .saved, spilled := ⟨[], [], []⟩ } ∧ (∀ r, r ≠ t.ref → u.team? r = s.team? r)
      ∧ (∀ r g, s.group? r = some g → u.group? r = some (if g.team = t.ref ∧ g.run ≠ .retired then { g with run := .saved } else g))
      ∧ ∀ p, tget 0 (u.coreOf t.core).owner p ≠ t.ref + 1)
    ∧ (restoreDue s t.ref = true → t.state = .halted → t.pacer = none → t.lost = [] → ∃ u, exec (.teamRestore t.ref) s = .next u
      ∧ u.team? t.ref = some { t with state := .running, spilled := ⟨[], [], []⟩ } ∧ (∀ r, r ≠ t.ref → u.team? r = s.team? r)
      ∧ ∀ r g, s.group? r = some g →
        u.group? r = some (if g.team = t.ref ∧ (g.run = .halted ∨ g.run = .saved) then { g with run := .run } else g))
    ∧ (∀ c, restoreDue s t.ref = true → t.state = .saved → t.lost = [] → s.restoreCore t = some c → ∃ u k, exec (.teamRestore t.ref) s = .next u
      ∧ u.team? t.ref = some k ∧ k.core = c ∧ (k.state = .halted ∨ k.state = .running) ∧ k.spad = t.spad ∧ k.tags = t.tags
      ∧ k.bars = t.bars ∧ k.stages = t.stages
      ∧ ∀ r g, s.group? r = some g → g.team = t.ref → ∃ h, u.group? r = some h ∧ { h with run := g.run, part := g.part } = g))
  ∧ (∀ (s : State) (p tid : Nat), sliceBeginDue s p tid = true → ∃ u, exec (.sliceBegin p tid) s = .next u
    ∧ (let cost := s.switchCost p tid
      let len := s.sliceLen p tid * 10000
      u.slice p = ⟨tid, if len < cost then 2 * cost else len, false⟩
        ∧ (u.tenant tid).sliceovr = (s.tenant tid).sliceovr + if len < cost then 1 else 0)
    ∧ ∀ n, n ≠ p → u.slice n = s.slice n)
  ∧ (∀ (s : State) (p : Nat), sliceEndDue s p = true →
    let tid := (s.slice p).tid
    ((∀ n ∈ s.ring p, n ≠ tid → s.skipped p n = true) → exec (.sliceEnd p) s = .next s)
    ∧ ((∃ n ∈ s.ring p, n ≠ tid ∧ s.skipped p n = false) → ∃ u, exec (.sliceEnd p) s = .next u ∧ u.slice p = { s.slice p with ending := true }
      ∧ (∀ t ∈ s.teamsOn p tid, s.team? t.ref = some t → t.state = .running → ∃ k, u.team? t.ref = some k
        ∧ (k.asked = true ∨ k.state = .halted))))
  ∧ (∀ (s : State) (core temp older : Nat), core < 192 →
    let c := s.coreOf core
    let droop := c.droops + older
    let d := s.lodge
    let hot : Bool := if c.hot = true then !(decide (temp + d.hyst ≤ d.thot) && decide (2 * droop < d.dlim))
      else decide (d.thot ≤ temp) || decide (d.dlim ≤ droop)
    ∃ u, exec (.temperatureReport core temp older) s = .next u
      ∧ u.coreOf core = { c with reported := true, hot := hot, temp := temp, droop := droop, droops := 0 }
      ∧ (∀ k, k ≠ core → u.coreOf k = s.coreOf k) ∧ { u with cores := s.cores } = s)
  ∧ ∀ (s : State) (tid core : Nat) (w : W64), core < 192 →
    let c := s.coreOf core
    let on (u : State) (d : Debug) : Prop := u.coreOf core = { c with dbg := d } ∧ (∀ k, k ≠ core → u.coreOf k = s.coreOf k)
      ∧ { u with cores := s.cores } = s
    (s.debugOpen tid core = true → w.getLsbD 8 = true → s.lentOn tid core = false → ∃ u, exec (.debugHaltRequest tid core w) s = .next u
      ∧ on u ⟨true, w.getLsbD 4, if c.dbg.state = 0 then 1 else c.dbg.state⟩)
    ∧ (s.debugOpen tid core = true → w.getLsbD 8 = false → ∃ u, exec (.debugResume tid core w) s = .next u
      ∧ u.coreOf core = { c with dbg := ⟨false, w.getLsbD 4, 0⟩ } ∧ ((∀ t ∈ s.teams, t.asked = false) → on u ⟨false, w.getLsbD 4, 0⟩))
    ∧ (c.dbg.state = 1 → (∀ t ∈ s.teams, t.core = core → t.state ≠ .saved → t.state ≠ .ended → ∀ g ∈ s.groupsOf t.ref, g.flights = []) →
      ∃ u, exec (.debugHaltComplete core) s = .next u ∧ on u { c.dbg with state := 2 })

/-! ## Copies -/

/-- R246 to R251, R256, R257, R259, R264: CPY. What its checks find wrong is raised, or ends the team; a copy that passes them has the shape that its
words give and, with room for it, is taken into the open batch, a STEP copy into the armed table alone; without room the CPY is held. A shape without
bytes is LAYOUT with detail 11, a copy between two global sides LAYOUT with detail 12. CSEAL seals the open batch, or waits at 15; CYIELD jumps once
UNF ≤ n, TARGET being raised then, and is parked until then. What a window segment past the allocation or at 2^48 reports, under which code it is
placed, and that leases go by its VA, are the model's readings (log entries 39, 40, 43, 91). -/
def Obligations.CopyInstructions : Prop :=
  decodeWord 0xD4000000 = .ok .cseal ∧ (∀ w : W32, w.extractLsb' 20 12 = 0xD40 → w ≠ 0xD4000000 → (decodeWord w).toOption = none)
  ∧ ∀ (s : State) (x : Iss),
    (∀ (sD sS sN : BitVec 5) (z : BitVec 3) (mc ver step seq nt zf : BitVec 1),
      let i := Instr.cpy sD sS sN z mc ver step seq nt zf
      let dw := x.s sD.toNat
      let sw := x.s sS.toNat
      let sh := x.s sN.toNat
      let ext := if mc = 1 ∨ ver = 1 ∨ seq = 1 then x.s (sN.toNat + 1) else 0
      let ask : CpyAsk := ⟨dw, sw, sh, ext, z.toNat, mc = 1, ver = 1, step = 1, seq = 1, nt = 1, zf = 1⟩
      Issues s x i → x.q.hold = none → (step = 1 → x.l.kernel.paced = true) →
      (∀ c a d, cpyCheck x (s.ctx x.l.cid) ask = some (.trap c a d) → Traps i s x c a d)
      ∧ (cpyCheck x (s.ctx x.l.cid) ask = some .lease → ∃ t, exec i s = .next t ∧ TeamEnds s t x.g.team 1 .none)
      ∧ (sh.extractLsb' 0 12 = 0 → Traps i s x 6 0 11)
      ∧ (mc = 0 → ver = 0 → seq = 0 → dw.getLsbD 63 = false → sw.getLsbD 63 = false → dw.extractLsb' 52 10 = 0 →
        sw.extractLsb' 52 10 = 0 → sh.extractLsb' 0 12 ≠ 0 → zf = 0 →
        sh.extractLsb' 12 12 = 0 → Traps i s x 6 0 12)
      ∧ (cpyCheck x (s.ctx x.l.cid) ask = none → (∀ c ∈ s.copies, c.job ≠ s.next) →
        let room := s.copyRoom x.t.core (step = 1)
        let drow := 16 * (sh.extractLsb' 0 12).toNat
        ∃ t g c, exec i s = .next t ∧ t.group? x.g.ref = some g ∧ (∀ r, r ≠ x.g.ref → t.group? r = s.group? r)
          ∧ t.copies = s.copies ++ [c] ∧ { t with groups := s.groups, copies := s.copies, free := s.free, next := s.next } = s
          ∧ c.job = s.next ∧ c.grp = x.g.ref ∧ c.team = x.t.ref ∧ c.cid = x.l.cid ∧ c.core = x.t.core
          ∧ c.rows = (if sh.extractLsb' 24 10 = 0 then 1024 else (sh.extractLsb' 24 10).toNat) ∧ c.drow = drow
          ∧ c.srow = (if zf = 1 then 16 * (sh.extractLsb' 12 12).toNat else drow)
          ∧ c.sstride = 16 * (sh.extractLsb' 34 16).toNat ∧ c.dstride = 16 * (sh.extractLsb' 50 14).toNat
          ∧ g.regs = x.g.regs ∧ g.flights = x.now.flights ∧ (∀ tag, tag ≠ x.q.tag → g.q? tag = x.g.q? tag)
          ∧ (room = true → g.q? x.q.tag = some x.q.advance
            ∧ c.phase = (if step = 1 then .armed else if seq = 1 then .present else .moving)
            ∧ g.batch = if step = 1 then x.g.batch
              else { x.g.batch with openJobs := x.g.batch.openJobs ++ [s.next], openHas := true })
          ∧ (room = false → c.phase = .offered ∧ g.batch = x.g.batch
            ∧ g.q? x.q.tag = some { x.q with
              hold := some ⟨if step = 1 then .armed s.next else .copyq s.next, step = 1, waitClocks x.g.regs.waitlim, 0, x.kept⟩ })))
    ∧ (Issues s x .cseal →
      let b := x.g.batch
      (15 ≤ b.sealed.length → Waits .cseal s x .seal false)
      ∧ (b.sealed.length < 15 → Becomes .cseal s x (({ x.now with batch := b.afterSeal } : Group).modQ x.q.tag QSet.advance)))
    ∧ ∀ (num : BitVec 4) (off : BitVec 16), Issues s x (.cyield num off) →
      let dest := x.q.pc + (off.signExtend 64 <<< 2)
      (¬IsHeader s x dest → x.g.batch.sealed.length ≤ num.toNat → Traps (.cyield num off) s x 2 dest 0)
      ∧ (IsHeader s x dest → x.g.batch.sealed.length ≤ num.toNat → GoesTo (.cyield num off) s x dest)
      ∧ (num.toNat < x.g.batch.sealed.length → Waits (.cyield num off) s x (.cyield dest num.toNat) false)

/-- R260, R261, R263: sequence stages. SQINIT checks its descriptor and leaves the stage at L = 0 with every slot FREE and 64 zero bytes, its held fills
ending with STALE; SQWAIT goes on once its sequence is filled, failed or released, after the core's acquire; SQREL waits for the group's loads and for
a fill of its sequence, and releases it: L passes what is released, and what it passes becomes FREE. The bounded wait of SQINIT, and that SQREL waits
for matrix-support loads and not for a matrix operation's operands, are the model's readings (log entries 44, 92). -/
def Obligations.SequenceStages : Prop :=
  ∀ (s : State) (x : Iss),
    let word (v : W64) : Nat := (v.extractLsb' 45 3).toNat
    let here (i : Instr) (t : State) : Prop := exec i s = .next t ∧ t.group? x.g.ref = some (x.now.modQ x.q.tag QSet.advance)
      ∧ ∀ r, r ≠ x.g.ref → t.group? r = s.group? r
    (∀ ss : BitVec 6, Issues s x (.sqinit ss) →
      let d := x.s ss.toNat
      let id := word d
      let depth := (d.extractLsb' 42 3).toNat + 1
      let slot := (d.extractLsb' 20 22).toNat
      let base := (d.extractLsb' 0 20).toNat
      let bad := d.extractLsb' 48 16 ≠ 0 ∨ depth = 1 ∨ slot = 0 ∨ slot % 16 ≠ 0 ∨ base % 64 ≠ 0 ∨ x.t.stepBuffer id = true
      let beyond := x.t.spadBytes < base + 64 + depth * slot
      let old := tget Stage.none x.t.stages id
      (bad → Traps (.sqinit ss) s x 6 0 13)
      ∧ (¬bad → beyond → Traps (.sqinit ss) s x 5 (BitVec.ofNat 64 (max base x.t.spadBytes)) 0x300)
      ∧ (¬bad → ¬beyond → (∃ k ∈ old.slots, k.state = .filling) → Waits (.sqinit ss) s x .cond true)
      ∧ (¬bad → ¬beyond → (∀ k ∈ old.slots, k.state ≠ .filling) → ∃ t k, here (.sqinit ss) t ∧ t.team? x.t.ref = some k
        ∧ tget Stage.none k.stages id = ⟨depth, slot, base, 0, List.replicate depth ⟨.free, 0, 0, false⟩, []⟩
        ∧ (∀ n, n ≠ id → tget Stage.none k.stages n = tget Stage.none x.t.stages n)
        ∧ (∀ o, k.spad.get o = if base ≤ o ∧ o < base + 64 then 0 else x.t.spad.get o)
        ∧ (∀ job n, (.copy job, n) ∈ old.held → ∀ c ∈ t.copies, c.job = job → c.phase = .ended 7)
        ∧ (∀ r, r ≠ x.t.ref → t.team? r = s.team? r) ∧ t.dram = s.dram ∧ t.hostMem = s.hostMem))
    ∧ (∀ ss sn : BitVec 6, Issues s x (.sqwait ss sn) →
      let id := word (x.s ss.toNat)
      let n := ((x.s sn.toNat).extractLsb' 0 24).toNat
      let st := tget Stage.none x.t.stages id
      let k := st.slotOf n
      let above := (st.low + 2 ^ 24 - n) % 2 ^ 24
      let ready := ((k.state = .filled ∨ k.state = .failed) ∧ k.seq = n) ∨ (1 ≤ above ∧ above ≤ 2 ^ 23)
      (st.depth = 0 ∨ x.t.stepBuffer id = true → Traps (.sqwait ss sn) s x 6 0 13)
      ∧ (st.depth ≠ 0 → x.t.stepBuffer id = false → st.low < 2 ^ 24 →
        (ready → ∃ t, here (.sqwait ss sn) t ∧ Besides ((s.prep x).acquireL1 x.t.core x.l.tid) t)
        ∧ (¬ready → Waits (.sqwait ss sn) s x (.seq id n) true)))
    ∧ ∀ ss sn : BitVec 6, Issues s x (.sqrel ss sn) → x.q.hold = none →
      let id := word (x.s ss.toNat)
      let n := ((x.s sn.toNat).extractLsb' 0 24).toNat
      let st := tget Stage.none x.t.stages id
      let loads := ∃ f ∈ x.g.flights, f.fid < s.next ∧ (isReadAccess f.instr || isTableLoad f.instr) = true
      let fills := (st.slotOf n).state = .filling ∧ (st.slotOf n).seq = n
      (st.depth = 0 ∨ x.t.stepBuffer id = true → Traps (.sqrel ss sn) s x 6 0 13)
      ∧ (st.depth ≠ 0 → x.t.stepBuffer id = false →
        (loads → Waits (.sqrel ss sn) s x (.drain s.next) false)
        ∧ (¬loads → fills → Waits (.sqrel ss sn) s x (.seqRel id n) true)
        ∧ (¬loads → ¬fills → st.slots.length = st.depth → st.low < 2 ^ 24 → ∃ t k, here (.sqrel ss sn) t ∧ t.team? x.t.ref = some k
          ∧ { t with groups := s.groups, teams := s.teams, free := s.free, bad := s.bad } = s ∧ (∀ b ∈ t.bad, b ∈ s.bad)
          ∧ (∀ r, r ≠ x.t.ref → t.team? r = s.team? r)
          ∧ (∀ m, m ≠ id → tget Stage.none k.stages m = tget Stage.none x.t.stages m)
          ∧ (let st' := tget Stage.none k.stages id
            let ahead := (n + 2 ^ 24 - st.low) % 2 ^ 24
            (st.depth ≤ ahead ∨ (st.slotOf n).released = true → k = x.t)
            ∧ (0 < ahead → ahead < st.depth → n % st.depth ≠ st.low % st.depth → (st.slotOf n).released = false → (st.slotOf st.low).released = false →
              st' = { st with slots := st.slots.set (n % st.depth) { st.slotOf n with released := true } } ∧ k.spad = x.t.spad)
            ∧ (n = st.low → 2 ≤ st.depth → st.low + 1 < 2 ^ 24 → (st.slotOf n).released = false → (st.slotOf n).state ≠ .filling →
               (st.slotOf (st.low + 1)).released = false →
              st'.low = st.low + 1 ∧ (st'.slotOf n).state = .free ∧ (st'.slotOf n).seq = (st.slotOf n).seq
              ∧ leNat (k.spad.read (st.base + 8 * (n % st.depth)) 8) = (st.slotOf n).seq % 2 ^ 24
              ∧ ∀ o, o < st.base + 8 * (n % st.depth) ∨ st.base + 8 * (n % st.depth) + 8 ≤ o → k.spad.get o = x.t.spad.get o))))

/-- R249, R250, R252, R253, R256, R259, R262, R264: the copy unit's steps, said for copies within a scratchpad where bytes move. A held CPY
is taken once there is room; a chunk is written whole; a conditional commit with another version changes nothing, with the expected one
writes its rows and the next version; a completion gives the batch its due and writes the slot's status; a parked quad-set wakes; a fill
is accepted into a free slot, held ahead of the window or failed; a held one fails with WINDOW at its limit; an armed copy fires after the
core's acquire.
What a failing chunk leaves is the model's reading (log entries 41, 42, 49). -/
def Obligations.CopySteps : Prop :=
  (∀ (s : State) (x : Iss) (job : Nat) (c : Copy), s.issAt x.g.ref x.q.tag = some x → x.q.offered = some job → s.copy? job = some c →
    s.copyRoom c.core c.step = true → s.suspended c.core = false → s.lodge.drain = false → c.grp = x.g.ref → ∃ t g d, exec (.copyCommandAccept x.g.ref x.q.tag) s = .next t
      ∧ t.group? x.g.ref = some g ∧ g.q? x.q.tag = some x.q.advance ∧ t.copy? job = some d
      ∧ d.phase = (if c.step then .armed else if c.seq then .present else .moving) ∧ { d with phase := c.phase, chunks := c.chunks } = c
      ∧ g.batch = (if c.step then x.g.batch else { x.g.batch with openJobs := x.g.batch.openJobs ++ [job], openHas := true })
      ∧ g.regs = x.g.regs ∧ (∀ r, r ≠ x.g.ref → t.group? r = s.group? r)
      ∧ { t with groups := s.groups, copies := s.copies } = s)
  ∧ (∀ (s : State) (c : Copy) (t : Team) (l : Launch) (i r b n so dst : Nat), s.copyAt c.job = some (c, t, l) → chunkDue s c.job i = true →
    c.chunks[i]? = some (r, b, n) → c.src = .own so → c.dst = .own dst → c.slot = none → c.z = 0 → s.bad = [] → t.lost = [] → c.srow = c.drow →
    b + n ≤ c.drow → n % 16 = 0 →
    let at' := dst + r * c.dstride + b
    let rest := { c with chunks := c.chunks.eraseIdx i }
    (t.spadBytes < at' + n → ∃ u, exec (.copyChunkWrite c.job i) s = .next u ∧ { u with copies := s.copies } = s
      ∧ u.copy? c.job = some { rest with reason := if c.reason = 0 then 6 else c.reason })
    ∧ (at' + n ≤ t.spadBytes → ∃ u k, exec (.copyChunkWrite c.job i) s = .next u ∧ u.copy? c.job = some rest ∧ u.team? t.ref = some k
      ∧ (∀ o, k.spad.get o = if at' ≤ o ∧ o < at' + n then t.spad.get (so + r * c.sstride + b + (o - at')) else t.spad.get o)
      ∧ (∀ m, tget 0 k.tags m = if at' / 2048 ≤ m ∧ 2048 * m < at' + n then 0 else tget 0 t.tags m)
      ∧ (∀ m, m ≠ t.ref → u.team? m = s.team? m) ∧ { u with teams := s.teams, copies := s.copies } = s))
  ∧ (∀ (s : State) (c : Copy) (t : Team) (l : Launch) (r b n so dst : Nat), s.copyAt c.job = some (c, t, l) → versionDue s c.job = true →
    c.chunks = [(r, b, n)] → c.src = .own so → c.dst = .own dst → c.slot = none → c.z = 0 → s.bad = [] → t.lost = [] → c.srow = c.drow →
    b + n ≤ c.drow → n % 16 = 0 → 8 ≤ dst → dst ≤ t.spadBytes → dst % 16 = 0 →
    let at' := dst + r * c.dstride + b
    let old := BitVec.ofNat 64 (leNat (t.spad.read (dst - 8) 8))
    (old ≠ c.ext → ∃ u, exec (.versionCommit c.job) s = .next u
      ∧ u.copy? c.job = some { c with chunks := [], reason := if c.reason = 0 then 3 else c.reason } ∧ { u with copies := s.copies } = s)
    ∧ (old = c.ext → at' + n ≤ t.spadBytes → ∃ u k, exec (.versionCommit c.job) s = .next u
      ∧ u.copy? c.job = some { c with chunks := [] } ∧ u.team? t.ref = some k
      ∧ leNat (k.spad.read (dst - 8) 8) = (c.ext + 1).toNat
      ∧ (∀ o, ¬(dst - 8 ≤ o ∧ o < dst) →
        k.spad.get o = if at' ≤ o ∧ o < at' + n then t.spad.get (so + r * c.sstride + b + (o - at')) else t.spad.get o)))
  ∧ (∀ (s : State) (c : Copy) (g : Group), s.copy? c.job = some c → completionDue s c.job = true → s.group? c.grp = some g → g.run ≠ .retired →
    ∃ u k, exec (.copyCompletion c.job) s = .next u ∧ u.group? g.ref = some k
      ∧ u.copies = s.copies.filter (fun d => d.job ≠ c.job) ∧ k.regs = g.regs ∧ k.qsets = g.qsets
      ∧ (∀ r, r ≠ g.ref → u.group? r = s.group? r) ∧ u.dram = s.dram ∧ u.hostMem = s.hostMem
      ∧ (c.slot = none → u.teams = s.teams)
      ∧ (c.step = false → k.batch.sealed
          = (g.batch.sealed.map fun b => { b with jobs := b.jobs.filter (· ≠ c.job) }).filter (fun b => b.jobs ≠ [])
        ∧ k.batch.openJobs = g.batch.openJobs.filter (· ≠ c.job)
        ∧ (c.outcome = 0 → k.batch.fail = g.batch.fail ∧ k.batch.reason = g.batch.reason)
        ∧ (c.outcome ≠ 0 → k.batch.reason = BitVec.ofNat 4 c.outcome ∧ (k.batch.openFail = true ↔ g.batch.openFail = true ∨ c.job ∈ g.batch.openJobs)
          ∧ ∀ b, g.batch.sealed.find? (fun b => b.jobs.contains c.job) = some b → k.batch.fail = g.batch.fail ||| 1#16 <<< b.num))
      ∧ (c.step = true → c.outcome ≠ 0 → k.batch.reason = BitVec.ofNat 4 c.outcome ∧ (c.slot = none → k.batch.armf = true))
      ∧ (∀ i t o, c.slot = some i → c.dst = .own o → s.team? c.team = some t →
        ((tget Stage.none t.stages (c.ext.extractLsb' 29 3).toNat).slotOf
          (tget Stage.none t.stages (c.ext.extractLsb' 29 3).toNat).low).released = false → ∃ m, u.team? c.team = some m
        ∧ let st := tget Stage.none t.stages (c.ext.extractLsb' 29 3).toNat
          let seq := (c.ext.extractLsb' 0 24).toNat
          leNat (m.spad.read (st.base + 8 * i) 8) = (if c.outcome = 0 then 2 * 2 ^ 24 else c.outcome % 16 * 2 ^ 28 + 3 * 2 ^ 24) + seq
          ∧ ∀ k, st.slots[i]? = some k → (tget Stage.none m.stages (c.ext.extractLsb' 29 3).toNat).slots[i]?
            = some ⟨if c.outcome = 0 then .filled else .failed, seq, c.outcome, k.released⟩))
  ∧ (∀ (s : State) (x : Iss) (h : Hold) (dest : W64) (n : Nat), s.issAt x.g.ref x.q.tag = some x → x.g.run = .run → x.mayRun = true →
    x.g.trap.waits = false → s.suspended x.t.core = false → x.q.hold = some h → h.kind = .cyield dest n → x.g.batch.sealed.length ≤ n →
    (s.headerAt x.t.core x.l.cid dest = true →
      ∃ t, exec (.cyieldWake x.g.ref x.q.tag) s = .next t ∧ t.group? x.g.ref = some (x.g.modQ x.q.tag fun q => q.goto dest)
        ∧ (∀ r, r ≠ x.g.ref → t.group? r = s.group? r) ∧ { t with groups := s.groups } = s)
    ∧ (s.headerAt x.t.core x.l.cid dest = false → exec (.cyieldWake x.g.ref x.q.tag) s = .next (s.raise x 2 dest 0)))
  ∧ (∀ (s : State) (c : Copy) (t : Team) (o : Nat), s.copy? c.job = some c → c.phase = .present → s.copyRuns c = true → c.dst = .own o →
    s.team? c.team = some t →
    let id := (c.ext.extractLsb' 29 3).toNat
    let n := (c.ext.extractLsb' 0 24).toNat
    let st := tget Stage.none t.stages id
    let ahead := (n + 2 ^ 24 - st.low % 2 ^ 24) % 2 ^ 24
    let good := st.depth ≠ 0 ∧ t.stepBuffer id = false ∧ o + (c.rows - 1) * c.dstride + c.drow ≤ st.slotBytes
    let ends (r : Nat) : Prop := ∃ u d, exec (.fillArrival (.copy c.job)) s = .next u ∧ u.copy? c.job = some d ∧ d.phase = .ended r
      ∧ u.groups = s.groups
    (st.depth = 0 ∨ t.stepBuffer id = true → ends 9)
    ∧ (st.depth ≠ 0 → t.stepBuffer id = false → st.slotBytes < o + (c.rows - 1) * c.dstride + c.drow → ends 6)
    ∧ (good → ahead < st.depth → (st.slotOf n).state ≠ .free → ends 7) ∧ (good → st.depth ≤ ahead → 2 ^ 23 ≤ ahead → ends 7)
    ∧ (good → st.depth ≤ ahead → ahead < 2 ^ 23 → ∃ u d, exec (.fillArrival (.copy c.job)) s = .next u ∧ u.copy? c.job = some d
      ∧ d.phase = .held ∧ d.waited = 0 ∧ u.groups = s.groups)
    ∧ (good → ahead < st.depth → (st.slotOf n).state = .free → ∃ u d k, exec (.fillArrival (.copy c.job)) s = .next u
      ∧ u.copy? c.job = some d ∧ d.phase = .moving ∧ d.slot = some (n % st.depth) ∧ u.groups = s.groups ∧ u.team? c.team = some k
      ∧ leNat (k.spad.read (st.base + 8 * (n % st.depth)) 8) = 2 ^ 24 + n))
  ∧ (∀ (s : State) (c : Copy), s.copy? c.job = some c → c.phase = .held → c.limit ≤ c.waited → s.lodge.drain = false →
    ∃ u, exec (.fillWindowTimeout c.job) s = .next u ∧ u.copy? c.job = some { c with phase := .ended 10 } ∧ u.groups = s.groups
      ∧ u.dram = s.dram ∧ u.hostMem = s.hostMem)
  ∧ ∀ (s : State) (c : Copy) (t : Team) (l : Launch) (p : Pacer), s.copyAt c.job = some (c, t, l) → c.phase = .armed → t.pacer = some p →
    (p.step - (c.ext >>> 32).setWidth 32).toNat < 2 ^ 31 → t.state ≠ .saved → t.state ≠ .ended → s.suspended c.core = false → s.lodge.drain = false →
    ∃ u, exec (.armedCopyFire c.job) s = .next u ∧ u.copy? c.job = some { c with phase := .present }
      ∧ { u with copies := s.copies } = s.acquireL1 c.core l.tid

/-- R266 to R269: the block-transfer channels. A doorbell of the device, once the store's turn has come, and one of the host join the queue
under the next sequence number; a full queue takes none of the host's. A channel takes its oldest doorbell when it is idle; a reserved bit, a
misaligned parameter offset and an index past the template count end the chain with TEMPLATE at that index, a 65th template with CHAIN; the
lines of a transfer are moved one in a step, whichever is named, and a failure ends the chain; a completion counts. Said byte by byte where L2
holds the lines: a template's words are checked and give the transfer its aligned 64-byte lines, and a line's bytes are FILL's pattern or
those of its source. -/
def Obligations.Channels : Prop :=
  (∀ (s : State) (g : Group) (f : Flight) (t : Team) (l : Launch) (a : LaneAcc) (va off : Nat), Turn s g f t l → isStore f.instr = true →
    f.left = [a] → a.target = .aperture va off → PacerStays s t →
    let c := s.channel l.tid (off / 4096)
    c.queue.length < 16 → ∃ u k, exec (.apertureDoorbellAccept g.ref f.fid) s = .next u ∧ u.group? g.ref = some k ∧ Gone g k f
      ∧ k.qsets = g.qsets ∧ k.regs = g.regs ∧ (∀ r, r ≠ g.ref → u.group? r = s.group? r)
      ∧ u.channel l.tid (off / 4096)
        = { c with issued := c.issued + 1, queue := c.queue ++ [BitVec.ofNat 64 (leNat (wordsBytes a.data))] }
      ∧ ∀ n, n ≠ off / 4096 → u.channel l.tid n = s.channel l.tid n)
  ∧ ∀ (s : State) (tid ch : Nat), (s.tenant tid).live = true →
    let c := s.channel tid ch
    let b := s.binding tid ch
    let x := s.xferCtx tid c.bind
    let others (u : State) : Prop := ∀ d n, (d ≠ tid ∨ n ≠ ch) → u.channel d n = s.channel d n
    (∀ data : W64, s.lodge.boot ≠ .failed → ch < (s.tenant tid).channels →
      (16 ≤ c.queue.length → exec (.hostDoorbell tid ch data) s = .next s)
      ∧ (c.queue.length < 16 → ∃ u, exec (.hostDoorbell tid ch data) s = .next u ∧ others u
        ∧ u.channel tid ch = { c with issued := c.issued + 1, queue := c.queue ++ [data] } ∧ { u with tenants := s.tenants } = s))
    ∧ (∀ line d rest, c.queue = d :: rest → c.busy = false → c.chain = none → s.lodge.drain = false →
      let bad := d.extractLsb' 48 16 ≠ 0 ∨ (d.extractLsb' 16 32).toNat % 8 ≠ 0
      let k : Chain := ⟨(d.extractLsb' 16 32).toNat, (d.extractLsb' 0 16).toNat, 0, false, none, 0, 0, 0, []⟩
      ∃ u, exec (.blockTransferChain tid ⟨ch, line⟩) s = .next u ∧ others u ∧ { u with tenants := s.tenants } = s
        ∧ u.channel tid ch = { c with
          queue := rest, busy := true, bind := b, chain := if bad then none else some k, result := if bad then some (11, k.idx) else c.result })
    ∧ (∀ line k, c.chain = some k → s.lodge.drain = false →
      let ends (u : State) (r idx : Nat) : Prop := u.channel tid ch = { c with chain := none, result := some (r, idx) }
      let still (u : State) : Prop := { u with tenants := s.tenants } = s
      ∃ u, exec (.blockTransferChain tid ⟨ch, line⟩) s = .next u ∧ others u ∧ u.groups = s.groups
        ∧ (k.loaded = false →
          (64 ≤ k.begun → ends u 12 k.idx ∧ still u)
          ∧ (k.begun < 64 → (c.bind.word1.extractLsb' 48 16).toNat ≤ k.idx → ends u 11 k.idx ∧ still u)
          ∧ (∀ w : Nat → W64, k.begun < 64 → k.idx < (c.bind.word1.extractLsb' 48 16).toNat →
            (∀ i, i < 4 → ReadsWord s tid x ((c.bind.word0.extractLsb' 0 48).toNat + 32 * k.idx + 8 * i) (w i)) →
            let kind := ((w 0).extractLsb' 0 4).toNat
            let bad := (w 0).extractLsb' 56 8 ≠ 0 ∨ (w 0).extractLsb' 4 12 ≠ 0 ∨ w 2 ≠ 0 ∨ w 3 ≠ 0 ∨ (kind ≠ 1 ∧ kind ≠ 2)
            let param (lo : Nat) : Nat := (c.bind.word1.extractLsb' 0 48).toNat + k.poff + 8 * ((w 0).extractLsb' lo 8).toNat
            (bad → ends u 11 k.idx)
            ∧ ∀ len dst src : W64, ¬bad → ReadsWord s tid x (param 48) len → ReadsWord s tid x (param 40) dst →
              (kind = 1 → ReadsWord s tid x (param 32) src) → (kind = 2 → src = 0) →
              let odd := len.toNat % 8 ≠ 0 ∨ dst.toNat % 8 ≠ 0 ∨ src.toNat % 8 ≠ 0
              (odd → ends u 13 k.idx)
              ∧ (¬odd → { u with tenants := s.tenants, l2 := s.l2 } = s ∧ ∃ ls, u.channel tid ch = { c with chain := some { k with
                  begun := k.begun + 1, loaded := true, pattern := if kind = 2 then some (w 1) else none, src := src.toNat
                  dst := dst.toNat, next := ((w 0).extractLsb' 16 16).toNat, lines := ls } }
                ∧ (∀ o, o < len.toNat ↔ ∃ p ∈ ls, p.1 ≤ o ∧ o < p.1 + p.2)
                ∧ (∀ p ∈ ls, 0 < p.2 ∧ (dst.toNat + p.1) / 64 = (dst.toNat + p.1 + p.2 - 1) / 64)
                ∧ ls.Pairwise fun p q => p.1 + p.2 ≤ q.1 ∧ (dst.toNat + p.1) / 64 < (dst.toNat + q.1) / 64)))
        ∧ (k.loaded = true → k.lines = [] →
          (k.next = 0xFFFF → ends u 0 0 ∧ still u)
          ∧ (k.next ≠ 0xFFFF → u.channel tid ch = { c with chain := some { k with idx := k.next, loaded := false } } ∧ still u))
        ∧ (k.loaded = true → k.lines ≠ [] →
          u.channel tid ch = { c with chain := some { k with lines := k.lines.eraseIdx (line % k.lines.length) } }
          ∨ ∃ r, r ≠ 0 ∧ ends u r k.idx)
        ∧ ∀ o n i va tia leaf l bs, k.loaded = true → k.lines[line % k.lines.length]? = some (o, n) → 0 < n → n % 8 = 0 → k.dst + o < 2 ^ 48 →
          x.place (k.dst + o) = some (i, .glob va tia) → (x.seg i 3).getLsbD 1 = true → tia < 2 ^ 48 → tia % 128 + n ≤ 128 →
          (s.translate tid tia).2 = .ok leaf → leaf.kind = 0 → s.l2.find? (fun l => l.gline = gia tid tia / 128) = some l →
          l.withheld = 0 → l.wp = true →
          (∀ p, k.pattern = some p → bs = (List.replicate (n / 8) (leBytes 8 p.toNat)).flatten) →
          (k.pattern = none → ∃ w : Nat → W64, bs = (List.range (n / 8)).flatMap (fun j => leBytes 8 (w j).toNat)
            ∧ ∀ j, j < n / 8 → ReadsWord s tid x (k.src + o + 8 * j) (w j)) →
          u.channel tid ch = { c with chain := some { k with lines := k.lines.eraseIdx (line % k.lines.length) } }
          ∧ HomeTakes u tid tia (bs.map some) ∧ { u with tenants := s.tenants, l2 := s.l2, tlb := s.tlb, atlb := s.atlb } = s)
    ∧ (c.result.isSome = true → s.lodge.drain = false → ∃ u, exec (.blockTransferComplete tid ch) s = .next u ∧ others u
      ∧ u.channel tid ch = { c with finished := c.finished + 1, busy := false, result := none } ∧ u.groups = s.groups)

/-! ## Paced mode -/

/-- R275 to R278, R283 to R288: PDONE waits for the group's accesses, makes the core's release, and arrives, or waits for the next step; the
team's last arrival makes FIN the step and sends it to who hears of it. PWAIT goes on once STEP is past its value, PFIN reads the copy of a
neighbour's FIN, both with the core's acquire. STEP advances when the team, those above and those below allow it; messages arrive in
order. An LDP that passes its checks is in flight in SB6, and lands the bytes of the producer's slot for its step; one whose slot has been
overtaken, or whose producer has ended, is a replay entry with STALE.
Which waits are bounded, and that a halted team does not advance, are the model's readings (log entries 48, 50). -/
def Obligations.PacedMode : Prop :=
  (∀ (s : State) (x : Iss) (p : Pacer), x.t.pacer = some p →
    let u := (s.prep x).releaseL1 x.t.core x.l.tid
    let had : W16 := tget 0 p.quads x.g.gix
    let late := p.fin = p.step ∨ x.q.quads &&& had ≠ 0
    let others := (s.groupsOf x.t.ref).filter fun k => k.ref ≠ x.g.ref
    let here (i : Instr) (t : State) (f : QSet → QSet) : Prop := exec i s = .next t ∧ t.group? x.g.ref = some (x.now.modQ x.q.tag f)
      ∧ ∀ r, r ≠ x.g.ref → t.group? r = s.group? r
    (Issues s x .pdone → x.q.hold = none →
      ((∃ f ∈ x.g.flights, f.fid < s.next ∧ f.accesses = true) → Waits .pdone s x (.drain s.next) false)
      ∧ ((∀ f ∈ x.g.flights, f.fid < s.next → f.accesses = false) →
        (late → ∃ t, here .pdone t (fun q => q.held (.pdone p.step.toNat) true x.g.regs.waitlim x.kept) ∧ Besides u t)
        ∧ (¬late → InQuads x.g.running (had ||| x.q.quads) → x.g.run = .run → x.g.running ≠ 0 → x.g.gix < 32 →
          (∀ k ∈ others, k.gix ≠ x.g.gix ∧ (k.run = .retired ∨ p.arrived.getLsbD k.gix = true)) → (∀ k ∈ s.groups, k.ref = x.g.ref → k = x.g) →
          ∃ t k q, here .pdone t QSet.advance ∧ t.team? x.t.ref = some k ∧ k.pacer = some q ∧ q.fin = p.step ∧ q.step = p.step
            ∧ q.arrived = 0 ∧ q.quads = []
            ∧ ∀ m, m ∈ t.finMsgs ↔ m ∈ s.finMsgs ∨ ∃ n ∈ t.teams, n.launch = x.t.launch ∧ hearsOf k n = true ∧ m = (n.ref, p.index, p.step.toNat))
        ∧ (¬late → (∃ k ∈ others, k.run ≠ .retired ∧ k.gix ≠ x.g.gix ∧ p.arrived.getLsbD k.gix = false ∧ ¬InQuads k.running (tget 0 p.quads k.gix)
            ∧ ∀ j ∈ s.groupsOf x.t.ref, j ≠ k → j.gix ≠ k.gix) →
          ∃ t k q, here .pdone t QSet.advance ∧ t.team? x.t.ref = some k ∧ k.pacer = some q ∧ q.fin = p.fin ∧ q.step = p.step
            ∧ tget 0 q.quads x.g.gix = had ||| x.q.quads ∧ t.finMsgs = s.finMsgs)))
    ∧ (∀ sa : BitVec 6, Issues s x (.pwait sa) →
      let v : W32 := (x.s sa.toNat).setWidth 32
      ((p.step - v).toNat < 2 ^ 31 → p.step ≠ v →
        ∃ t, here (.pwait sa) t QSet.advance ∧ Besides ((s.prep x).acquireL1 x.t.core x.l.tid) t)
      ∧ (¬((p.step - v).toNat < 2 ^ 31 ∧ p.step ≠ v) → Waits (.pwait sa) s x (.pwait v.toNat) true))
    ∧ (∀ sd sa : BitVec 6, Issues s x (.pfin sd sa) →
      let v := x.s sa.toNat
      let list := if v.getLsbD 3 then p.down else p.up
      let k := (v.extractLsb' 0 3).toNat
      (list.length ≤ k → Completes (.pfin sd sa) s x { scal := some (x.g.scalNo sd.toNat, BitVec.allOnes 64) })
      ∧ ∀ n, list[k]? = some n → ∃ t, Answers (.pfin sd sa) s x sd ((p.finOf n).setWidth 64) t
        ∧ Besides ((s.prep x).acquireL1 x.t.core x.l.tid) t)
    ∧ (∀ (vd va : BitVec 7) (ss : BitVec 5) (la : BitVec 4) (m : BitVec 2), let i := Instr.ldp vd va ss la m
      Issues s x i → ldpUndef vd.toNat ss.toNat m.toNat x s = false →
      let ex := x.exec m.toNat
      let w := x.s ss.toNat
      let n := 2 ^ (w.extractLsb' 42 2).toNat
      let offs := ((List.range 64).filter fun l => bit ex l).map fun l => (l, (x.r va l).toNat)
      let bad := w.extractLsb' 44 20 ≠ 0 ∨ w.extractLsb' 35 7 ≠ 0 ∨ w.extractLsb' 42 2 = 3
        ∨ (if x.g.hlevel = 0 then vd.toNat % n ≠ 0 else ldpAligned x vd.toNat w = false)
      (ex = 0 → GoesOn i s x)
      ∧ (ex ≠ 0 → (bad → Traps i s x 6 0 14) ∧ (¬bad → p.up.length ≤ (w.extractLsb' 32 3).toNat → Traps i s x 6 0 15)
        ∧ (ldpCheck x s vd.toNat w offs = none → ∃ t g f, exec i s = .next t ∧ InFlight i s t x g f ∧ f.exec = ex ∧ f.look = la.toNat
          ∧ f.slot = 6 ∧ f.opnds = [w] ∧ f.accs.map (·.lane) = offs.map (·.1) ∧ (∀ a ∈ f.accs, ∃ o, a.target = .matrix 15 o ∧ (a.lane, o) ∈ offs)
          ∧ (x.g.hlevel = 0 → f.file = .lane ∧ f.dst = vd.toNat ∧ f.ndst = n)))))
  ∧ (∀ (s : State) (t : Team) (p : Pacer), s.team? t.ref = some t → t.pacer = some p →
    (t.state = .running → s.lodge.drain = false → s.suspended t.core = false → (∃ g ∈ s.groupsOf t.ref, g.run ≠ .retired) → p.fin = p.step →
      (∀ n ∈ p.up, (p.finOf n - p.step).toNat < 2 ^ 31) →
      (∀ n ∈ p.down, (p.finOf n - (p.step + 1 - BitVec.ofNat 32 p.window)).toNat < 2 ^ 31) →
      ∃ u, exec (.stepAdvance t.ref) s = .next u ∧ u.team? t.ref = some { t with pacer := some { p with step := p.step + 1 } }
        ∧ (∀ r, r ≠ t.ref → u.team? r = s.team? r) ∧ { u with teams := s.teams } = s)
    ∧ (p.fin ≠ p.step → exec (.stepAdvance t.ref) s = .next s)
    ∧ ∀ before src fin after, s.lodge.drain = false → s.finMsgs = before ++ (t.ref, src, fin) :: after → (∀ m ∈ before, ¬(m.1 = t.ref ∧ m.2.1 = src)) →
      ∃ u k q, exec (.finMessage t.ref src) s = .next u ∧ u.finMsgs = before ++ after ∧ u.team? t.ref = some k ∧ k.pacer = some q
        ∧ q.finOf src = BitVec.ofNat 32 fin ∧ (∀ n, n ≠ src → q.finOf n = p.finOf n) ∧ { q with copies := p.copies } = p)
  ∧ ∀ (s : State) (g : Group) (f : Flight) (t : Team) (l : Launch) (p pq : Pacer) (q : Team) (w : W64),
    s.ldpAt g.ref f.fid = some (f, t, l, p, q, w) → s.group? g.ref = some g → ldpDue s g.ref f.fid = true → q.pacer = some pq →
    g.trap.replay = [] → (∀ b ∈ g.busy, b.fid = f.fid → b.hit = 0) → (f.accs.map (·.lane)).Nodup → f.failed = 0 → PacerStays s t →
    (∀ a ∈ f.accs, a.lane < 64 ∧ a.last = true ∧ a.reg = 0 ∧ ∃ o, a.target = .matrix 15 o) →
    let base := pq.sbbase + 64 + (w.setWidth 32).toNat % pq.window * pq.sbslot
    let stale := q.state = .ended ∨ (pq.step - (w.setWidth 32 + BitVec.ofNat 32 pq.window)).toNat < 2 ^ 31
    ∃ u k, exec (.ldpPortRead g.ref f.fid) s = .next u ∧ u.group? g.ref = some k ∧ (∀ r, r ≠ g.ref → u.group? r = s.group? r) ∧ TeamAside s u t
      ∧ (¬stale → s.bad = [] → q.lost = [] → pq.loose = [] → f.inLanes g → Gone g k f ∧ k.qsets = g.qsets
        ∧ Landed g k f f.left (fun a => match a.target with
          | .matrix _ o => bytesWords (q.spad.read (base + o) (4 * 2 ^ (w.extractLsb' 42 2).toNat))
          | _ => []))
      ∧ (stale → f.left ≠ [] → f.trap = none → g.run ≠ .retired → Gone g k f ∧ k.qsets = g.qsets ∧ k.regs = g.regs ∧ ∃ e, k.trap.replay = [e]
        ∧ e.fid = f.fid ∧ e.instr = f.instr ∧ e.done = f.done
        ∧ e.trap = some ⟨7, f.pc, (w.setWidth 32).setWidth 64,
          BitVec.ofNat 64 ((w.extractLsb' 32 3).toNat + if q.state = .ended then 8 else 0), f.tag, false⟩)

/-! ## Frames -/

/-- R313, R323, R324, R326 to R330: the frame instructions. Each waits for the group's stores and atomics, FRESUME for all its accesses. FRETYPE answers
the first status that applies with USE and GEN, and only with 0 has it retyped the frame, whose lines, translations and code are then gone, and whose
bytes are 0 in a table; FINFO answers word 0 of the descriptor; FHARVEST reports and clears the dirty bits, and raises LAYOUT for a count that is not
1 to 64; an allotment entry that fails its check kills the group; FRESUME wakes the party of the record that its token names, once. That FHARVEST
waits before it looks at its count is the model's reading (log entry 52), and that FREE to FREE answers 4 for a DAMAGED frame too is its choice (log
entry 90). -/
def Obligations.FrameInstructions : Prop :=
  ∀ (s : State) (x : Iss) (sd sa sb : BitVec 6), x.q.hold = none →
    let a := x.s sa.toNat
    let b := x.s sb.toNat
    let stores := ∃ f ∈ x.g.flights, f.fid < s.next ∧ isWriteAccess f.instr = true
    let accs := ∃ f ∈ x.g.flights, f.fid < s.next ∧ f.accesses = true
    let killed (i : Instr) (u p : Nat) : Prop := exec i s = .next (((s.prep x).detected u p 2 0).killGroup x.g.ref)
    (Issues s x (.fretype sd sa sb) →
      let i := Instr.fretype sd sa sb
      (stores → Waits i s x (.drain s.next) false)
      ∧ (¬stores → ∀ u p, s.operandFails x.l.tid a = some (u, p) → killed i u p)
      ∧ (¬stores → s.operandFails x.l.tid a = none → s.resolve x.l.tid a = none →
        Completes i s x { scal := some (x.g.scalNo sd.toNat, 5) })
      ∧ (¬stores → ∀ f, s.resolve x.l.tid a = some f →
        let d := s.frame f
        let ty := (b.extractLsb' 0 4).toNat
        let pair := (d.ftype, ty) ∈ [(0, 1), (0, 2), (0, 3), (0, 4), (0, 5), (1, 0), (1, 2), (2, 0), (2, 1), (3, 0), (4, 0), (5, 0)]
        let st := if b.extractLsb' 4 60 ≠ 0 ∨ ¬pair then 4 else if d.damaged = true ∧ ty ≠ 0 then 6 else if d.use ≠ 0 then 1
          else if d.pin ≠ 0 then 2 else if 3 ≤ d.ftype ∧ d.ftype ≤ 5 ∧ s.nvalid f ≠ 0 then 3 else 0
        ∃ t, Answers i s x sd (BitVec.ofNat 64 (st + d.use % 65536 * 2 ^ 32 + (if st = 0 then d.gen + 1 else d.gen).toNat * 2 ^ 48)) t
          ∧ (st ≠ 0 → { t with groups := s.groups, free := s.free } = s)
          ∧ (st = 0 → (t.frame f).ftype = ty ∧ (t.frame f).gen = d.gen + 1 ∧ (t.frame f).owner = d.owner ∧ (t.frame f).use = 0
            ∧ (∀ k, k ≠ f → (t.frame k).ftype = (s.frame k).ftype ∧ (t.frame k).gen = (s.frame k).gen)
            ∧ (∀ n ∈ t.l2, n.stamp ≠ f) ∧ (∀ e ∈ t.tlb, e.frame = f → e.host = true) ∧ (∀ c, (∃ l ∈ s.sil, l.die = c / 48 ∧ l.mline / 512 = f) → ∀ n ∈ (t.coreOf c).ic, n.frame ≠ f)
            ∧ (3 ≤ ty → ∀ o, o < 65536 → t.dram.get (f * 65536 + o) = 0))))
    ∧ (Issues s x (.finfo sd sa) →
      let i := Instr.finfo sd sa
      (stores → Waits i s x (.drain s.next) false)
      ∧ (¬stores → ∀ u p, s.operandFails x.l.tid a = some (u, p) → killed i u p)
      ∧ (¬stores → s.operandFails x.l.tid a = none → s.resolve x.l.tid a = none →
        Completes i s x { scal := some (x.g.scalNo sd.toNat, BitVec.allOnes 64) })
      ∧ (¬stores → ∀ f, s.resolve x.l.tid a = some f → ∃ v : W64, Completes i s x { scal := some (x.g.scalNo sd.toNat, v) }
        ∧ (let d := s.frame f
          v.extractLsb' 60 4 = BitVec.ofNat 4 d.ftype ∧ v.extractLsb' 54 6 = BitVec.ofNat 6 d.owner ∧ v.extractLsb' 38 16 = BitVec.ofNat 16 d.use
          ∧ v.extractLsb' 22 16 = BitVec.ofNat 16 d.pin ∧ v.getLsbD 21 = d.dirty ∧ v.getLsbD 20 = d.damaged
          ∧ v.getLsbD 19 = d.retyping ∧ v.extractLsb' 16 3 = 0 ∧ v.extractLsb' 0 16 = d.gen)))
    ∧ (Issues s x (.fharvest sd sa sb) →
      let i := Instr.fharvest sd sa sb
      let of (k : Nat) : Option Nat := s.resolve x.l.tid (a + BitVec.ofNat 64 k)
      let kept (f : Nat) : Prop := (s.frame f).ftype = 1 ∨ (s.frame f).ftype = 2
      (stores → Waits i s x (.drain s.next) false)
      ∧ (¬stores → b = 0 ∨ 64 < b.toNat → Traps i s x 6 0 16)
      ∧ (¬stores → b ≠ 0 → b.toNat ≤ 64 → (∀ j k f, j < b.toNat → k < b.toNat → of j = some f → of k = some f → j = k) →
        (∀ k, k < b.toNat → s.operandFails x.l.tid (a + BitVec.ofNat 64 k) = none) → ∃ t v, Answers i s x sd v t
          ∧ (∀ k, k < 64 → (v.getLsbD k = true ↔ k < b.toNat ∧ ∃ f, of k = some f ∧ kept f ∧ (s.frame f).dirty = true))
          ∧ ∀ k f, k < b.toNat → of k = some f → kept f → (t.frame f).dirty = false))
    ∧ (Issues s x (.fresume sd sa) →
      let i := Instr.fresume sd sa
      let u := (s.prep x).releaseL1 x.t.core x.l.tid
      let named (r : FaultRec) : Prop := r.token = (a.extractLsb' 0 32).toNat
      (accs → Waits i s x (.drain s.next) false)
      ∧ (¬accs → a.extractLsb' 32 32 ≠ 0 ∨ (∀ r ∈ (s.tenant x.l.tid).recs, ¬named r) → ∃ t, Answers i s x sd 1 t ∧ Besides u t)
      ∧ (¬accs → a.extractLsb' 32 32 = 0 → ∀ before r after, (s.tenant x.l.tid).recs = before ++ r :: after → (∀ k ∈ before, ¬named k) → named r →
        (s.waits r = false → ∃ t, Answers i s x sd 1 t ∧ ∀ k ∈ (t.tenant x.l.tid).recs, ¬named k)
        ∧ (∀ c, r.what = .copy c → s.waits r = true → ∃ t d, Answers i s x sd 0 t ∧ t.copy? c = some d ∧ d.phase = .moving
          ∧ ∀ k ∈ (t.tenant x.l.tid).recs, ¬named k)
        ∧ (∀ n, r.what = .launch n → s.waits r = true → ∃ t l, Answers i s x sd 0 t ∧ t.launch? n = some l ∧ l.waiting = false
          ∧ ∀ k ∈ (t.tenant x.l.tid).recs, ¬named k)
        ∧ (∀ n, r.what = .group n ∨ r.what = .load n → n ≠ x.g.ref → s.waits r = true → ∃ t g k, exec i s = .next t
          ∧ t.group? x.g.ref = some g ∧ g.q? x.q.tag = some x.q.advance ∧ ({ scal := some (x.g.scalNo sd.toNat, 0) } : Effect).Done x g
          ∧ t.group? n = some k ∧ k.trap.parked = false ∧ ∀ e ∈ (t.tenant x.l.tid).recs, ¬named e)))

/-- R294, R296, R299, R301, R308, R314, R316 to R321, R387: translation and admission. A walk that succeeds leaves a translation in the home
slice's frame-TLB, with the allotment entries that it read, and nothing else; one that fails leaves nothing; a store at a table's view that
passes the checks of R317 writes its entry and counts its target, one that does not writes nothing; the acknowledgement drops every trace
of the pages that the old entry governed and the count of the target that it had, and lets an ADMIT command go on that waited; the host's writes of the root, of the fault queue and of a segment.
One step for a walk and for a shootdown is the model's reading (log entries 27, 28). -/
def Obligations.FrameSteps : Prop :=
  (∀ (s : State) (tid tia : Nat), (s.tenant tid).live = true →
    let line := gia tid tia / 128
    let hit := ∃ e ∈ s.tlb, e.tid = tid ∧ e.page = tia / 65536 ∧ sameSlice e.home line = true
    ∃ u, exec (.translationWalk tid tia) s = .next u ∧ { u with tlb := s.tlb, atlb := s.atlb } = s
      ∧ (hit → u = s)
      ∧ (¬hit → match s.walk line tid tia with
        | .ok (_, l) => s.tlb.length + s.atlb.length + 5 ≤ 2048 →
          u.tlb = ⟨line, tid, tia / 65536, l.frame, l.kind, l.w, l.nc, l.host⟩ :: s.tlb
          ∧ ∀ e ∈ u.atlb, e ∈ s.atlb ∨ e.home = line ∧ e.tid = tid ∧ s.allotRead tid e.tan = .ok e.word
        | .error _ => u = s))
  ∧ (∀ (s : State) (g : Group) (f : Flight) (t : Team) (l : Launch) (a : LaneAcc) (rest : List LaneAcc) (leaf : Leaf), Turn s g f t l →
    admissionDue s g.ref f.fid = true → s.admitLanes f l.tid = a :: rest → (s.translate l.tid a.target.tia).2 = .ok leaf →
    let idx := a.target.tia % 65536 / 8
    let new := BitVec.ofNat 64 (leNat (wordsBytes a.data))
    let fails := s.admitFails l.tid leaf.frame idx new
    let refusal := s.admitRefusal l.tid leaf.frame idx new
    ∃ u, exec (.tableStoreAdmission g.ref f.fid) s = .next u
      ∧ (fails ≠ none ∨ refusal ≠ none → u.dram = s.dram ∧ u.frames = s.frames ∧ u.adms = s.adms ∧ u.l2 = s.l2)
      ∧ (fails = none → refusal = none → new ≠ s.pte leaf.frame idx → ∃ p,
        u.pte leaf.frame idx = new ∧ (∀ c i, i < 8192 → (c ≠ leaf.frame ∨ i ≠ idx) → u.pte c i = s.pte c i)
        ∧ u.adms = s.adms ++ [⟨s.next, l.tid, leaf.frame, idx, s.pte leaf.frame idx, new, p, some (a.target.tia / 65536), some (g.ref, f.fid), a.lane,
          s.target l.tid (s.pte leaf.frame idx)⟩]
        ∧ u.groups = s.groups
        ∧ ∀ k, (u.frame k).use = (s.frame k).use + if s.target l.tid new = some k then 1 else 0)
      ∧ (fails = none → refusal = none → new = s.pte leaf.frame idx → f.left = [a] → f.failed = 0 →
        (∀ b ∈ g.busy, b.fid = f.fid → b.hit = 0) → PacerStays s t → ∃ k,
        u.group? g.ref = some k ∧ Gone g k f ∧ k.regs = g.regs ∧ u.dram = s.dram ∧ u.frames = s.frames ∧ u.adms = s.adms))
  ∧ (∀ (s : State) (a : Admission), s.adms.find? (fun b => b.adm = a.adm) = some a → s.ackDue a = true → ∃ u,
    exec (.admissionAcknowledge a.adm) s = .next u
    ∧ ((s.tenant a.tid).fcwait = none → u.adms = s.adms.filter (fun b => b.adm ≠ a.adm)
      ∧ ∀ k, (u.frame k).use = (s.frame k).use - if a.gone = some k then 1 else 0)
    ∧ (∀ k, (s.tenant a.tid).fcwait = some k →
      (u.tenant a.tid).fcwait = none ∨ (u.tenant a.tid).fcwait = some k ∧ u.admitFree a.tid k = false)
    ∧ (∀ e ∈ u.tlb, e.tid = a.tid → e.page ∉ a.pages) ∧ (∀ n ∈ u.l2, glineTid n.gline = a.tid → glineTia n.gline / 65536 ∉ a.pages)
    ∧ (∀ c, ∀ n ∈ (u.coreOf c).l1, glineTid n.gline = a.tid → glineTia n.gline / 65536 ∉ a.pages)
    ∧ (a.src = none → u.groups = s.groups))
  ∧ ∀ (s : State) (tid : Nat) (w : W64), (s.tenant tid).live = true → s.lodge.boot ≠ .failed →
    let t := s.tenant tid
    let on (u : State) (k : Tenant) : Prop := u.tenant tid = k ∧ ∀ d, d ≠ tid → u.tenant d = s.tenant d
    (∃ u, exec (.faultQueueBind tid w) s = .next u ∧ on u { t with faultq := w &&& 0x8007FFFFFFFFFFFF, nextRec := 0 }
      ∧ { u with tenants := s.tenants } = s)
    ∧ (let wanted := s.resolve tid (w &&& 0x3FFFFF)
      let fit := ∃ f, wanted = some f ∧ (s.frame f).ftype = 5 ∧ ∀ l ∈ s.launches, l.tid = tid → l.state = .complete
      (¬fit → ∃ u, exec (.tenantRootWrite tid w) s = .next u ∧ on u { t with rerr := true } ∧ { u with tenants := s.tenants } = s)
      ∧ (fit → ∃ u, exec (.tenantRootWrite tid w) s = .next u
        ∧ on u { t with rv := w.getLsbD 63, root := (w.extractLsb' 0 22).toNat, rerr := t.rerr && !w.getLsbD 62 }
        ∧ (∀ e ∈ u.tlb, e.tid ≠ tid) ∧ (∀ e ∈ u.atlb, e.tid ≠ tid) ∧ (∀ e ∈ s.tlb, e.tid ≠ tid → e ∈ u.tlb)
        ∧ (t.rv = false → ∀ f, (u.frame f).use = (s.frame f).use + if w.getLsbD 63 = true ∧ wanted = some f then 1 else 0)
        ∧ u.dram = s.dram ∧ u.groups = s.groups))
    ∧ ∀ (k seg : Nat), s.ctxOn tid k = true → seg < 16 →
      let cid := 4 * tid + k
      let c := s.ctx cid
      let v := w &&& 0x800000FF00000707
      let st (j : Nat) : W64 := tget 0 c.stage (4 * seg + j)
      ∃ u r, exec (.segmentCommit tid k seg w) s = .next u ∧ { u with tenants := s.tenants } = s
        ∧ (s.ctxBusy cid = true → u.ctx cid = { c with err := true })
        ∧ (s.ctxBusy cid = false → (u.ctx cid).err = (r || c.err) ∧ (r = true → v.getLsbD 63 = true)
          ∧ (∀ j, j < 3 → (u.ctx cid).seg seg j = st j)
          ∧ (u.ctx cid).seg seg 3 = (if r then v &&& 0x7FFFFFFFFFFFFFFF else v)
          ∧ ∀ i j, i ≠ seg → j < 4 → (u.ctx cid).seg i j = c.seg i j)

/-! ## The host -/

/-- R386, R384, R387: the commands of FCMD and the registers of a function. A command that is written while one runs sets ERR and does nothing
else; otherwise it does what the frame instruction of its name does, with the result in FCRES: 0xFFFF_FFFF_FFFF_FFFF for a harvest of a bad
count, [11:8] for a refused entry, bit 63 with 1, 2 or 3 for a refused grant, 2 or 1 for a refused return. A grant takes the lowest invalid
TAN, and a free machine allotment of the Lodge's choice; grant and return write the tenant's allotment array in DRAM; an ADMIT to a line whose
admission is not acknowledged starts and waits. A write of a register changes that register; read-only ones ignore it. A function without a
tenancy, a misaligned access and one of another size are answered with Unsupported Request, and nothing changes.
The operand that names the allotment is the model's (log entry 62), and what a command does whose operand cannot be read (log entry 118). -/
def Obligations.HostCommands : Prop :=
  (∀ (s : State) (tid n off man : Nat) (w : W64) (acc : WindowAcc), (s.tenant tid).live = false ∨ s.lodge.boot = .failed →
    (∀ i ∈ [Instr.retype tid w, .info tid w, .harvest tid w, .admitEntry tid w, .resume tid w, .grant tid w man, .returnAllot tid w,
        .registerWrite tid off w, .tenantRootWrite tid w, .faultQueueBind tid w, .segmentCommit tid n off w, .launchRingDoorbell tid n w,
        .hostDoorbell tid n w, .hostWindowAccess tid off acc, .debugHaltRequest tid n w, .debugResume tid n w],
      exec i s = .next { s with hostReply := .unsupported })
    ∧ s.bar0Read tid off n = .unsupported)
  ∧ ∀ (s : State) (tid : Nat) (w : W64), (s.tenant tid).live = true → s.lodge.boot ≠ .failed →
    let k := s.tenant tid
    let on (u : State) (t : Tenant) : Prop := u.tenant tid = t ∧ (∀ d, d ≠ tid → u.tenant d = s.tenant d) ∧ { u with tenants := s.tenants } = s
    let err := k.fcerr && !w.getLsbD 62
    let op := (w.extractLsb' 0 4).toNat
    let u := if w.getLsbD 62 then s.modTenant tid fun t => { t with fcerr := false } else s
    let busy := k.fcwait ≠ none ∨ ∃ a ∈ s.adms, a.tid = tid ∧ a.src = none
    let ran (i : Instr) (f : State) (res : W64) : Prop := ∃ t, exec i s = .next t
      ∧ t.tenant tid = { f.tenant tid with fcop := op, fcres := res, fcerr := err } ∧ (∀ d, d ≠ tid → t.tenant d = f.tenant d)
      ∧ { t with tenants := f.tenants } = f
    (busy → ∀ i ∈ [Instr.retype tid w, .info tid w, .harvest tid w, .admitEntry tid w, .resume tid w, .returnAllot tid w],
      (i = .retype tid w → op = 1) → (i = .info tid w → op = 2) → (i = .harvest tid w → op = 3) → (i = .admitEntry tid w → op = 4) →
      (i = .resume tid w → op = 5) → (i = .returnAllot tid w → op = 7) → ∃ t, exec i s = .next t ∧ on t { k with fcerr := true })
    ∧ (busy → op = 6 → ∀ man, ∃ t, exec (.grant tid w man) s = .next t ∧ on t { k with fcerr := true })
    ∧ (¬busy →
      (op = 1 → let r := (u.cmdReads tid [k.fcarg0]).retype tid k.fcarg0 k.fcarg1
        ran (.retype tid w) r.1 r.2)
      ∧ (op = 2 → ran (.info tid w) (u.cmdReads tid [k.fcarg0]) (u.finfo tid k.fcarg0))
      ∧ (op = 3 → (k.fcarg1 = 0 ∨ 64 < k.fcarg1.toNat → ran (.harvest tid w) u 0xFFFFFFFFFFFFFFFF)
        ∧ (k.fcarg1 ≠ 0 → k.fcarg1.toNat ≤ 64 →
          let r := (u.cmdReads tid (frameRun k.fcarg0 k.fcarg1)).harvest tid k.fcarg0 k.fcarg1.toNat
          ran (.harvest tid w) r.1 r.2))
      ∧ (op = 5 → ran (.resume tid w) (u.resumeToken tid k.fcarg0).1 (u.resumeToken tid k.fcarg0).2)
      ∧ (op = 4 →
        let i := k.fcarg1.toNat
        (s.admitFree tid (k.fcarg0, k.fcarg1, k.fcarg2) = false → ∃ t, exec (.admitEntry tid w) s = .next t
          ∧ on t { k with fcwait := some (k.fcarg0, k.fcarg1, k.fcarg2), fcop := op, fcerr := err })
        ∧ (s.resolve tid k.fcarg0 = none → ran (.admitEntry tid w) (u.cmdReads tid [k.fcarg0]) 0xB00)
        ∧ ∀ f, s.resolve tid k.fcarg0 = some f → (∀ a ∈ s.adms, a.frame = f → a.index / 16 ≠ i / 16) →
          ((s.frame f).ftype < 3 ∨ 5 < (s.frame f).ftype ∨ 8192 ≤ i → ran (.admitEntry tid w) u 0xB00)
          ∧ (3 ≤ (s.frame f).ftype → (s.frame f).ftype ≤ 5 → i < 8192 →
            (∀ a b, s.admitFails tid f i k.fcarg2 = some (a, b) → ran (.admitEntry tid w) (u.detected a b 0 0) 0xB00)
            ∧ (s.admitFails tid f i k.fcarg2 = none →
              (∀ r, s.admitRefusal tid f i k.fcarg2 = some r → ran (.admitEntry tid w) u (BitVec.ofNat 64 (256 * r)))
              ∧ (s.admitRefusal tid f i k.fcarg2 = none → k.fcarg2 = s.pte f i → ran (.admitEntry tid w) u 0)
              ∧ (s.admitRefusal tid f i k.fcarg2 = none → k.fcarg2 ≠ s.pte f i → ∃ t p, exec (.admitEntry tid w) s = .next t
                ∧ t.pte f i = k.fcarg2 ∧ (∀ c j, j < 8192 → (c ≠ f ∨ j ≠ i) → t.pte c j = s.pte c j) ∧ (t.tenant tid).fcres = 0
                ∧ t.adms = s.adms ++ [⟨s.next, tid, f, i, s.pte f i, k.fcarg2, p, none, none, 0, s.target tid (s.pte f i)⟩]
                ∧ ∀ c, (t.frame c).use = (s.frame c).use + if s.target tid k.fcarg2 = some c then 1 else 0))))
      ∧ (op = 6 → ∀ man tan : Nat, (∀ j, j < tan → ∀ e, s.allotRead tid j = .ok e → e.getLsbD 31 = true) →
        (tan = k.alen ∨ tan < k.alen ∧ ∃ e, s.allotRead tid tan = .ok e ∧ e.getLsbD 31 = false) →
        let place := k.allotAddr tan
        let got (t : State) (host : Bool) (m : Nat) : Prop :=
          t.tenant tid = { k with
            alen := max k.alen (tan + 1), held := k.held + 1, fcop := op, fcerr := err, fcres := BitVec.ofNat 64 tan }
          ∧ (∀ d, d ≠ tid → t.tenant d = s.tenant d)
          ∧ t.dram.read place 4 = leBytes 4 (2 ^ 31 + (if host then 2 ^ 30 else 0) + m)
          ∧ ∀ c, c < place ∨ place + 4 ≤ c → t.dram.get c = s.dram.get c
        let ok := ∃ e, s.allotRead tid tan = .ok e
        (k.quota ≤ k.held → ran (.grant tid w man) u 0x8000000000000001)
        ∧ (∀ e, k.held < k.quota → k.fcarg0.getLsbD 0 = true ∨ s.allotFree man = true → s.allotRead tid tan = .error e →
          ran (.grant tid w man) (u.met e) 0x8000000000000002)
        ∧ (k.held < k.quota → ok → k.fcarg0.getLsbD 0 = true →
          (k.hostCount ≤ k.fcarg1.toNat ∨ 131072 ≤ k.fcarg1.toNat → ran (.grant tid w man) u 0x8000000000000003)
          ∧ (k.fcarg1.toNat < k.hostCount → k.fcarg1.toNat < 131072 → place % 4 = 0 → ∃ t,
            exec (.grant tid w man) s = .next t ∧ got t true k.fcarg1.toNat ∧ { t with tenants := s.tenants, dram := s.dram } = s))
        ∧ (trising none s.tenants = true → k.held < k.quota → ok → k.fcarg0.getLsbD 0 = false →
          (s.allotFree man = false → s.noneFree = true → ran (.grant tid w man) u 0x8000000000000002)
          ∧ (s.allotFree man = true → place % 4 = 0 → ∃ t,
            exec (.grant tid w man) s = .next t ∧ got t false man
            ∧ (∀ i, i < 32 → t.frame (man * 32 + i) = { s.frame (man * 32 + i) with ftype := 0, owner := tid, otfn := tan * 32 + i })
            ∧ (∀ f, f / 32 ≠ man → t.frame f = s.frame f)
            ∧ { t with tenants := s.tenants, frames := s.frames, dram := s.dram } = s)))
      ∧ (op = 7 →
        let tan := k.fcarg0.toNat
        let place := k.allotAddr tan
        (k.alen ≤ tan → ran (.returnAllot tid w) u 2)
        ∧ (∀ a b, tan < k.alen → s.allotRead tid tan = .error (.abort a b) → ran (.returnAllot tid w) (u.detected a b 0 0) 2)
        ∧ ∀ e, tan < k.alen → s.allotRead tid tan = .ok e →
          let host := e.getLsbD 30
          let man := (e.extractLsb' 0 17).toNat
          let idle := ∀ i, i < 32 → (s.frame (man * 32 + i)).ftype = 0 ∧ (s.frame (man * 32 + i)).use = 0 ∧ (s.frame (man * 32 + i)).pin = 0
          (e.getLsbD 31 = false → ran (.returnAllot tid w) u 2)
          ∧ (e.getLsbD 31 = true → host = false → ¬idle → ran (.returnAllot tid w) u 1)
          ∧ (e.getLsbD 31 = true → (host = false → idle) → place % 4 = 0 → ∃ t, exec (.returnAllot tid w) s = .next t
            ∧ t.tenant tid = { k with held := k.held - 1, fcop := op, fcerr := err, fcres := 0 }
            ∧ (∀ d, d ≠ tid → t.tenant d = s.tenant d)
            ∧ t.dram.read place 4 = [0, 0, 0, 0] ∧ (∀ c, c < place ∨ place + 4 ≤ c → t.dram.get c = s.dram.get c)
            ∧ (∀ n ∈ t.tlb, n.tid = tid → n.host = host → n.frame / 32 ≠ man) ∧ (∀ n ∈ t.atlb, n.tid = tid → n.tan ≠ tan)
            ∧ (∀ f, t.frame f = if host = false ∧ f / 32 = man then { s.frame f with owner := 0, otfn := 0 } else s.frame f)
            ∧ { t with tenants := s.tenants, frames := s.frames, tlb := s.tlb, atlb := s.atlb, dram := s.dram } = s)))
    ∧ (let put (off : Nat) (t : Tenant) : Prop := ∃ v, exec (.registerWrite tid off w) s = .next v ∧ on v t
      put 0x10 { k with hwbase := (w &&& 0x8000FFFFC0000000) ||| (k.hwbase &&& 0x4000000000000000 &&& ~~~w) }
      ∧ put 0x180 { k with fcarg0 := w } ∧ put 0x188 { k with fcarg1 := w } ∧ put 0x190 { k with fcarg2 := w }
      ∧ (op = 0 → put 0x198 { k with fcerr := err }) ∧ (8 ≤ op → put 0x198 { k with fcerr := true })
      ∧ (∀ j, j < 4 → put (0x3000 + 8 * j) { k with msix := tset 0 k.msix j w })
      ∧ (∀ off, off % 8 ≠ 0 → exec (.registerWrite tid off w) s = .next { s with hostReply := .unsupported })
      ∧ (∀ off n, off % 8 ≠ 0 ∨ n ≠ 8 → s.bar0Read tid off n = .unsupported)
      ∧ (∀ off, off % 8 = 0 → s.bar0Read tid off 8 = .data (leBytes 8 (s.readBar0 tid off).toNat))
      ∧ (∀ off ∈ [0x0, 0x8, 0x18, 0x40, 0x48, 0x50, 0x58, 0x60, 0x68, 0x70, 0x108, 0x110, 0x1A0], put off k)
      ∧ ∀ c, s.ctxOn tid c = true →
        let cid := 4 * tid + c
        let own (off : Nat) (x : Ctx) : Prop := ∃ v, exec (.registerWrite tid (0x4000 + 0x400 * c + off) w) s = .next v
          ∧ v.ctx cid = (if s.ctxBusy cid then { s.ctx cid with err := true } else x)
          ∧ (∀ d, d ≠ cid → v.ctx d = s.ctx d) ∧ { v with tenants := s.tenants } = s
        own 0x200 { s.ctx cid with err := (s.ctx cid).err && !w.getLsbD 63, rt := w.getLsbD 0 }
        ∧ own 0x208 { s.ctx cid with waitlim := w.setWidth 32 } ∧ own 0x210 { s.ctx cid with lockq := min 512 (w.extractLsb' 0 10).toNat }
        ∧ own 0x218 { s.ctx cid with eha := w &&& 0xFFFFFFFFFFFF } ∧ own 0x220 { s.ctx cid with trh := w &&& 0xFFFFFFFFFFFF }
        ∧ own 0x228 { s.ctx cid with ems := w &&& 0xFFFFFFFFFFFF })

/-- R385, R389, R166, R16 to R18, R176, R113, R114, R97: what reaches lines and clauses from outside an instruction. The host's window: closed,
without a translation or refused it sets WERR, a read being aborted; otherwise a read answers the bytes and changes nothing but caches, and a write puts its enabled bytes into L2. A
request of another package acts under the tenant that the import table gives, an atomic answering the old value; a HOST leaf serves neither. A fill merges a line into
L1; write permission comes from L2, which marks the frame dirty. A clause is buffered or raises CLAUSE or PERM. Of the quad-sets whose turn it
is the selection takes, on each of the two ports that is free, one of the group that has waited 256 clocks the longest, or of the oldest;
a lane instruction takes with it a gang of at most 8 quads, and a set of more than 8 occupies the lane port with two; a group that has issued in
the clock issues no more, and an instruction that was held occupies no port as it wakes.
The reasons of a refused fetch and what a step selects are the model's (log entries 24, 82), as is the import table (71); the line that
leaves a full L2 set is written back (29). -/
def Obligations.AccessPaths : Prop :=
  (∀ (s : State) (tid off : Nat) (acc : WindowAcc), (s.tenant tid).live = true → s.lodge.boot ≠ .failed → off < 2 ^ 30 →
    let k := s.tenant tid
    let n := match acc with | .read n => n | .write bs => bs.length
    let tia := (k.hwbase.extractLsb' 30 18).toNat * 2 ^ 30 + off
    let werr : Tenant := { k with hwbase := k.hwbase ||| 0x4000000000000000 }
    let runs (p : State → Prop) : Prop := ∃ t, exec (.hostWindowAccess tid off acc) s = .next t ∧ p t
    let refused (t : State) : Prop := t.tenant tid = werr ∧ (∀ d, d ≠ tid → t.tenant d = s.tenant d)
      ∧ t.hostReply = match acc with | .read _ => .abort | .write _ => s.hostReply
    let away := (∃ m, acc = .read m) → ∀ l ∈ s.l2, l.gline ≠ gia tid tia / 128
    1 ≤ n → off % 64 + n ≤ 64 →
    (k.hwbase.getLsbD 63 = false → runs fun t => refused t ∧ { t with tenants := s.tenants, hostReply := s.hostReply } = s)
    ∧ (k.hwbase.getLsbD 63 = true →
      ((∃ r lv, (s.translate tid tia).2 = .error (.fail r lv)) → away →
        runs fun t => refused t ∧ { t with tenants := s.tenants, hostReply := s.hostReply } = s)
      ∧ ∀ leaf, (s.translate tid tia).2 = .ok leaf → s.bad = [] → k.l2cap ≠ 0 →
        ((∃ m, acc = .read m) → leaf.host = true → away →
          runs fun t => refused t ∧ { t with tenants := s.tenants, hostReply := s.hostReply, tlb := s.tlb, atlb := s.atlb } = s)
        ∧ ((∃ m, acc = .read m) → leaf.host = false → runs fun t => t.tenant tid = k
          ∧ (∃ got, t.hostReply = .data got ∧ ∀ bs, HomeHolds s tid tia n bs → got = bs) ∧ (s.l2.length < 16 → t.dram = s.dram)
          ∧ { t with l2 := s.l2, tlb := s.tlb, atlb := s.atlb, dram := s.dram, hostReply := s.hostReply } = s)
        ∧ ∀ bs, acc = .write bs →
          (leaf.kind ≠ 0 ∨ leaf.w = false ∨ leaf.host = true → runs fun t => t.tenant tid = werr
            ∧ { t with tenants := s.tenants, tlb := s.tlb, atlb := s.atlb } = s)
          ∧ (leaf.kind = 0 → leaf.w = true → leaf.host = false → leaf.nc = false → runs fun t => t.tenant tid = k ∧ HomeTakes t tid tia bs
            ∧ (s.l2.length < 16 → t.dram = s.dram)
            ∧ { t with l2 := s.l2, tlb := s.tlb, atlb := s.atlb, frames := s.frames, dram := s.dram } = s)))
  ∧ (∀ (s : State) (pkg src tia t : Nat) (acc : FabricAcc),
    let i := Instr.fabricRequest pkg src tia acc
    let runs (p : State → Prop) : Prop := ∃ u, exec i s = .next u ∧ p u
    (tget 0 s.imports (pkg * 64 + src % 64) = 0 → exec i s = .next s)
    ∧ (tget 0 s.imports (pkg * 64 + src % 64) = t → t ≠ 0 → (s.tenant t).live = true → ∀ leaf, (s.translate t tia).2 = .ok leaf →
      (leaf.host = true → tia < 2 ^ 48 → (∀ n, acc = .load n → 0 < n ∧ ∀ l ∈ s.l2, l.gline ≠ gia t tia / 128) →
        runs fun u => { u with tlb := s.tlb, atlb := s.atlb } = s)
      ∧ (leaf.host = false →
      (∀ n bs, acc = .load n → HomeHolds s t tia n bs → runs fun u => u.fabricOut = s.fabricOut ++ [(pkg, tia, bs)]
        ∧ (s.l2.length < 16 → u.dram = s.dram)
        ∧ { u with l2 := s.l2, tlb := s.tlb, atlb := s.atlb, dram := s.dram, fabricOut := s.fabricOut } = s)
      ∧ (∀ bs, acc = .store bs → leaf.kind ≠ 0 ∨ leaf.w = false → runs fun u => { u with tlb := s.tlb, atlb := s.atlb } = s)
      ∧ (∀ bs old, acc = .store bs → bs ≠ [] → HomeHolds s t tia bs.length old → leaf.kind = 0 → leaf.w = true → leaf.nc = false →
        runs fun u => HomeTakes u t tia (bs.map some) ∧ (s.l2.length < 16 → u.dram = s.dram)
          ∧ { u with l2 := s.l2, tlb := s.tlb, atlb := s.atlb, frames := s.frames, dram := s.dram } = s)
      ∧ ∀ op n old x y, acc = .atomic op n x y → HomeHolds s t tia n old → leaf.kind = 0 → leaf.w = true → leaf.nc = false → n = 4 ∨ n = 8 →
        op ≤ 11 ∨ (n = 4 ∧ op ≤ 15) → x.toNat < 2 ^ (8 * n) → y.toNat < 2 ^ (8 * n) →
        runs fun u => u.fabricOut = s.fabricOut ++ [(pkg, tia, old)]
          ∧ HomeTakes u t tia ((leBytes n (atomicValue (8 * n) op (BitVec.ofNat _ (leNat old)) (x.setWidth _) (y.setWidth _)).toNat).map some)
          ∧ (s.l2.length < 16 → u.dram = s.dram)
          ∧ { u with l2 := s.l2, tlb := s.tlb, atlb := s.atlb, frames := s.frames, dram := s.dram, fabricOut := s.fabricOut } = s)))
  ∧ (∀ (s : State) (core gline : Nat) (m : L1Line), core < Config.cores → (s.tenant (glineTid gline)).live = true →
    (s.coreOf core).l1? gline = some m →
    (∀ l, s.l2.find? (fun k => k.gline = gline) = some l → l.withheld = 0 → (s.frame l.stamp).damaged = false → ∃ t n,
      exec (.l1Fill core gline none none) s = .next t ∧ (t.coreOf core).l1? gline = some n
      ∧ (∀ b, b < 128 → lineByte n.data b = if m.dirty.getLsbD b then lineByte m.data b else lineByte l.data b)
      ∧ n = { m with data := n.data, valid := BitVec.allOnes 32, stamp := l.stamp } ∧ (∀ c, c ≠ core → t.coreOf c = s.coreOf c)
      ∧ { t with cores := s.cores, l2 := s.l2 } = s)
    ∧ (m.wp = false →
      let runs (p : State → Prop) : Prop := ∃ t, exec (.writePermissionGrant core gline) s = .next t ∧ p t
      ∀ l, s.l2.find? (fun k => k.gline = gline) = some l →
      (l.wp = true → runs fun t => (t.coreOf core).l1? gline = some { m with wp := true, stamp := l.stamp } ∧ { t with cores := s.cores, l2 := s.l2 } = s)
      ∧ (l.wp = false →
        (∀ leaf, (s.translate (glineTid gline) (glineTia gline)).2 = .ok leaf →
          let grants := leaf.kind = 0 ∧ leaf.w = true ∧ leaf.host = false ∧ leaf.nc = false
          (grants → l.withheld = 0 → runs fun t => (t.coreOf core).l1? gline = some { m with wp := true, stamp := leaf.frame }
            ∧ t.l2.find? (fun k => k.gline = gline) = some { l with wp := true, stamp := leaf.frame }
            ∧ t.frame leaf.frame = { s.frame leaf.frame with dirty := true })
          ∧ (¬grants → exec (.writePermissionGrant core gline) s = .next s))
        ∧ ∀ e, (s.translate (glineTid gline) (glineTia gline)).2 = .error e → exec (.writePermissionGrant core gline) s = .next s)))
  ∧ (∀ (s : State) (x : Iss), s.issAt x.g.ref x.q.tag = some x → x.q.clause = none → x.q.hold = none → x.g.run = .run → x.mayRun = true →
    x.g.trap.waits = false → s.debugHeld x.t.core = false → s.bad = [] →
    let i := Instr.clauseFetch x.g.ref x.q.tag
    let got := s.fetchLine x.t.core x.l.cid x.q.pc.toNat
    let word (d : BitVec 1024) (j : Nat) : W32 := d.extractLsb' (8 * (x.q.pc.toNat % 128 + 4 * j)) 32
    (∀ r, got.2 = .error (.perm r) → exec i s = .next (got.1.raise x 5 x.q.pc (BitVec.ofNat 64 (256 * r))))
    ∧ ∀ d, got.2 = .ok d → x.q.pc.toNat % 4 = 0 → x.q.pc.toNat < 2 ^ 48 →
      let h := word d 0
      let n := (h.extractLsb' 0 4).toNat
      let stray (j : Nat) : Prop := (word d j).extractLsb' 25 7 = 0x7F
        ∨ (h.extractLsb' 8 3 ≠ 0 ∧ ∃ c, opClass ((word d j).extractLsb' 25 7).toNat = some c ∧ c ≠ (h.extractLsb' 8 3).toNat)
      let bad := h.getLsbD 24 = true ∨ h.extractLsb' 4 4 ≠ 0 ∨ h.extractLsb' 8 3 = 7
      (h.extractLsb' 25 7 ≠ 0x7F → exec i s = .next (got.1.raise x 1 0 0))
      ∧ (h.extractLsb' 25 7 = 0x7F → x.q.pc.toNat % 128 + 4 * (n + 1) ≤ 128 →
        (bad → exec i s = .next (got.1.raise x 1 0 0))
        ∧ (¬bad → ∀ j, 1 ≤ j → j ≤ n → stray j → (∀ k, 1 ≤ k → k < j → ¬stray k) → exec i s = .next (got.1.raise x 1 0 (BitVec.ofNat 64 j)))
        ∧ (¬bad → (∀ j, 1 ≤ j → j ≤ n → ¬stray j) → ∃ t g, exec i s = .next t ∧ t.group? x.g.ref = some g
          ∧ g = x.g.modQ x.q.tag (fun q => { q with clause := some ⟨x.q.pc, (List.range (n + 1)).map (word d)⟩ })
          ∧ (∀ r, r ≠ x.g.ref → t.group? r = s.group? r) ∧ t.teams = s.teams ∧ t.dram = got.1.dram)))
  ∧ ∀ (s : State) (core part : Nat), s.focus = [] → s.lodge.drain = false → s.portWait core part = 0 →
    (∀ g ∈ s.groups, s.group? g.ref = some g ∧ ∀ q ∈ g.qsets, g.q? q.tag = some q) →
    let gs := s.partGroups core part
    let may (port : Nat) (g : Group) (q : QSet) : Prop :=
      g ∈ gs ∧ turnOf g.lastQuad (s.readySets g) = some q ∧ q.port = port ∧ s.portAt core part port = []
      ∧ g.ref ∉ tget [] (s.coreOf core).issued part
    let woken (q : QSet) : Prop := q.hold ≠ none ∧ ∀ i, q.instr? = some i → isMms i = false
    let first (port : Nat) (f : Focus) (g : Group) (q : QSet) : Prop := f = ⟨g.ref, q.tag⟩ ∧ may port g q
      ∧ ((∃ k r, may port k r ∧ 256 ≤ k.ready) → 256 ≤ g.ready ∧ ∀ k r, may port k r → k.ready ≤ g.ready)
      ∧ ((∀ k r, may port k r → k.ready < 256) → ∃ pre post, gs = pre ++ g :: post ∧ ∀ k r, may port k r → k ∈ g :: post)
      ∧ q ∈ s.readySets g
      ∧ (let later := (s.readySets g).filter fun r => g.lastQuad < lowQuad r.quads
        (later ≠ [] → q ∈ later ∧ ∀ r ∈ later, lowQuad q.quads ≤ lowQuad r.quads)
        ∧ (later = [] → ∀ r ∈ s.readySets g, lowQuad q.quads ≤ lowQuad r.quads))
    ∃ t a b, exec (.issueSelection core part) s = .next t
      ∧ { t with focus := [], sel := s.sel, cores := s.cores, free := s.free } = s ∧ t.sel = 4 * core + part
      ∧ (t.focus = a ++ b ∨ t.focus = b ++ a) ∧ (a = [] ↔ ∀ g q, ¬may 0 g q) ∧ (b = [] ↔ ∀ g q, ¬may 1 g q)
      ∧ (∀ c, c ≠ core → t.coreOf c = s.coreOf c) ∧ (∀ p, p ≠ part → ∀ port, port < 2 → t.portAt core p port = s.portAt core p port)
      ∧ (∀ f rest, b = f :: rest → rest = [] ∧ (∀ e ∈ a, e.grp ≠ f.grp) ∧ ∃ g q, first 1 f g q
        ∧ (woken q → t.portAt core part 1 = [])
        ∧ (¬woken q → t.portAt core part 1 ≠ [] ∧ (∀ e ∈ t.portAt core part 1, e.map Prod.fst = [f.grp])
          ∧ f.grp ∈ tget [] (t.coreOf core).issued part))
      ∧ ∀ f rest, a = f :: rest → ∃ g q, first 0 f g q
        ∧ (woken q → rest = [] ∧ t.portAt core part 0 = [])
        ∧ (¬woken q → t.portAt core part 0 ≠ [] ∧ ∀ e ∈ a, e.grp ∈ tget [] (t.coreOf core).issued part)
        ∧ (¬woken q → rest = [] → 8 < quadCount q.quads → ∃ n, 0 < n
          ∧ t.portAt core part 0 = List.replicate n [(g.ref, q.quads &&& 0xFF)] ++ List.replicate n [(g.ref, q.quads &&& 0xFF00)])
        ∧ (rest ≠ [] → ∀ x, s.issAt g.ref q.tag = some x →
          if x.l.kernel.compat16 then a.length = 2
          else (a.map fun f => ((s.issAt f.grp f.tag).map fun y => quadCount y.q.quads).getD 0).sum ≤ 8)
        ∧ ∀ e ∈ rest, e.grp ≠ g.ref ∧ ∃ x y w, s.issAt g.ref q.tag = some x ∧ s.issAt e.grp e.tag = some y ∧ s.ready y = true
          ∧ y.l.ref = x.l.ref ∧ y.q.pc = q.pc ∧ y.q.word? = some w ∧ q.word? = some w ∧ opClass (w.extractLsb' 25 7).toNat = some 1

/-! ## Errors, links and power -/

/-- R371 to R377, R382, R396, R398 to R401, R403: an abort kills or fails the smallest unit, an aborted store writing nothing, counts in
UNCORR and is logged, once for a word that keeps its error; the loss of a dirty line damages its frame as well. An abort answers a request
that the failing word of its place stops, `abortDue`: a lane register word stops its lane, a word of a group's registers the group. What a
scrub finds is corrected, or a clean copy dropped, or kept as bad; eight failures in a row of one flit retrain a link, three failed
retrainings take it down; a cleared frame is whole again. The effective level is the higher of its two inputs; stages go up and down by one,
stage 4 recalling every loan; a declaration past its bounds is refused; the drain stops everything and stores what is registered, and an
image whose closing record holds is offered after the reset. Numbers of links, steps of their own for errors met, the place of an L1 word
with its core, what joins a record, and which accesses in flight the drain still performs are the model's (log entries 72 to 75). -/
def Obligations.ErrorsAndPower : Prop :=
  (∀ (s : State) (unit place : Nat), s.lodge.log.length < Config.logMax →
    let count (t : State) (tid : Nat) : Prop := ∀ d, (t.tenant d).uncorr = (s.tenant d).uncorr + if d = tid ∧ d ≠ 0 then 1 else 0
    let logged (t : State) (tid cid : Nat) (act : BitVec 4) (lanes : W64) (key : Nat) : Prop :=
      t.lodge.log = s.lodge.log ++ [⟨2, unit, tid, cid, act, 1, key, lanes, s.lodge.lost, s.lodge.clk.setWidth 32⟩]
    let key := errKey unit place
    let keeps := unit = 2 ∨ unit = 9 ∨ unit = 10
    let errs (t : State) (tid cid : Nat) (act : BitVec 4) (lanes : W64) : Prop :=
      let who := if unit = 10 then (s.frame (place / 65536)).owner else tid
      (keeps → (unit, key) ∈ s.bad → count t 0 ∧ t.bad = s.bad ∧ t.lodge.log.length = s.lodge.log.length)
      ∧ (¬(keeps ∧ (unit, key) ∈ s.bad) →
        count t who ∧ logged t who cid act lanes key ∧ ∀ b, b ∈ t.bad ↔ b ∈ s.bad ∨ keeps ∧ b = (unit, key))
    let frame := errAddr unit place / 65536
    let lost (t : State) (cid : Nat) (act : BitVec 4) (lanes : W64) : Prop :=
      count t (s.errTid unit place) ∧ logged t (s.errTid unit place) cid (4 ||| act) lanes key
        ∧ (t.frame frame).damaged = true ∧ ∀ n ∈ t.l2, n.stamp ≠ frame
    let array (p q : State → Prop) (t : State) : Prop := (unit ∉ [3, 6, 7] → p t) ∧ (unit ∈ [3, 6, 7] → q t)
    let runs (target : AbortTarget) (p : State → Prop) : Prop :=
      s.abortDue target unit place = true → ∃ t, exec (.abortCompletion target unit place) s = .next t ∧ p t
    (∀ (g : Group) (h : Team) (l : Launch) (m : W64), s.group? g.ref = some g → s.homeOf g = some (h, l) → g.run ≠ .retired → h.pacer = none →
      s.team? g.team = some h →
      let dies (n : W64) (t : State) : Prop :=
        let new := n &&& widthLanes g.width &&& ~~~g.regs.dead
        (∃ k, t.group? g.ref = some k ∧ k.regs.dead = g.regs.dead ||| new)
          ∧ (t.tenant l.tid).lanedead = (s.tenant l.tid).lanedead + BitVec.ofNat 64 (popCount new)
      (h.core = placeCore place → g.part = placePart place →
        (unit = 0 → s.abortDue (.lanes g.ref (1#64 <<< (place / 2 ^ 48 % 64))) 0 place = true) ∧ (unit = 1 → s.abortDue (.group g.ref) 1 place = true))
      ∧ (unit ∈ [0, 2, 3, 6, 7, 9, 10] → runs (.lanes g.ref m) fun t => dies m t
        ∧ array (fun t => errs t l.tid l.cid 1 m) (fun t => lost t l.cid 1 m) t)
      ∧ (unit ∈ [1, 2, 3, 6, 7, 9, 10] → runs (.group g.ref) fun t => dies (BitVec.allOnes 64) t
        ∧ array (fun t => errs t l.tid l.cid 2 0) (fun t => lost t l.cid 2 0) t)
      ∧ ∀ f, unit ∈ [2, 3, 6, 7, 9, 10] → s.hitFlight unit place (.lanes g.ref m) = some f → isWriteAccess f.instr = true → f.failed = 0 →
        g.trap.mode = none → (∀ a ∈ f.left, bit m a.lane = true) → f.left ≠ [] →
        runs (.lanes g.ref m) fun t => (∀ k, t.group? g.ref = some k → ∀ e ∈ k.flights, e.fid ≠ f.fid) ∧ t.dram = s.dram
          ∧ t.hostMem = s.hostMem ∧ (unit ∉ [3, 6, 7] → t.cores = s.cores ∧ t.l2 = s.l2))
    ∧ (∀ c chunk, s.copy? c.job = some c → c.phase = .moving → chunk < c.chunks.length → unit ∈ [2, 3, 6, 7, 10] →
      runs (.copy c.job chunk) fun t => array (fun t => errs t c.tid c.cid 8 0) (fun t => lost t c.cid 8 0) t
        ∧ t.copy? c.job = some { c with
          reason := if c.reason = 0 then 4 else c.reason, chunks := if c.ver then [] else c.chunks.eraseIdx chunk }
        ∧ t.groups = s.groups)
    ∧ (∀ l, s.launch? l.ref = some l → l.state = .queued → l.leaseOk = false → l.waiting = false → l.kernel.paced = false → unit ∈ [6, 7, 10] →
      runs (.launch l.ref) fun t => array (fun t => errs t l.tid l.cid 0 0) (fun t => lost t l.cid 0 0) t
        ∧ t.launch? l.ref = some { l with state := .draining, status := 1 })
    ∧ (∀ tid ch k, (tget Channel.reset (s.tenant tid).chans ch).chain = some k → unit ∈ [6, 7, 10] →
      let cid := ((tget Channel.reset (s.tenant tid).chans ch).bind.word0.extractLsb' 48 8).toNat
      runs (.transfer tid ch) fun t => array (fun t => errs t tid cid 8 0) (fun t => lost t cid 8 0) t
        ∧ tget Channel.reset (t.tenant tid).chans ch
          = { tget Channel.reset (s.tenant tid).chans ch with chain := none, result := some (4, k.idx) })
    ∧ (unit ∈ [3, 6, 7] → s.dirtyAt unit place false = true → s.abortDue (.frame frame) unit place = true)
    ∧ ∀ f, unit ∈ [3, 6, 7] → runs (.frame f) fun t => lost t 0 4 0 ∧ f = frame ∧ t.groups = s.groups)
  ∧ (∀ (s : State) (unit place : Nat), unit ≤ 10 →
    let runs (f : ErrFound) (p : State → Prop) : Prop := ∃ t, exec (.scrub unit place f) s = .next t ∧ p t
    let key := errKey unit place
    let corr (t : State) : Prop := (∀ d, (t.tenant d).corr = (s.tenant d).corr + if d = s.errTid unit place ∧ d ≠ 0 then 1 else 0)
      ∧ ((∀ r ∈ s.lodge.log, ¬(r.cls = 1 ∧ r.unit = unit ∧ r.place = key)) → s.lodge.log.length < Config.logMax → t.lodge.log = s.lodge.log ++
        [⟨1, unit, s.errTid unit place, s.errCid unit place, 0, 1, key, 0, s.lodge.lost, s.lodge.clk.setWidth 32⟩])
    let frame := errAddr unit place / 65536
    let gone (t : State) : Prop := (t.frame frame).damaged = true ∧ (∀ n ∈ t.l2, n.stamp ≠ frame) ∧ ∀ c, ∀ n ∈ (t.coreOf c).l1, n.stamp ≠ frame
    runs .clean (fun t => t = s)
    ∧ runs .correctable (fun t => corr t ∧ { t with tenants := s.tenants, lodge := s.lodge } = s)
    ∧ (unit = 10 → (10, place / 32 * 32) ∉ s.bad → runs .uncorrectable fun t => t.bad = s.bad ++ [(10, place / 32 * 32)])
    ∧ (unit = 6 ∨ unit = 7 → s.l2At place ≠ [] →
      ((∀ l ∈ s.l2At place, l.dirty = 0) → runs .uncorrectable fun t => corr t
        ∧ ∀ n, n ∈ t.l2 ↔ n ∈ s.l2 ∧ ∀ l ∈ s.l2At place, n.gline ≠ l.gline)
      ∧ ((∃ l ∈ s.l2At place, l.dirty ≠ 0) → runs .uncorrectable gone))
    ∧ (unit = 3 →
      let core := place / 2 ^ 48
      let a := place % 2 ^ 48
      let lines := (s.coreOf core).l1.filter fun n => n.stamp = a / 65536 ∧ glineTia n.gline % 65536 = a % 65536 / 128 * 128
      let word := a % 128 / 8
      lines ≠ [] →
      ((∀ e ∈ lines, ∀ i, i < 8 → e.dirty.getLsbD (8 * word + i) = false) → runs .uncorrectable fun t => corr t
        ∧ (∀ n ∈ (t.coreOf core).l1, n.stamp = a / 65536 → glineTia n.gline % 65536 = a % 65536 / 128 * 128 →
          n.valid.getLsbD (2 * word) = false ∧ n.valid.getLsbD (2 * word + 1) = false) ∧ ∀ c, c ≠ core → t.coreOf c = s.coreOf c)
      ∧ ((∃ e ∈ lines, ∃ i, i < 8 ∧ e.dirty.getLsbD (8 * word + i) = true) → runs .uncorrectable gone)
      ∧ ((∀ e ∈ lines, e.dirty = 0) → runs .lineState fun t => corr t ∧ (∀ n ∈ (t.coreOf core).l1, n ∈ (s.coreOf core).l1 ∧ n ∉ lines)
        ∧ ∀ c, c ≠ core → t.coreOf c = s.coreOf c)
      ∧ ((∃ e ∈ lines, e.dirty ≠ 0) → runs .lineState gone)))
  ∧ (∀ (s : State) (i : Nat), i < 23 →
    let k := tget Link.reset s.links i
    let sets (u : Instr) (n : Link) : Prop := ∃ t, exec u s = .next t ∧ tget Link.reset t.links i = n
      ∧ (∀ j, j ≠ i → tget Link.reset t.links j = tget Link.reset s.links j) ∧ { t with links := s.links, lodge := s.lodge } = s
    k.down = false →
    (k.retraining = false → ∀ again, let n := if again then k.fails + 1 else 1
      sets (.flitCrcFailure ⟨i, again⟩) (if n < 8 then { k with fails := n } else { k with fails := 0, retraining := true }))
    ∧ (k.retraining = true → sets (.linkRetrain i true) ⟨0, false, 0, false⟩
      ∧ sets (.linkRetrain i false) (if k.retrains < 2 then { k with retrains := k.retrains + 1 }
        else { k with retraining := false, retrains := 3, down := true })
      ∧ ∀ ok, ∃ t r, exec (.linkRetrain i ok) s = .next t ∧ r ∈ t.lodge.log ∧ r.cls = 3
        ∧ r.unit = if i < 4 then 11 else if i = 4 then 12 else 13)
    ∧ exec (.linkRetune i) s = .next s)
  ∧ (∀ (s : State) (f : Nat), (s.frame f).damaged = true → (s.frame f).ftype = 0 → ∃ t, exec (.damagedClear f) s = .next t
    ∧ t.frame f = { s.frame f with damaged := false } ∧ (∀ k, k ≠ f → t.frame k = s.frame k)
    ∧ (∀ b, b ∈ t.bad ↔ b ∈ s.bad ∧ ¬(b.1 = 10 ∧ b.2 / 65536 = f)) ∧ ∀ a, a / 65536 ≠ f → t.dram.get a = s.dram.get a)
  ∧ (∀ (s : State) (lv : BitVec 4),
    let lodge (i : Instr) (d : Lodge) : Prop := exec i s = .next { s with lodge := d }
    let d := s.lodge
    lodge (.powerLevelChange lv) { d with pin := lv } ∧ lodge (.sidebandPowerMessage lv) { d with sideband := lv }
    ∧ d.level.toNat = max d.pin.toNat d.sideband.toNat
    ∧ (0 < d.stage → lodge .throttleStageRelease { d with stage := d.stage - 1 })
    ∧ (d.drain = false → d.stage < 5 → d.stage ≠ 3 → d.stage ≠ 4 ∨ d.loans = [] → lodge .throttleStageAdvance { d with stage := d.stage + 1 })
    ∧ (d.drain = false → d.stage = 3 → ∃ t, exec .throttleStageAdvance s = .next t ∧ t.lodge.stage = 4
      ∧ ∀ p, p < 16 → t.lentTo p ≠ 0 → p ∈ t.lodge.recalls)
    ∧ (∀ core, core < 192 → ∃ t, exec (.droopEvent core) s = .next t ∧ t.coreOf core = { s.coreOf core with droops := (s.coreOf core).droops + 1 }
      ∧ (∀ c, c ≠ core → t.coreOf c = s.coreOf c) ∧ { t with cores := s.cores } = s)
    ∧ (∀ tid tia n, d.boot = .ok → (s.tenant tid).live = true → tia % 65536 = 0 → 1 ≤ n → tia + n * 65536 ≤ 2 ^ 48 →
      let fits := d.regions.length < 32 ∧ (d.regions.map fun r => r.2.2).sum + n ≤ 8192 ∧ s.drainSum + n * 65536 ≤ 32 * 24750000
      (fits → lodge (.preciousRegionDeclare tid tia n) { d with regions := d.regions ++ [(tid, tia, n)] })
      ∧ (¬fits → exec (.preciousRegionDeclare tid tia n) s = .next s))
    ∧ (d.drain = false → ∃ t f, exec .powerFailDrain s = .next t ∧ t.lodge.drain = true ∧ t.lodge.flash = some f
      ∧ (∀ u ∈ t.teams, u.state ≠ .running) ∧ f.digest = sha3 f.raw
      ∧ (s.adms = [] → (∀ g ∈ s.groups, g.flights = []) → (∀ g ∈ t.groups, g.run ≠ .run) ∧ t.groups.map (·.regs) = s.groups.map (·.regs))
      ∧ (∀ c, c ∈ f.copies ↔ c ∈ t.copies ∧ ∃ u ∈ f.teams, u.ref = c.team)
      ∧ (∀ cid c, (cid, c) ∈ f.ctxs ↔ c = t.ctx cid ∧ ∃ u ∈ f.teams, t.cidOf u = cid)
      ∧ (∀ u, u ∈ f.teams ↔ u ∈ t.teams ∧ u.state ≠ .ended ∧ ∃ l, t.launch? u.launch = some l ∧ l.drain = true)
      ∧ ∀ g, g ∈ f.groups ↔ g ∈ t.groups ∧ ∃ u ∈ f.teams, u.ref = g.team)
    ∧ (d.pwrfail = true → d.drain = true → ∃ t, exec .pwrfailNRelease s = .next t ∧ t.groups = [] ∧ t.teams = [] ∧ t.launches = [] ∧ t.tenants = []
      ∧ t.dram = [] ∧ t.l2 = [] ∧ t.hostMem = s.hostMem ∧ t.lodge = { Lodge.reset with
        flash := d.flash, fuses := d.fuses, offered := match d.flash with | some f => decide (sha3 f.raw = f.digest) | none => false }))

/-! ## Tenancy and layout -/

/-- R361 to R369, R143, R392: a bank is written beside the active one, PREPARED, and its losers are asked to halt; a flip with the next generation
takes effect where the bank is well formed and no team would lose its place, and is REFUSED otherwise; a paddock is lent, recalled, and
counted once when late; a tenancy is made with its terms, changed, and ends when everything of it is complete and its frames are free.
The order of bits in a write of FLIP, what of a bank MEAS3 takes and in which order, what a prepared layout keeps out, and when a teardown
ends are the model's readings (log entries 63, 64, 66, 67, 98). -/
def Obligations.TenancyAndLayout : Prop :=
  ∀ s : State, s.lodge.boot = .ok →
    let d := s.lodge
    let bank (d : Lodge) (b : Bool) := if b then d.bank1 else d.bank0
    (∀ ws, ∃ t j, exec (.layoutBankWrite ws) s = .next t ∧ t.lodge.journal = some j ∧ j.seq = d.gen + 1 ∧ j.done = false
      ∧ bank t.lodge (!d.active) = j.bank ∧ bank t.lodge d.active = bank d d.active ∧ t.lodge.active = d.active ∧ t.lodge.gen = d.gen
      ∧ (∀ p, p < 16 → let a := ws.getD p (0, 0, 0)
        tget (0, 0, 0) j.bank p = (a.1 &&& 0x3FFBF, a.2.1 &&& 0xFFFFFFFFFFFFFFFE, a.2.2 &&& 0xFFFFFFFFFFFF))
      ∧ t.dram = s.dram ∧ t.tenants = s.tenants)
    ∧ (∀ w : W64, d.drain = false →
      let new := bank d (!d.active)
      let good := bankOk new = true ∧ s.losing new = []
      let clear := d.refused && !w.getLsbD 1
      (w.extractLsb' 32 32 ≠ d.gen + 1 → exec (.layoutFlip w) s = .next { s with lodge := { d with refused := clear } })
      ∧ (w.extractLsb' 32 32 = d.gen + 1 → ¬good → exec (.layoutFlip w) s = .next { s with lodge := { d with refused := true } })
      ∧ (w.extractLsb' 32 32 = d.gen + 1 → good → ∃ t, exec (.layoutFlip w) s = .next t ∧ t.lodge.active = !d.active ∧ t.lodge.gen = d.gen + 1
        ∧ t.lodge.refused = false ∧ t.lodge.bank0 = d.bank0 ∧ t.lodge.bank1 = d.bank1
        ∧ (∀ j, d.journal = some j → j.seq = d.gen + 1 → t.lodge.journal = some { j with done := true })
        ∧ (∀ p, t.lentTo p = if t.owner p = s.owner p then s.lentTo p else 0)
        ∧ (∀ p, p < 16 → let now := tget ⟨0, 0, false⟩ t.lodge.slices p
          ((t.ring p).length ≤ 1 → now = ⟨0, 0, false⟩)
          ∧ (2 ≤ (t.ring p).length → 2 ≤ (s.ring p).length → now = tget ⟨0, 0, false⟩ d.slices p)
          ∧ (2 ≤ (t.ring p).length → ∀ e, s.ring p = [e] →
            (e ∉ t.ring p → now = ⟨0, 0, false⟩) ∧ (e ∈ t.ring p → now.tid = e ∧ now.ending = false)))
        ∧ tget 0 t.lodge.meas 3 = sha3 (digestBytes (tget 0 d.meas 3) ++ digestBytes (sha3 (bankBytes new)))
        ∧ (∀ i, i ≠ 3 → tget 0 t.lodge.meas i = tget 0 d.meas i)
        ∧ ((∀ c, (s.coreOf c).dbg = ⟨false, false, 0⟩) → t.groups = s.groups ∧ t.teams = s.teams)))
    ∧ (∀ p tid, lendDue s p tid = true → exec (.paddockLend p tid) s = .next { s with lodge := { d with loans := tput d.loans p tid } })
    ∧ (∀ p, recallDue s p = true → (∀ u ∈ s.teams, s.team? u.ref = some u) → ∃ t, exec (.paddockRecall p) s = .next t
      ∧ (if ∃ u ∈ t.teams, paddockOf u.core = p ∧ u.state ≠ .ended ∧ u.state ≠ .saved then p ∈ t.lodge.recalls ∧ t.lentTo p = s.lentTo p
        else p ∉ t.lodge.recalls ∧ t.lentTo p = 0)
      ∧ (∀ u ∈ t.teams, paddockOf u.core = p → t.tidOf u = s.lentTo p → u.state = .running → u.asked = true)
      ∧ t.tenants = s.tenants ∧ t.dram = s.dram)
    ∧ (∀ p, p ∈ d.recalls → p ∉ d.late → ∃ t, exec (.recallDeadlineExpiry p) s = .next t ∧ t.lodge = { d with late := d.late ++ [p] }
      ∧ t.tenant (s.lentTo p) = { s.tenant (s.lentTo p) with recallovr := (s.tenant (s.lentTo p)).recallovr + 1 }
      ∧ (∀ k, k ≠ s.lentTo p → t.tenant k = s.tenant k) ∧ { t with tenants := s.tenants, lodge := d } = s
      ∧ exec (.recallDeadlineExpiry p) t = .next t)
    ∧ ∀ tid : Nat,
      let is (i : Instr) (k : Tenant) : Prop := ∃ t, exec i s = .next t ∧ t.tenant tid = k ∧ (∀ j, j ≠ tid → t.tenant j = s.tenant j)
        ∧ { t with tenants := s.tenants } = s
      let held (w v : W64) : Prop := (∀ j, v.getLsbD j = true → (j < 9 ∨ (16 ≤ j ∧ j < 25)) ∧ w.getLsbD j = true)
        ∧ ∀ j, j < 9 → v.getLsbD j = w.getLsbD j ∧ v.getLsbD (j + 16) = (w.getLsbD (j + 16) && !w.getLsbD j)
      (∀ k : TenancyTerms, 1 ≤ tid → tid ≤ 63 → (s.tenant tid).live = false → k.l2cap ≤ 256 → k.quota ≤ 131072 → k.channels ≤ 64 →
        k.abase.toNat % 4096 = 0 → k.abase.toNat < 2 ^ 38 → s.arrayOk k.abase.toNat k.quota = true → s.channelsUsed + k.channels ≤ 256 →
        ∃ v, held k.feat v ∧ is (.tenancyCreate tid k) { Tenant.reset with
          live := true, ctxen := k.ctxen, l2cap := k.l2cap, feat := v, quota := k.quota, abase := k.abase, channels := k.channels
          hostBase := k.hostBase, hostCount := k.hostCount })
      ∧ ((s.tenant tid).live = true →
        (∀ w, ∃ v, held w v ∧ is (.featChange tid w) { s.tenant tid with feat := v })
        ∧ (∀ cap, cap ≤ 256 → is (.l2capChange tid cap) { s.tenant tid with l2cap := cap })
        ∧ (tid ≠ 0 → (∀ l ∈ s.launches, l.tid = tid → l.state = .complete) →
          let free := ∀ m ∈ s.machines tid, ∀ i, i < 32 →
            (s.frame (m * 32 + i)).ftype = 0 ∧ (s.frame (m * 32 + i)).use = 0 ∧ (s.frame (m * 32 + i)).pin = 0
          (¬free → exec (.tenancyTeardown tid) s = .next s)
          ∧ (free → ∃ t, exec (.tenancyTeardown tid) s = .next t ∧ (t.tenant tid).live = false
            ∧ ((∀ c, ∀ n ∈ (s.coreOf c).l1, glineTid n.gline = tid → n.dirty = 0) → ∀ j, j ≠ tid → t.tenant j = s.tenant j)
            ∧ (∀ l, l ∈ t.launches ↔ l ∈ s.launches ∧ l.tid ≠ tid) ∧ (∀ e ∈ t.tlb, e.tid ≠ tid) ∧ (∀ e ∈ t.atlb, e.tid ≠ tid) ∧ (∀ n ∈ t.l2, glineTid n.gline ≠ tid)
            ∧ (∀ c, ∀ n ∈ (t.coreOf c).l1, glineTid n.gline ≠ tid) ∧ (∀ c, ∀ n ∈ (t.coreOf c).ic, n.cid / 4 ≠ tid)
            ∧ (∀ p, t.lentTo p ≠ tid) ∧ (∀ m ∈ s.machines tid, ∀ i, i < 32 → (t.frame (m * 32 + i)).owner = 0))))

/-! ## Reset and attestation -/

/-- R391 to R395, R365: a package reset clears everything but what is outside, measures the stages that run and the fuses, and brings
firmware up only where every stage verifies: its key has the digest that the fuses hold, and its signature holds. %clk goes on; after a failed
check no function but 0 is enabled; a watchdog reset holds banks, FLIP and measurements, finishes or discards a PREPARED layout record, and
starts the responders afresh. MEAS4 to MEAS15 are extended by hash. A responder answers requests in the order of R395 and UnexpectedRequest
otherwise: version 1.3, its capabilities, SHA3-256 and ML-DSA-44, its certificate chain and the digest of it; it refuses slots other than 0
and signatures without ML-DSA-44, signs the SHA3-256 hash of the transcript, and reports the measurements as they stand. What is digested,
and that a watchdog reset restarts the responders, are the model's readings (log entries 64, 65); when firmware makes its settings is its
choice (114). The request codes 0x81 to 0x84, 0xE0, 0xE1 and 0xE3 and the answer InvalidRequest to other slots and indices come from SPDM
itself (PRESUMED, log entry 18); what the signature of a stage is, and the bytes of a transcript, are the model's choice (127, 129), and the
certificate chain, a nonce and a signature are free values (7). -/
def Obligations.ResetAndAttestation : Prop :=
  (∀ (s : State) (stages : List BootStage) (k : LodgeTerms),
    let set (d : Lodge) : Prop := d.thot = k.thot ∧ d.hyst = k.hyst ∧ d.dlim = k.dlim ∧ d.pdeadline = k.pdeadline ∧ d.lidle = k.lidle ∧ d.rdl = k.rdl
    let f := s.lodge.fuses
    let holds (b : BootStage) : Prop := sha3 b.key = f.keyDigest ∧ b.signed = true
    let good := 2 ≤ stages.length ∧ ∀ b ∈ stages, holds b
    (∃ t : State, exec (.packageReset ⟨stages, k⟩) s = .next t
      ∧ t.groups = [] ∧ t.teams = [] ∧ t.launches = [] ∧ t.copies = [] ∧ t.tenants = [] ∧ t.frames = [] ∧ t.dram = [] ∧ t.l2 = []
      ∧ t.cores = s.cores.map (fun e => (e.1, { Core.reset with clk := e.2.clk }))
      ∧ t.tlb = [] ∧ t.atlb = [] ∧ t.bad = [] ∧ t.links = [] ∧ t.hostMem = s.hostMem ∧ (t.lodge.boot = .ok ↔ good) ∧ (¬good → t.lodge.boot = .failed)
      ∧ (∀ i, i < 2 → (∀ b, stages[i]? = some b → (∀ c ∈ stages.take (i + 1), holds c) → tget 0 t.lodge.meas i = sha3 b.image)
        ∧ (stages.length ≤ i ∨ (∃ c ∈ stages.take (i + 1), ¬holds c) → tget 0 t.lodge.meas i = 0))
      ∧ tget 0 t.lodge.meas 2 = sha3 f.config ∧ (∀ i, 3 ≤ i → tget 0 t.lodge.meas i = 0) ∧ t.lodge.fuses = f ∧ t.lodge.flash = s.lodge.flash
      ∧ (t.lodge.offered = true ↔ ∃ e, s.lodge.flash = some e ∧ sha3 e.raw = e.digest)
      ∧ t.lodge.bank0 = [] ∧ t.lodge.bank1 = [] ∧ t.lodge.gen = 0 ∧ t.lodge.journal = none
      ∧ (good → set t.lodge ∧ (∀ r ∈ k.sys, ∀ f, r.1 ≤ f → f < r.1 + r.2 → (t.frame f).ftype = 7)
        ∧ ∀ a, k.dbase ≤ a → a < k.dbase + 2 ^ 26 → (t.frame (a / 65536)).ftype = 7))
    ∧ (s.lodge.boot ≠ .off →
      let same := ∀ i, i < 2 → ∀ b, stages[i]? = some b → sha3 b.image = tget 0 s.lodge.meas i
      let d := s.lodge
      let bank (d : Lodge) (b : Bool) := if b then d.bank1 else d.bank0
      ∃ t : State, exec (.lodgeWatchdogReset ⟨stages, k⟩) s = .next t ∧ t.lodge.active = d.active ∧ t.lodge.gen = d.gen ∧ t.lodge.meas = d.meas
        ∧ bank t.lodge d.active = bank d d.active ∧ t.lodge.spdm = ⟨0, false, [], .none⟩ ∧ (∀ e ∈ t.tenants, e.2.spdm = ⟨0, false, [], .none⟩)
        ∧ t.groups = s.groups ∧ t.cores = s.cores ∧ t.dram = s.dram ∧ (t.lodge.boot = .ok ↔ good ∧ same) ∧ (good → same → set t.lodge)
        ∧ (good → same → ∀ j, d.journal = some j → j.done = false →
          (j.seq = d.gen + 1 → t.lodge.journal = none ∧ bank t.lodge (!d.active) = bank d d.active)
          ∧ (j.seq = d.gen → t.lodge.journal = some { j with done := true } ∧ bank t.lodge (!d.active) = bank d (!d.active)))))
  ∧ (∀ (s : State) (tid off n : Nat) (w : W64), s.lodge.boot = .failed →
    s.bar0Read tid off n = .unsupported ∧ exec (.registerWrite tid off w) s = .next { s with hostReply := .unsupported })
  ∧ (∀ (s : State) (i : Nat) (v : BitVec 256), s.lodge.boot = .ok →
    (4 ≤ i → i ≤ 15 → ∃ t, exec (.measurementExtend i v) s = .next t
      ∧ tget 0 t.lodge.meas i = sha3 (digestBytes (tget 0 s.lodge.meas i) ++ digestBytes v)
      ∧ (∀ j, j ≠ i → tget 0 t.lodge.meas j = tget 0 s.lodge.meas j) ∧ { t with lodge := { t.lodge with meas := s.lodge.meas } } = s)
    ∧ (i < 4 ∨ 15 < i → exec (.measurementExtend i v) s = .next s))
  ∧ ∀ (s : State) (fn : Nat), s.lodge.boot = .ok → fn = 0 ∨ (s.tenant fn).live = true →
    let k := s.mailbox fn
    let answers (i : Instr) (m : Spdm) : Prop := ∃ t, exec i s = .next t ∧ t.mailbox fn = m ∧ (∀ f, f ≠ fn → t.mailbox f = s.mailbox f)
      ∧ t.groups = s.groups ∧ t.dram = s.dram
    let then_ (n code : Nat) (args : List Byte) (a : SpdmAnswer) : Spdm :=
      { k with order := n, transcript := k.transcript ++ [BitVec.ofNat 8 code] ++ args ++ a.bytes, answer := a }
    let sign (m : Spdm) : List Byte := Config.mlDsaSign (sha3 m.transcript) s.free
    let nonce := Config.spdmNonce s.free
    let astray : Spdm := { k with order := 0, transcript := [], answer := .unexpected }
    (answers (.getVersion fn) ⟨1, false, 0x84#8 :: (SpdmAnswer.version [(1, 3)]).bytes, .version [(1, 3)]⟩)
    ∧ (answers (.getCapabilities fn) (if k.order = 1 then then_ 2 0xE1 [] (.capabilities ⟨true, true, true, true, false⟩) else astray))
    ∧ (∀ b, answers (.negotiateAlgorithms fn b) (if k.order = 2 then
      { then_ 3 0xE3 [if b then 1 else 0] (.algorithms .sha3_256 .sha3_256 (if b then some .mlDsa44 else none)) with mlDsa := b } else astray))
    ∧ (answers (.getDigests fn) (if k.order = 3 then then_ 3 0x81 [] (.digests (sha3 Config.certChain)) else astray))
    ∧ (answers (.getCertificate fn 0) (if k.order = 3 then then_ 3 0x82 [0] (.certificate Config.certChain) else astray))
    ∧ (∀ n, n ≠ 0 → answers (.getCertificate fn n) (if k.order = 3 then { k with answer := .invalid } else astray))
    ∧ (∀ n x, answers (.challenge fn n x) (if k.order ≠ 3 then astray else if k.mlDsa = false then { k with answer := .unexpected }
      else if n = 0 then
        let m := then_ 3 0x83 (0 :: digestBytes x) (.challengeAuth (sha3 Config.certChain) nonce [])
        { m with answer := .challengeAuth (sha3 Config.certChain) nonce (sign m) }
      else { k with answer := .invalid }))
    ∧ (∀ n x,
      let one (i : Nat) : List (Nat × List Byte) :=
        if 1 ≤ i ∧ i ≤ 16 then [(i, digestBytes (tget 0 s.lodge.meas (i - 1)))]
        else if i = 17 ∧ fn ≠ 0 then [(17, leBytes 8 (s.tenancyWord fn).toNat ++ leBytes 8 (s.tenant fn).feat.toNat)] else []
      let all := if n = 0xFF then (List.range 18).flatMap one else one n
      let m (x : List Byte) := then_ 3 0xE0 (BitVec.ofNat 8 n :: x) (.measurements all nonce none)
      answers (.getMeasurements fn n none) (if k.order ≠ 3 then astray else if all = [] then { k with answer := .invalid } else m [])
      ∧ answers (.getMeasurements fn n (some x)) (if k.order ≠ 3 then astray else if k.mlDsa = false then { k with answer := .unexpected }
        else if all = [] then { k with answer := .invalid }
        else { m (digestBytes x) with answer := .measurements all nonce (some (sign (m (digestBytes x)))) }))
    ∧ ∀ code, code ∉ [0x81, 0x82, 0x83, 0x84, 0xE0, 0xE1, 0xE3] → answers (.spdmUnsupportedRequest fn code) { k with answer := .unsupported }
end

