-- ==== Sys2Proof/Laws/Arrays.lean ====
section
/-! SUPPORT. Laws/Arrays.lean: sparse arrays and memory: what a read gives after a write, and that every operation keeps the canonical
form. -/

namespace Sys2Proof.Machine

/-! ## Reads after writes -/

theorem tget_tput {α : Type} (d : α) (t : Tbl α) (k j : Nat) (v : α) : tget d (tput t k v) j = if j = k then v else tget d t j := by
  induction t with
  | nil => by_cases h : k = j <;> simp [tput, tget, h, eq_comm]
  | cons e t ih =>
    obtain ⟨i, u⟩ := e
    by_cases h1 : k < i
    · rw [tput, if_pos h1]; by_cases h : k = j <;> simp [tget, h, eq_comm]
    · by_cases h2 : k = i
      · subst h2; by_cases h : k = j <;> simp [tput, tget, h, eq_comm]
      · simp only [tput, h1, h2, if_false, tget]
        by_cases h : i = j
        · subst h; simp [Ne.symm h2]
        · simp [h, ih]

theorem tget_terase {α : Type} (d : α) (t : Tbl α) (k j : Nat) : tget d (terase t k) j = if j = k then d else tget d t j := by
  induction t with
  | nil => simp [terase, tget]
  | cons e t ih =>
    obtain ⟨i, u⟩ := e
    by_cases h : i = k
    · subst h
      have : terase ((i, u) :: t) i = terase t i := by simp [terase]
      rw [this, ih]; by_cases hj : j = i <;> simp [tget, hj, eq_comm]
    · have : terase ((i, u) :: t) k = (i, u) :: terase t k := by simp [terase, h]
      rw [this]; by_cases hj : i = j
      · subst hj; simp [tget, h]
      · simp [tget, hj, ih]

theorem tget_tset {α : Type} [DecidableEq α] (d : α) (t : Tbl α) (k j : Nat) (v : α) :
    tget d (tset d t k v) j = if j = k then v else tget d t j := by
  unfold tset; split
  · rename_i h; rw [tget_terase, h]
  · rw [tget_tput]

@[simp] theorem tget_tset_self {α : Type} [DecidableEq α] (d : α) (t : Tbl α) (k : Nat) (v : α) : tget d (tset d t k v) k = v := by
  simp [tget_tset]

theorem tget_tset_ne {α : Type} [DecidableEq α] (d : α) (t : Tbl α) {k j : Nat} (v : α) (h : j ≠ k) :
    tget d (tset d t k v) j = tget d t j := by simp [tget_tset, h]

theorem Memory.get_set (m : Memory) (a b : Nat) (v : Byte) : (m.set a v).get b = if b = a then v else m.get b := tget_tset _ _ _ _ _

theorem Memory.get_write (m : Memory) (bs : List Byte) (a b : Nat) :
    (m.write a bs).get b = if a ≤ b ∧ b < a + bs.length then bs.getD (b - a) 0 else m.get b := by
  induction bs generalizing m a with
  | nil => simp [Memory.write]
  | cons c bs ih =>
    rw [Memory.write, ih, Memory.get_set]
    by_cases h1 : b = a
    · subst h1; simp
    · by_cases h2 : a + 1 ≤ b ∧ b < a + 1 + bs.length
      · have h3 : a ≤ b ∧ b < a + (c :: bs).length := by simp; omega
        rw [if_pos h2, if_pos h3]
        obtain ⟨n, hn⟩ : ∃ n, b - a = n + 1 := ⟨b - a - 1, by omega⟩
        have : b - (a + 1) = n := by omega
        simp [hn, this]
      · have h3 : ¬(a ≤ b ∧ b < a + (c :: bs).length) := by simp; omega
        rw [if_neg h2, if_neg h3, if_neg h1]

theorem Memory.read_getD (m : Memory) (a n i : Nat) (h : i < n) : (m.read a n).getD i 0 = m.get (a + i) := by
  simp [Memory.read, h]

/-! ## Canonical form -/

/-- Every key listed is above the bound. -/
def above (lo : Option Nat) (k : Nat) : Prop := match lo with | none => True | some l => l < k

theorem trising_cons {α : Type} (lo : Option Nat) (k : Nat) (v : α) (t : Tbl α) :
    trising lo ((k, v) :: t) = true ↔ above lo k ∧ trising (some k) t = true := by
  cases lo <;> simp [trising, above]

theorem trising_weaken {α : Type} {lo : Option Nat} {k : Nat} (t : Tbl α) (h : above lo k) (ht : trising (some k) t = true) :
    trising lo t = true := by
  cases t with
  | nil => rfl
  | cons e t =>
    obtain ⟨j, u⟩ := e
    rw [trising_cons] at ht ⊢
    refine ⟨?_, ht.2⟩
    have h1 := ht.1
    cases lo with
    | none => trivial
    | some l => exact Nat.lt_trans h h1

theorem trising_terase {α : Type} (t : Tbl α) (k : Nat) : ∀ lo, trising lo t = true → trising lo (terase t k) = true := by
  induction t with
  | nil => intro lo _; rfl
  | cons e t ih =>
    obtain ⟨j, u⟩ := e
    intro lo h
    rw [trising_cons] at h
    by_cases hj : j = k
    · subst hj
      have : terase ((j, u) :: t) j = terase t j := by simp [terase]
      rw [this]; exact ih _ (trising_weaken t h.1 h.2)
    · have : terase ((j, u) :: t) k = (j, u) :: terase t k := by simp [terase, hj]
      rw [this, trising_cons]; exact ⟨h.1, ih _ h.2⟩

theorem trising_tput {α : Type} (t : Tbl α) (k : Nat) (v : α) :
    ∀ lo, above lo k → trising lo t = true → trising lo (tput t k v) = true := by
  induction t with
  | nil => intro lo h _; simp only [tput]; rw [trising_cons]; exact ⟨h, rfl⟩
  | cons e t ih =>
    obtain ⟨j, u⟩ := e
    intro lo h ht
    rw [trising_cons] at ht
    unfold tput
    split
    · rename_i hk; rw [trising_cons, trising_cons]; exact ⟨h, hk, ht.2⟩
    · split
      · rename_i hk; subst hk; rw [trising_cons]; exact ht
      · rw [trising_cons]; exact ⟨ht.1, ih _ (by show j < k; omega) ht.2⟩

theorem mem_tput {α : Type} {t : Tbl α} {k : Nat} {v : α} {e : Nat × α} (h : e ∈ tput t k v) : e = (k, v) ∨ e ∈ t := by
  induction t with
  | nil => simpa [tput] using h
  | cons c t ih =>
    obtain ⟨j, u⟩ := c
    unfold tput at h
    split at h
    · rcases List.mem_cons.1 h with h | h
      · exact .inl h
      · exact .inr h
    · split at h
      · rcases List.mem_cons.1 h with h | h
        · exact .inl h
        · exact .inr (List.mem_cons_of_mem _ h)
      · rcases List.mem_cons.1 h with h | h
        · exact .inr (h ▸ List.mem_cons_self ..)
        · rcases ih h with h | h
          · exact .inl h
          · exact .inr (List.mem_cons_of_mem _ h)

theorem twf_iff {α : Type} [DecidableEq α] (d : α) (t : Tbl α) : twf d t = true ↔ trising none t = true ∧ ∀ e ∈ t, e.2 ≠ d := by
  simp [twf, List.all_eq_true]

theorem twf_nil {α : Type} [DecidableEq α] (d : α) : twf d ([] : Tbl α) = true := rfl

theorem twf_terase {α : Type} [DecidableEq α] {d : α} {t : Tbl α} (h : twf d t = true) (k : Nat) : twf d (terase t k) = true := by
  rw [twf_iff] at h ⊢
  exact ⟨trising_terase t k _ h.1, fun e he => h.2 e (List.mem_of_mem_filter he)⟩

theorem twf_tset {α : Type} [DecidableEq α] {d : α} {t : Tbl α} (h : twf d t = true) (k : Nat) (v : α) : twf d (tset d t k v) = true := by
  unfold tset; split
  · exact twf_terase h k
  · rename_i hv
    rw [twf_iff] at h ⊢
    refine ⟨trising_tput t k v none trivial h.1, fun e he => ?_⟩
    rcases mem_tput he with rfl | he
    · exact hv
    · exact h.2 e he

theorem trising_filter {α : Type} (p : Nat × α → Bool) (t : Tbl α) : ∀ lo, trising lo t = true → trising lo (t.filter p) = true := by
  induction t with
  | nil => intro lo _; rfl
  | cons e t ih =>
    obtain ⟨j, u⟩ := e
    intro lo h
    rw [trising_cons] at h
    by_cases hp : p (j, u) = true
    · rw [List.filter_cons_of_pos hp, trising_cons]; exact ⟨h.1, ih _ h.2⟩
    · rw [List.filter_cons_of_neg hp]; exact ih _ (trising_weaken t h.1 h.2)

theorem twf_filter {α : Type} [DecidableEq α] {d : α} {t : Tbl α} (h : twf d t = true) (p : Nat × α → Bool) :
    twf d (t.filter p) = true := by
  rw [twf_iff] at h ⊢
  exact ⟨trising_filter p t _ h.1, fun e he => h.2 e (List.mem_of_mem_filter he)⟩

theorem Memory.wf_set {m : Memory} (h : m.wf = true) (a : Nat) (b : Byte) : (m.set a b).wf = true := twf_tset h a b

theorem Memory.wf_write {m : Memory} (h : m.wf = true) (a : Nat) (bs : List Byte) : (m.write a bs).wf = true := by
  induction bs generalizing m a with
  | nil => exact h
  | cons b bs ih => exact ih (Memory.wf_set h a b) (a + 1)

theorem Memory.wf_filter {m : Memory} (h : m.wf = true) (p : Host.Cell → Bool) : Memory.wf (m.filter p) = true := twf_filter h p

theorem Memory.wf_reset : State.reset.dram.wf = true ∧ State.reset.hostMem.wf = true := ⟨rfl, rfl⟩

/-! ## Two arrays in canonical form that read alike are the same list -/

theorem tget_below {α : Type} (d : α) (t : Tbl α) (k : Nat) (h : trising (some k) t = true) (j : Nat) (hj : j ≤ k) : tget d t j = d := by
  induction t generalizing k with
  | nil => rfl
  | cons e t ih =>
    obtain ⟨i, u⟩ := e
    rw [trising_cons] at h
    have hi : k < i := h.1
    have : i ≠ j := by omega
    simp only [tget, this, if_false]
    exact ih i h.2 (by omega)

end Sys2Proof.Machine
end

