-- ==== Sys2Proof/Laws/Lookup.lean ====
section
/-! SUPPORT. Laws/Lookup.lean: finding a group, a quad-set, a team, a launch and a copy after a change, and what the issuing quad-set is. -/

namespace Sys2Proof.Machine

/-! ## A change of one entry of a list -/

theorem find?_map_same {α : Type} (l : List α) (key : α → Nat) (f : α → α) (k : Nat) (hf : ∀ a, key a = k → key (f a) = k) :
    (l.map fun a => if key a = k then f a else a).find? (fun a => key a = k) = (l.find? fun a => key a = k).map f := by
  induction l with
  | nil => rfl
  | cons a l ih =>
    by_cases h : key a = k
    · simp [h, hf a h]
    · simp [h, ih]

theorem find?_map_other {α : Type} (l : List α) (key : α → Nat) (f : α → α) (k j : Nat) (hf : ∀ a, key a = k → key (f a) = k)
    (hj : j ≠ k) : (l.map fun a => if key a = k then f a else a).find? (fun a => key a = j) = l.find? fun a => key a = j := by
  induction l with
  | nil => rfl
  | cons a l ih =>
    by_cases h : key a = k
    · have h1 : ¬key (f a) = j := by rw [hf a h]; exact fun e => hj e.symm
      have h2 : ¬key a = j := by rw [h]; exact fun e => hj e.symm
      rw [List.map_cons, if_pos h, List.find?_cons_of_neg (by simpa using h1), List.find?_cons_of_neg (by simpa using h2), ih]
    · rw [List.map_cons, if_neg h]
      by_cases h2 : key a = j
      · rw [List.find?_cons_of_pos (by simpa using h2), List.find?_cons_of_pos (by simpa using h2)]
      · rw [List.find?_cons_of_neg (by simpa using h2), List.find?_cons_of_neg (by simpa using h2), ih]

theorem State.group?_modGroup (s : State) (r : Nat) (f : Group → Group) (hf : ∀ g, (f g).ref = g.ref) :
    (s.modGroup r f).group? r = (s.group? r).map f :=
  find?_map_same s.groups Group.ref f r fun g h => (hf g).trans h

theorem State.group?_modGroup_ne (s : State) {r j : Nat} (f : Group → Group) (hf : ∀ g, (f g).ref = g.ref) (h : j ≠ r) :
    (s.modGroup r f).group? j = s.group? j :=
  find?_map_other s.groups Group.ref f r j (fun g h => (hf g).trans h) h

theorem State.team?_modTeam (s : State) (r : Nat) (f : Team → Team) (hf : ∀ t, (f t).ref = t.ref) :
    (s.modTeam r f).team? r = (s.team? r).map f :=
  find?_map_same s.teams Team.ref f r fun t h => (hf t).trans h

theorem State.team?_modTeam_ne (s : State) {r j : Nat} (f : Team → Team) (hf : ∀ t, (f t).ref = t.ref) (h : j ≠ r) :
    (s.modTeam r f).team? j = s.team? j :=
  find?_map_other s.teams Team.ref f r j (fun t h => (hf t).trans h) h

theorem State.launch?_modLaunch (s : State) (r : Nat) (f : Launch → Launch) (hf : ∀ l, (f l).ref = l.ref) :
    (s.modLaunch r f).launch? r = (s.launch? r).map f :=
  find?_map_same s.launches Launch.ref f r fun l h => (hf l).trans h

theorem State.launch?_modLaunch_ne (s : State) {r j : Nat} (f : Launch → Launch) (hf : ∀ l, (f l).ref = l.ref) (h : j ≠ r) :
    (s.modLaunch r f).launch? j = s.launch? j :=
  find?_map_other s.launches Launch.ref f r j (fun l h => (hf l).trans h) h

theorem State.copy?_modCopy (s : State) (j : Nat) (f : Copy → Copy) (hf : ∀ c, (f c).job = c.job) :
    (s.modCopy j f).copy? j = (s.copy? j).map f :=
  find?_map_same s.copies Copy.job f j fun c h => (hf c).trans h

theorem State.copy?_modCopy_ne (s : State) {k j : Nat} (f : Copy → Copy) (hf : ∀ c, (f c).job = c.job) (h : k ≠ j) :
    (s.modCopy j f).copy? k = s.copy? k :=
  find?_map_other s.copies Copy.job f j k (fun c h => (hf c).trans h) h

theorem Group.q?_modQ (g : Group) (tag : Nat) (f : QSet → QSet) (hf : ∀ q, (f q).tag = q.tag) :
    (g.modQ tag f).q? tag = (g.q? tag).map f :=
  find?_map_same g.qsets QSet.tag f tag fun q h => (hf q).trans h

theorem Group.q?_modQ_ne (g : Group) {tag j : Nat} (f : QSet → QSet) (hf : ∀ q, (f q).tag = q.tag) (h : j ≠ tag) :
    (g.modQ tag f).q? j = g.q? j :=
  find?_map_other g.qsets QSet.tag f tag j (fun q h => (hf q).trans h) h

theorem State.coreOf_modCore (s : State) (c : Nat) (f : Core → Core) : (s.modCore c f).coreOf c = f (s.coreOf c) := by
  simp [State.modCore, State.coreOf]
theorem State.coreOf_modCore_ne (s : State) {c d : Nat} (f : Core → Core) (h : d ≠ c) : (s.modCore c f).coreOf d = s.coreOf d := by
  simp [State.modCore, State.coreOf, tget_tset, h]
theorem State.tenant_modTenant (s : State) (t : Nat) (f : Tenant → Tenant) : (s.modTenant t f).tenant t = f (s.tenant t) := by
  simp [State.modTenant, State.tenant]
theorem State.tenant_modTenant_ne (s : State) {t u : Nat} (f : Tenant → Tenant) (h : u ≠ t) : (s.modTenant t f).tenant u = s.tenant u := by
  simp [State.modTenant, State.tenant, tget_tset, h]
@[simp] theorem State.isSys_modFrame (s : State) (n m : Nat) (f : Frame → Frame) : (s.modFrame n f).isSys m = s.isSys m := rfl
theorem State.frame_modFrame (s : State) (n : Nat) (f : Frame → Frame) :
    (s.modFrame n f).frame n = if s.isSys n then { f (s.frame n) with ftype := 7 } else f (s.frame n) := by
  have h : tget Frame.reset (s.modFrame n f).frames n = f (s.frame n) := tget_tset_self ..
  conv_lhs => unfold State.frame
  rw [h, State.isSys_modFrame]
theorem State.frame_modFrame_ne (s : State) {n m : Nat} (f : Frame → Frame) (h : m ≠ n) : (s.modFrame n f).frame m = s.frame m := by
  have e : (s.modFrame n f).frames = tset Frame.reset s.frames n (f (s.frame n)) := rfl
  simp [State.frame, e, tget_tset, h]

/-! ## What the lookups answer carries the name looked up -/

theorem State.ref_of_group? {s : State} {r : Nat} {g : Group} (h : s.group? r = some g) : g.ref = r := by
  simpa using List.find?_some h
theorem State.ref_of_team? {s : State} {r : Nat} {t : Team} (h : s.team? r = some t) : t.ref = r := by
  simpa using List.find?_some h
theorem State.ref_of_launch? {s : State} {r : Nat} {l : Launch} (h : s.launch? r = some l) : l.ref = r := by
  simpa using List.find?_some h
theorem State.job_of_copy? {s : State} {j : Nat} {c : Copy} (h : s.copy? j = some c) : c.job = j := by
  simpa using List.find?_some h
theorem Group.tag_of_q? {g : Group} {tag : Nat} {q : QSet} (h : g.q? tag = some q) : q.tag = tag := by
  simpa using List.find?_some h

/-! ## The issuing quad-set -/

/-- What a quad-set to issue is made of. -/
theorem State.issAt_some {s : State} {grp tag : Nat} {x : Iss} (h : s.issAt grp tag = some x) :
    s.group? grp = some x.g ∧ x.g.ref = grp ∧ x.g.q? tag = some x.q ∧ x.q.tag = tag ∧ s.homeOf x.g = some (x.t, x.l) ∧ x.free = s.free := by
  unfold State.issAt at h
  split at h
  · cases h
  · rename_i g hg
    split at h
    · rename_i q t l hq hh
      cases h
      exact ⟨hg, State.ref_of_group? hg, hq, Group.tag_of_q? hq, hh, rfl⟩
    · cases h

theorem State.iss_some {s : State} {x : Iss} (h : s.iss = some x) :
    s.group? x.g.ref = some x.g ∧ x.g.q? x.q.tag = some x.q ∧ s.homeOf x.g = some (x.t, x.l) ∧ x.free = s.free := by
  unfold State.iss at h
  split at h
  · cases h
  · obtain ⟨h1, h2, h3, h4, h5, h6⟩ := State.issAt_some h
    exact ⟨h2 ▸ h1, h4 ▸ h3, h5, h6⟩

theorem State.homeOf_some {s : State} {g : Group} {t : Team} {l : Launch} (h : s.homeOf g = some (t, l)) :
    s.team? g.team = some t ∧ s.launch? t.launch = some l := by
  unfold State.homeOf at h
  split at h
  · cases h
  · rename_i u hu
    split at h
    · cases h
    · rename_i k hk
      simp only [Option.some.injEq, Prod.mk.injEq] at h
      obtain ⟨rfl, rfl⟩ := h
      exact ⟨hu, hk⟩

/-! ## Masks -/

theorem bit_or_shift (m : W64) (i l : Nat) (hl : l < 64) : bit (m ||| (1#64 <<< i)) l = (bit m l || decide (l = i)) := by
  simp only [bit, BitVec.getLsbD_or, BitVec.getLsbD_shiftLeft, hl, decide_true, Bool.true_and]
  by_cases h : l < i
  · simp [h, Nat.ne_of_lt h]
  · by_cases h2 : l = i
    · subst h2; simp
    · have h3 : l - i ≠ 0 := by omega
      simp [h, h2, h3]

theorem bit_maskOf (f : Nat → Bool) (l : Nat) (hl : l < 64) : bit (maskOf f) l = f l := by
  have key : ∀ (n : Nat) (l : Nat), l < 64 →
      bit ((List.range n).foldl (fun m i => if f i then m ||| (1#64 <<< i) else m) 0#64) l = (f l && decide (l < n)) := by
    intro n
    induction n with
    | zero => intro l _; simp [bit]
    | succ n ih =>
      intro l hl
      rw [List.range_succ, List.foldl_append]
      simp only [List.foldl_cons, List.foldl_nil]
      split
      · rename_i h
        rw [bit_or_shift _ _ _ hl, ih l hl]
        by_cases h2 : l = n
        · subst h2; simp [h]
        · have : (l < n + 1) = (l < n) := by simp; omega
          simp [h2, this]
      · rename_i h
        rw [ih l hl]
        by_cases h2 : l = n
        · subst h2; simp [h]
        · have : (l < n + 1) = (l < n) := by simp; omega
          simp [this]
  have := key 64 l hl
  simpa [maskOf, hl] using this

theorem mem_bitList {m : W64} {l : Nat} : l ∈ bitList m ↔ l < 64 ∧ bit m l = true := by simp [bitList]

theorem bitList_nodup (m : W64) : (bitList m).Nodup := List.Nodup.filter _ List.nodup_range

theorem mask_ext {a b : W64} (h : ∀ l, l < 64 → bit a l = bit b l) : a = b := by
  apply BitVec.eq_of_getLsbD_eq
  intro i hi
  exact h i hi

end Sys2Proof.Machine
end

