-- ==== Sys2Proof/Laws/Regs.lean ====
section
/-! SUPPORT. Laws/Regs.lean: what each write of a register does to the register files, and that it touches nothing else of its group. -/

namespace Sys2Proof.Machine

/-! ## Only the registers, and the bookkeeping of what is in flight -/

/-- `g'` is `g` but for its registers and the bookkeeping of what is in flight. -/
structure RegOnly (g g' : Group) : Prop where
  eq : g' = { g with regs := g'.regs, flights := g'.flights, busy := g'.busy }
  fids : g'.flights.map (·.fid) = g.flights.map (·.fid)

theorem RegOnly.refl (g : Group) : RegOnly g g := ⟨rfl, rfl⟩

theorem RegOnly.trans {a b c : Group} (h : RegOnly a b) (k : RegOnly b c) : RegOnly a c := by
  refine ⟨?_, k.fids.trans h.fids⟩
  have h1 := h.eq
  have h2 := k.eq
  rw [h1] at h2
  exact h2

theorem RegOnly.ref {a b : Group} (h : RegOnly a b) : b.ref = a.ref := by rw [h.eq]
theorem RegOnly.qsets {a b : Group} (h : RegOnly a b) : b.qsets = a.qsets := by rw [h.eq]
theorem RegOnly.team {a b : Group} (h : RegOnly a b) : b.team = a.team := by rw [h.eq]

/-- A change of the registers alone. -/
theorem RegOnly.regs (g : Group) (r : Regs) : RegOnly g { g with regs := r } := ⟨rfl, rfl⟩

theorem Group.hitBusy_only (g : Group) (file : RegFile) (n l : Nat) : RegOnly g (g.hitBusy file n l) := by
  unfold Group.hitBusy; split
  · exact ⟨rfl, rfl⟩
  · exact .refl g

@[simp] theorem Group.hitBusy_regs (g : Group) (file : RegFile) (n l : Nat) : (g.hitBusy file n l).regs = g.regs := by
  unfold Group.hitBusy; split <;> rfl

theorem Group.spoilRow_only (g : Group) (r l : Nat) : RegOnly g (g.spoilRow r l) := by
  unfold Group.spoilRow; split
  · refine ⟨rfl, ?_⟩
    rw [List.map_map]
    apply List.map_congr_left
    intro f _
    simp only [Function.comp]
    split <;> rfl
  · exact .refl g

@[simp] theorem Group.spoilRow_regs (g : Group) (r l : Nat) : (g.spoilRow r l).regs = g.regs := by
  unfold Group.spoilRow; split <;> rfl

/-! ## One lane of a lane register -/

theorem Group.wrLane_only (g : Group) (r l : Nat) (v : W32) : RegOnly g (g.wrLane r l v) := by
  unfold Group.wrLane; split
  · exact .refl g
  · exact ((g.hitBusy_only .lane r l).trans (Group.spoilRow_only _ r l)).trans (.regs _ _)

theorem Group.wrLane_regs (g : Group) (r l : Nat) (v : W32) :
    (g.wrLane r l v).regs = if bit g.regs.dead l then g.regs else { g.regs with lanes := tset 0 g.regs.lanes (64 * r + l) v } := by
  unfold Group.wrLane; split <;> rfl

/-- Lanes below 64 are apart. -/
theorem lane_key {r l k j : Nat} (hl : l < 64) (hj : j < 64) : 64 * r + l = 64 * k + j ↔ r = k ∧ l = j := by omega

theorem Group.lane_wrLane (g : Group) (r l k j : Nat) (v : W32) (hl : l < 64) (hj : j < 64) :
    (g.wrLane r l v).lane k j = if k = r ∧ j = l ∧ bit g.regs.dead l = false then v else g.lane k j := by
  unfold Group.lane
  rw [Group.wrLane_regs]
  cases hd : bit g.regs.dead l
  · simp only [Bool.false_eq_true, if_false, tget_tset, lane_key hj hl, and_true]
  · simp

/-! ## Scalars, masks and flags -/

theorem Group.wrScal_only (g : Group) (n : Nat) (v : W64) : RegOnly g (g.wrScal n v) := by
  unfold Group.wrScal; split
  · exact .refl g
  · exact (g.hitBusy_only .scalar n 0).trans (.regs _ _)

theorem Group.wrScal_regs (g : Group) (n : Nat) (v : W64) :
    (g.wrScal n v).regs = if n = 0 then g.regs else { g.regs with scal := tset 0 g.regs.scal n v } := by
  unfold Group.wrScal; split <;> rfl

theorem Group.scal_wrScal (g : Group) (d n : Nat) (v : W64) :
    (g.wrScal d v).scal n = if n = d ∧ n ≠ 0 then v else g.scal n := by
  unfold Group.scal
  rw [Group.wrScal_regs]
  by_cases h0 : n = 0
  · simp [h0]
  · by_cases hd : d = 0
    · subst hd; simp [h0]
    · simp [h0, hd, tget_tset]

theorem Group.wrMaskBit_only (g : Group) (n l : Nat) (b : Bool) : RegOnly g (g.wrMaskBit n l b) := by
  unfold Group.wrMaskBit; split
  · exact .refl g
  · exact (g.hitBusy_only .mask n l).trans (.regs _ _)

theorem Group.wrMaskBit_regs (g : Group) (n l : Nat) (b : Bool) :
    (g.wrMaskBit n l b).regs = if n = 0 then g.regs else
      { g.regs with masks := tset 0 g.regs.masks n (maskOf fun i => if i = l then b else bit (g.mask n) i) } := by
  unfold Group.wrMaskBit; split <;> rfl

theorem Group.mask_wrMaskBit (g : Group) (d l n j : Nat) (b : Bool) (hj : j < 64) :
    bit ((g.wrMaskBit d l b).mask n) j = if n = d ∧ n ≠ 0 ∧ j = l then b else bit (g.mask n) j := by
  have e : (g.wrMaskBit d l b).mask n =
      if n = 0 then BitVec.allOnes 64 else tget 0 (g.wrMaskBit d l b).regs.masks n := rfl
  have e2 : g.mask n = if n = 0 then BitVec.allOnes 64 else tget 0 g.regs.masks n := rfl
  rw [e, Group.wrMaskBit_regs]
  by_cases h0 : n = 0
  · rw [e2]; simp [h0]
  · by_cases hd : d = 0
    · subst hd; simp [h0, e2]
    · by_cases hn : n = d
      · subst hn; simp [h0, bit_maskOf _ _ hj]
      · simp [h0, hd, hn, tget_tset, e2]

theorem foldl_hitBusy_regs (ls : List Nat) (g : Group) (n : Nat) : (ls.foldl (fun g l => g.hitBusy .mask n l) g).regs = g.regs := by
  induction ls generalizing g with
  | nil => rfl
  | cons l ls ih => rw [List.foldl_cons, ih]; simp

theorem foldl_hitBusy_only (ls : List Nat) (g : Group) (n : Nat) : RegOnly g (ls.foldl (fun g l => g.hitBusy .mask n l) g) := by
  induction ls generalizing g with
  | nil => exact .refl g
  | cons l ls ih => exact (g.hitBusy_only .mask n l).trans (ih _)

theorem Group.wrMask_only (g : Group) (n : Nat) (lanes v : W64) : RegOnly g (g.wrMask n lanes v) := by
  unfold Group.wrMask; split
  · exact .refl g
  · exact (foldl_hitBusy_only _ g n).trans (.regs _ _)

theorem Group.wrMask_regs (g : Group) (n : Nat) (lanes v : W64) :
    (g.wrMask n lanes v).regs = if n = 0 then g.regs else
      { g.regs with masks := tset 0 g.regs.masks n (maskOf fun i => if bit lanes i then bit v i else bit (g.mask n) i) } := by
  unfold Group.wrMask; split
  · rfl
  · have h : ∀ k, Group.mask (List.foldl (fun g l => g.hitBusy .mask n l) g (bitList lanes)) k = g.mask k := by
      intro k; simp only [Group.mask, foldl_hitBusy_regs]
    simp only [foldl_hitBusy_regs, h]

theorem Group.mask_wrMask (g : Group) (d n j : Nat) (lanes v : W64) (hj : j < 64) :
    bit ((g.wrMask d lanes v).mask n) j = if n = d ∧ n ≠ 0 ∧ bit lanes j then bit v j else bit (g.mask n) j := by
  have e : (g.wrMask d lanes v).mask n =
      if n = 0 then BitVec.allOnes 64 else tget 0 (g.wrMask d lanes v).regs.masks n := rfl
  have e2 : g.mask n = if n = 0 then BitVec.allOnes 64 else tget 0 g.regs.masks n := rfl
  rw [e, Group.wrMask_regs]
  by_cases h0 : n = 0
  · rw [e2]; simp [h0]
  · by_cases hd : d = 0
    · subst hd; simp [h0, e2]
    · by_cases hn : n = d
      · subst hn; simp [h0, bit_maskOf _ _ hj]
      · simp [h0, hd, hn, tget_tset, e2]

theorem Group.setCc_only (g : Group) (cc : BitVec 4) : RegOnly g (g.setCc cc) := ⟨rfl, rfl⟩
theorem Group.orFp_only (g : Group) (f : BitVec 5) : RegOnly g (g.orFp f) := ⟨rfl, rfl⟩

/-! ## One destination register of a lane -/

theorem Group.wrLoc_only (g : Group) (o : Loc) (l : Nat) (v : W32) : RegOnly g (g.wrLoc o l v) := by
  cases o with
  | lane r => exact g.wrLane_only r l v
  | mask n => exact g.wrMaskBit_only n l _
  | scal n => exact .refl g
  | imm w => exact .refl g
  | zero => exact .refl g

/-- What a write of a destination register does to the register files: lane registers, masks, and nothing else. -/
structure FileWrite (g g' : Group) : Prop where
  only : RegOnly g g'
  rest : { g'.regs with lanes := g.regs.lanes, masks := g.regs.masks } = g.regs

theorem FileWrite.refl (g : Group) : FileWrite g g := ⟨.refl g, rfl⟩
theorem FileWrite.trans {a b c : Group} (h : FileWrite a b) (k : FileWrite b c) : FileWrite a c := by
  refine ⟨h.only.trans k.only, ?_⟩
  have h1 := h.rest
  have k1 := k.rest
  rw [← h1, ← k1]
theorem FileWrite.dead {a b : Group} (h : FileWrite a b) : b.regs.dead = a.regs.dead := by rw [← h.rest]

theorem Group.wrLane_file (g : Group) (r l : Nat) (v : W32) : FileWrite g (g.wrLane r l v) := by
  refine ⟨g.wrLane_only r l v, ?_⟩
  rw [Group.wrLane_regs]; split <;> rfl
theorem Group.wrMaskBit_file (g : Group) (n l : Nat) (b : Bool) : FileWrite g (g.wrMaskBit n l b) := by
  refine ⟨g.wrMaskBit_only n l b, ?_⟩
  rw [Group.wrMaskBit_regs]; split <;> rfl
theorem Group.wrMask_file (g : Group) (n : Nat) (lanes v : W64) : FileWrite g (g.wrMask n lanes v) := by
  refine ⟨g.wrMask_only n lanes v, ?_⟩
  rw [Group.wrMask_regs]; split <;> rfl

theorem Group.wrLoc_file (g : Group) (o : Loc) (l : Nat) (v : W32) : FileWrite g (g.wrLoc o l v) := by
  cases o with
  | lane r => exact g.wrLane_file r l v
  | mask n => exact g.wrMaskBit_file n l _
  | scal n => exact .refl g
  | imm w => exact .refl g
  | zero => exact .refl g

theorem Group.lane_wrMaskBit (g : Group) (n l : Nat) (b : Bool) (r j : Nat) : (g.wrMaskBit n l b).lane r j = g.lane r j := by
  unfold Group.lane; rw [Group.wrMaskBit_regs]; split <;> rfl
theorem Group.lane_wrMask (g : Group) (n : Nat) (lanes v : W64) (r j : Nat) : (g.wrMask n lanes v).lane r j = g.lane r j := by
  unfold Group.lane; rw [Group.wrMask_regs]; split <;> rfl
theorem Group.mask_wrLane (g : Group) (r l n : Nat) (v : W32) : (g.wrLane r l v).mask n = g.mask n := by
  have h : (g.wrLane r l v).regs.masks = g.regs.masks := by rw [Group.wrLane_regs]; split <;> rfl
  simp only [Group.mask, h]
theorem Group.lane_wrScal (g : Group) (n : Nat) (v : W64) (r j : Nat) : (g.wrScal n v).lane r j = g.lane r j := by
  unfold Group.lane; rw [Group.wrScal_regs]; split <;> rfl
theorem Group.mask_wrScal (g : Group) (d n : Nat) (v : W64) : (g.wrScal d v).mask n = g.mask n := by
  have h : (g.wrScal d v).regs.masks = g.regs.masks := by rw [Group.wrScal_regs]; split <;> rfl
  simp only [Group.mask, h]

theorem Group.lane_wrLoc (g : Group) (o : Loc) (l r j : Nat) (v : W32) (hl : l < 64) (hj : j < 64) :
    (g.wrLoc o l v).lane r j = if j = l ∧ bit g.regs.dead l = false ∧ o = .lane r then v else g.lane r j := by
  cases o with
  | lane k =>
    show (g.wrLane k l v).lane r j = _
    rw [Group.lane_wrLane _ _ _ _ _ _ hl hj]
    by_cases h : r = k
    · subst h; by_cases h2 : j = l <;> simp [h2]
    · have : Loc.lane k ≠ Loc.lane r := fun e => h (by injection e with e; exact e.symm)
      simp [h, this]
  | mask n => simp [Group.wrLoc, Group.lane_wrMaskBit]
  | scal n => simp [Group.wrLoc]
  | imm w => simp [Group.wrLoc]
  | zero => simp [Group.wrLoc]

theorem Group.mask_wrLoc (g : Group) (o : Loc) (l n j : Nat) (v : W32) (hj : j < 64) :
    bit ((g.wrLoc o l v).mask n) j = if j = l ∧ o = .mask n ∧ n ≠ 0 then decide (v ≠ 0) else bit (g.mask n) j := by
  cases o with
  | lane k => simp [Group.wrLoc, Group.mask_wrLane]
  | mask k =>
    show bit ((g.wrMaskBit k l _).mask n) j = _
    rw [Group.mask_wrMaskBit _ _ _ _ _ _ hj]
    by_cases h : n = k
    · subst h; by_cases h2 : j = l <;> simp [h2]
    · have : Loc.mask k ≠ Loc.mask n := fun e => h (by injection e with e; exact e.symm)
      simp [h, this]
  | scal k => simp [Group.wrLoc]
  | imm w => simp [Group.wrLoc]
  | zero => simp [Group.wrLoc]

/-! ## All destination registers of a lane, and of all lanes -/

theorem foldl_wrLoc_file (es : List (Loc × Nat)) (g : Group) (l : Nat) (f : Nat → W32) :
    FileWrite g (es.foldl (fun g e => g.wrLoc e.1 l (f e.2)) g) := by
  induction es generalizing g with
  | nil => exact .refl g
  | cons e es ih => exact (g.wrLoc_file e.1 l (f e.2)).trans (ih _)

theorem foldl_wrLoc_lane (es : List (Loc × Nat)) (g : Group) (l : Nat) (f : Nat → W32) (r j : Nat) (hl : l < 64) (hj : j < 64) :
    (es.foldl (fun g e => g.wrLoc e.1 l (f e.2)) g).lane r j =
      if j = l ∧ bit g.regs.dead l = false then es.foldl (fun v e => if e.1 = .lane r then f e.2 else v) (g.lane r j) else g.lane r j := by
  induction es generalizing g with
  | nil => simp
  | cons e es ih =>
    rw [List.foldl_cons, ih, List.foldl_cons, (g.wrLoc_file e.1 l (f e.2)).dead, Group.lane_wrLoc _ _ _ _ _ _ hl hj]
    by_cases h : j = l ∧ bit g.regs.dead l = false
    · simp [h]
    · have h2 : ¬(j = l ∧ bit g.regs.dead l = false ∧ e.1 = .lane r) := fun k => h ⟨k.1, k.2.1⟩
      simp [h, h2]

theorem foldl_wrLoc_mask (es : List (Loc × Nat)) (g : Group) (l : Nat) (f : Nat → W32) (n j : Nat) (hj : j < 64) :
    bit ((es.foldl (fun g e => g.wrLoc e.1 l (f e.2)) g).mask n) j =
      if j = l then es.foldl (fun v e => if e.1 = .mask n ∧ n ≠ 0 then decide (f e.2 ≠ 0) else v) (bit (g.mask n) j)
      else bit (g.mask n) j := by
  induction es generalizing g with
  | nil => simp
  | cons e es ih =>
    rw [List.foldl_cons, ih, List.foldl_cons, Group.mask_wrLoc _ _ _ _ _ _ hj]
    by_cases h : j = l
    · simp [h]
    · simp [h]

theorem Group.wrRegs_eq (g : Group) (os : List Loc) (l : Nat) (f : Nat → W32) :
    g.wrRegs os l f = os.zipIdx.foldl (fun g e => g.wrLoc e.1 l (f e.2)) g := rfl

theorem foldl_wrRegs_file (ls : List Nat) (g : Group) (os : List Loc) (f : Nat → Nat → W32) :
    FileWrite g (ls.foldl (fun g l => g.wrRegs os l fun i => f i l) g) := by
  induction ls generalizing g with
  | nil => exact .refl g
  | cons l ls ih => exact (foldl_wrLoc_file _ g l fun i => f i l).trans (ih _)

theorem foldl_wrRegs_lane (ls : List Nat) (g : Group) (os : List Loc) (f : Nat → Nat → W32) (r j : Nat) (hn : ls.Nodup)
    (hl : ∀ l ∈ ls, l < 64) (hj : j < 64) :
    (ls.foldl (fun g l => g.wrRegs os l fun i => f i l) g).lane r j =
      if j ∈ ls ∧ bit g.regs.dead j = false then laneAfter os f r j (g.lane r j) else g.lane r j := by
  induction ls generalizing g with
  | nil => simp
  | cons l ls ih =>
    rw [List.nodup_cons] at hn
    have hl0 := hl l (List.mem_cons_self ..)
    rw [List.foldl_cons, ih _ hn.2 (fun k hk => hl k (List.mem_cons_of_mem _ hk)), Group.wrRegs_eq,
      (foldl_wrLoc_file _ g l fun i => f i l).dead, foldl_wrLoc_lane _ _ _ (fun i => f i l) _ _ hl0 hj]
    by_cases h : j = l
    · subst h
      simp only [hn.1, List.mem_cons, true_or, false_and, if_false, true_and]
      rfl
    · simp [h]

theorem foldl_wrRegs_mask (ls : List Nat) (g : Group) (os : List Loc) (f : Nat → Nat → W32) (n j : Nat) (hn : ls.Nodup) (hj : j < 64) :
    bit ((ls.foldl (fun g l => g.wrRegs os l fun i => f i l) g).mask n) j =
      if j ∈ ls then maskAfter os f n j (bit (g.mask n) j) else bit (g.mask n) j := by
  induction ls generalizing g with
  | nil => simp
  | cons l ls ih =>
    rw [List.nodup_cons] at hn
    rw [List.foldl_cons, ih _ hn.2, Group.wrRegs_eq, foldl_wrLoc_mask _ _ _ (fun i => f i l) _ _ hj]
    by_cases h : j = l
    · subst h
      simp only [hn.1, List.mem_cons, true_or, if_false, if_true]
      rfl
    · simp [h]

/-- A destination written in all executing lanes: nothing else of the group changes. -/
theorem Group.wrDest_file (g : Group) (ex : W64) (os : List Loc) (f : Nat → Nat → W32) : FileWrite g (g.wrDest ex os f) :=
  foldl_wrRegs_file _ g os f

/-- The lane registers after it. -/
theorem Group.lane_wrDest (g : Group) (ex : W64) (os : List Loc) (f : Nat → Nat → W32) (r j : Nat) (hj : j < 64) :
    (g.wrDest ex os f).lane r j =
      if bit ex j ∧ bit g.regs.dead j = false then laneAfter os f r j (g.lane r j) else g.lane r j := by
  rw [Group.wrDest, Group.wrLanes, foldl_wrRegs_lane _ _ _ _ _ _ (bitList_nodup ex) (fun l h => (mem_bitList.1 h).1) hj]
  simp [mem_bitList, hj]

/-- The masks after it. -/
theorem Group.mask_wrDest (g : Group) (ex : W64) (os : List Loc) (f : Nat → Nat → W32) (n j : Nat) (hj : j < 64) :
    bit ((g.wrDest ex os f).mask n) j = if bit ex j then maskAfter os f n j (bit (g.mask n) j) else bit (g.mask n) j := by
  rw [Group.wrDest, Group.wrLanes, foldl_wrRegs_mask _ _ _ _ _ _ (bitList_nodup ex) hj]
  simp [mem_bitList, hj]

end Sys2Proof.Machine
end

