-- ==== Sys2Proof/Laws/State.lean ====
section
/-! SUPPORT. Laws/State.lean: what each update of the state, of a group and of a quad-set leaves as it was: one lemma a field, each true by
definition. -/

namespace Sys2Proof.Machine

/-! ## State.modGroup -/

@[simp] theorem State.modGroup_agenda (s : State) (r : Nat) (f : Group → Group) : (s.modGroup r f).agenda = s.agenda := rfl
@[simp] theorem State.modGroup_focus (s : State) (r : Nat) (f : Group → Group) : (s.modGroup r f).focus = s.focus := rfl
@[simp] theorem State.modGroup_sel (s : State) (r : Nat) (f : Group → Group) : (s.modGroup r f).sel = s.sel := rfl
@[simp] theorem State.modGroup_free (s : State) (r : Nat) (f : Group → Group) : (s.modGroup r f).free = s.free := rfl
@[simp] theorem State.modGroup_next (s : State) (r : Nat) (f : Group → Group) : (s.modGroup r f).next = s.next := rfl
@[simp] theorem State.modGroup_tick (s : State) (r : Nat) (f : Group → Group) : (s.modGroup r f).tick = s.tick := rfl
@[simp] theorem State.modGroup_launches (s : State) (r : Nat) (f : Group → Group) : (s.modGroup r f).launches = s.launches := rfl
@[simp] theorem State.modGroup_teams (s : State) (r : Nat) (f : Group → Group) : (s.modGroup r f).teams = s.teams := rfl
@[simp] theorem State.modGroup_copies (s : State) (r : Nat) (f : Group → Group) : (s.modGroup r f).copies = s.copies := rfl
@[simp] theorem State.modGroup_finMsgs (s : State) (r : Nat) (f : Group → Group) : (s.modGroup r f).finMsgs = s.finMsgs := rfl
@[simp] theorem State.modGroup_cores (s : State) (r : Nat) (f : Group → Group) : (s.modGroup r f).cores = s.cores := rfl
@[simp] theorem State.modGroup_tenants (s : State) (r : Nat) (f : Group → Group) : (s.modGroup r f).tenants = s.tenants := rfl
@[simp] theorem State.modGroup_frames (s : State) (r : Nat) (f : Group → Group) : (s.modGroup r f).frames = s.frames := rfl
@[simp] theorem State.modGroup_dram (s : State) (r : Nat) (f : Group → Group) : (s.modGroup r f).dram = s.dram := rfl
@[simp] theorem State.modGroup_hostMem (s : State) (r : Nat) (f : Group → Group) : (s.modGroup r f).hostMem = s.hostMem := rfl
@[simp] theorem State.modGroup_l2 (s : State) (r : Nat) (f : Group → Group) : (s.modGroup r f).l2 = s.l2 := rfl
@[simp] theorem State.modGroup_sil (s : State) (r : Nat) (f : Group → Group) : (s.modGroup r f).sil = s.sil := rfl
@[simp] theorem State.modGroup_tlb (s : State) (r : Nat) (f : Group → Group) : (s.modGroup r f).tlb = s.tlb := rfl
@[simp] theorem State.modGroup_atlb (s : State) (r : Nat) (f : Group → Group) : (s.modGroup r f).atlb = s.atlb := rfl
@[simp] theorem State.modGroup_adms (s : State) (r : Nat) (f : Group → Group) : (s.modGroup r f).adms = s.adms := rfl
@[simp] theorem State.modGroup_bad (s : State) (r : Nat) (f : Group → Group) : (s.modGroup r f).bad = s.bad := rfl
@[simp] theorem State.modGroup_imports (s : State) (r : Nat) (f : Group → Group) : (s.modGroup r f).imports = s.imports := rfl
@[simp] theorem State.modGroup_fabricOut (s : State) (r : Nat) (f : Group → Group) : (s.modGroup r f).fabricOut = s.fabricOut := rfl
@[simp] theorem State.modGroup_irqs (s : State) (r : Nat) (f : Group → Group) : (s.modGroup r f).irqs = s.irqs := rfl
@[simp] theorem State.modGroup_hostReply (s : State) (r : Nat) (f : Group → Group) : (s.modGroup r f).hostReply = s.hostReply := rfl
@[simp] theorem State.modGroup_links (s : State) (r : Nat) (f : Group → Group) : (s.modGroup r f).links = s.links := rfl
@[simp] theorem State.modGroup_lodge (s : State) (r : Nat) (f : Group → Group) : (s.modGroup r f).lodge = s.lodge := rfl

/-! ## State.modTeam -/

@[simp] theorem State.modTeam_agenda (s : State) (r : Nat) (f : Team → Team) : (s.modTeam r f).agenda = s.agenda := rfl
@[simp] theorem State.modTeam_focus (s : State) (r : Nat) (f : Team → Team) : (s.modTeam r f).focus = s.focus := rfl
@[simp] theorem State.modTeam_sel (s : State) (r : Nat) (f : Team → Team) : (s.modTeam r f).sel = s.sel := rfl
@[simp] theorem State.modTeam_free (s : State) (r : Nat) (f : Team → Team) : (s.modTeam r f).free = s.free := rfl
@[simp] theorem State.modTeam_next (s : State) (r : Nat) (f : Team → Team) : (s.modTeam r f).next = s.next := rfl
@[simp] theorem State.modTeam_tick (s : State) (r : Nat) (f : Team → Team) : (s.modTeam r f).tick = s.tick := rfl
@[simp] theorem State.modTeam_launches (s : State) (r : Nat) (f : Team → Team) : (s.modTeam r f).launches = s.launches := rfl
@[simp] theorem State.modTeam_groups (s : State) (r : Nat) (f : Team → Team) : (s.modTeam r f).groups = s.groups := rfl
@[simp] theorem State.modTeam_copies (s : State) (r : Nat) (f : Team → Team) : (s.modTeam r f).copies = s.copies := rfl
@[simp] theorem State.modTeam_finMsgs (s : State) (r : Nat) (f : Team → Team) : (s.modTeam r f).finMsgs = s.finMsgs := rfl
@[simp] theorem State.modTeam_cores (s : State) (r : Nat) (f : Team → Team) : (s.modTeam r f).cores = s.cores := rfl
@[simp] theorem State.modTeam_tenants (s : State) (r : Nat) (f : Team → Team) : (s.modTeam r f).tenants = s.tenants := rfl
@[simp] theorem State.modTeam_frames (s : State) (r : Nat) (f : Team → Team) : (s.modTeam r f).frames = s.frames := rfl
@[simp] theorem State.modTeam_dram (s : State) (r : Nat) (f : Team → Team) : (s.modTeam r f).dram = s.dram := rfl
@[simp] theorem State.modTeam_hostMem (s : State) (r : Nat) (f : Team → Team) : (s.modTeam r f).hostMem = s.hostMem := rfl
@[simp] theorem State.modTeam_l2 (s : State) (r : Nat) (f : Team → Team) : (s.modTeam r f).l2 = s.l2 := rfl
@[simp] theorem State.modTeam_sil (s : State) (r : Nat) (f : Team → Team) : (s.modTeam r f).sil = s.sil := rfl
@[simp] theorem State.modTeam_tlb (s : State) (r : Nat) (f : Team → Team) : (s.modTeam r f).tlb = s.tlb := rfl
@[simp] theorem State.modTeam_atlb (s : State) (r : Nat) (f : Team → Team) : (s.modTeam r f).atlb = s.atlb := rfl
@[simp] theorem State.modTeam_adms (s : State) (r : Nat) (f : Team → Team) : (s.modTeam r f).adms = s.adms := rfl
@[simp] theorem State.modTeam_bad (s : State) (r : Nat) (f : Team → Team) : (s.modTeam r f).bad = s.bad := rfl
@[simp] theorem State.modTeam_imports (s : State) (r : Nat) (f : Team → Team) : (s.modTeam r f).imports = s.imports := rfl
@[simp] theorem State.modTeam_fabricOut (s : State) (r : Nat) (f : Team → Team) : (s.modTeam r f).fabricOut = s.fabricOut := rfl
@[simp] theorem State.modTeam_irqs (s : State) (r : Nat) (f : Team → Team) : (s.modTeam r f).irqs = s.irqs := rfl
@[simp] theorem State.modTeam_hostReply (s : State) (r : Nat) (f : Team → Team) : (s.modTeam r f).hostReply = s.hostReply := rfl
@[simp] theorem State.modTeam_links (s : State) (r : Nat) (f : Team → Team) : (s.modTeam r f).links = s.links := rfl
@[simp] theorem State.modTeam_lodge (s : State) (r : Nat) (f : Team → Team) : (s.modTeam r f).lodge = s.lodge := rfl

/-! ## State.modLaunch -/

@[simp] theorem State.modLaunch_agenda (s : State) (r : Nat) (f : Launch → Launch) : (s.modLaunch r f).agenda = s.agenda := rfl
@[simp] theorem State.modLaunch_focus (s : State) (r : Nat) (f : Launch → Launch) : (s.modLaunch r f).focus = s.focus := rfl
@[simp] theorem State.modLaunch_sel (s : State) (r : Nat) (f : Launch → Launch) : (s.modLaunch r f).sel = s.sel := rfl
@[simp] theorem State.modLaunch_free (s : State) (r : Nat) (f : Launch → Launch) : (s.modLaunch r f).free = s.free := rfl
@[simp] theorem State.modLaunch_next (s : State) (r : Nat) (f : Launch → Launch) : (s.modLaunch r f).next = s.next := rfl
@[simp] theorem State.modLaunch_tick (s : State) (r : Nat) (f : Launch → Launch) : (s.modLaunch r f).tick = s.tick := rfl
@[simp] theorem State.modLaunch_teams (s : State) (r : Nat) (f : Launch → Launch) : (s.modLaunch r f).teams = s.teams := rfl
@[simp] theorem State.modLaunch_groups (s : State) (r : Nat) (f : Launch → Launch) : (s.modLaunch r f).groups = s.groups := rfl
@[simp] theorem State.modLaunch_copies (s : State) (r : Nat) (f : Launch → Launch) : (s.modLaunch r f).copies = s.copies := rfl
@[simp] theorem State.modLaunch_finMsgs (s : State) (r : Nat) (f : Launch → Launch) : (s.modLaunch r f).finMsgs = s.finMsgs := rfl
@[simp] theorem State.modLaunch_cores (s : State) (r : Nat) (f : Launch → Launch) : (s.modLaunch r f).cores = s.cores := rfl
@[simp] theorem State.modLaunch_tenants (s : State) (r : Nat) (f : Launch → Launch) : (s.modLaunch r f).tenants = s.tenants := rfl
@[simp] theorem State.modLaunch_frames (s : State) (r : Nat) (f : Launch → Launch) : (s.modLaunch r f).frames = s.frames := rfl
@[simp] theorem State.modLaunch_dram (s : State) (r : Nat) (f : Launch → Launch) : (s.modLaunch r f).dram = s.dram := rfl
@[simp] theorem State.modLaunch_hostMem (s : State) (r : Nat) (f : Launch → Launch) : (s.modLaunch r f).hostMem = s.hostMem := rfl
@[simp] theorem State.modLaunch_l2 (s : State) (r : Nat) (f : Launch → Launch) : (s.modLaunch r f).l2 = s.l2 := rfl
@[simp] theorem State.modLaunch_sil (s : State) (r : Nat) (f : Launch → Launch) : (s.modLaunch r f).sil = s.sil := rfl
@[simp] theorem State.modLaunch_tlb (s : State) (r : Nat) (f : Launch → Launch) : (s.modLaunch r f).tlb = s.tlb := rfl
@[simp] theorem State.modLaunch_atlb (s : State) (r : Nat) (f : Launch → Launch) : (s.modLaunch r f).atlb = s.atlb := rfl
@[simp] theorem State.modLaunch_adms (s : State) (r : Nat) (f : Launch → Launch) : (s.modLaunch r f).adms = s.adms := rfl
@[simp] theorem State.modLaunch_bad (s : State) (r : Nat) (f : Launch → Launch) : (s.modLaunch r f).bad = s.bad := rfl
@[simp] theorem State.modLaunch_imports (s : State) (r : Nat) (f : Launch → Launch) : (s.modLaunch r f).imports = s.imports := rfl
@[simp] theorem State.modLaunch_fabricOut (s : State) (r : Nat) (f : Launch → Launch) : (s.modLaunch r f).fabricOut = s.fabricOut := rfl
@[simp] theorem State.modLaunch_irqs (s : State) (r : Nat) (f : Launch → Launch) : (s.modLaunch r f).irqs = s.irqs := rfl
@[simp] theorem State.modLaunch_hostReply (s : State) (r : Nat) (f : Launch → Launch) : (s.modLaunch r f).hostReply = s.hostReply := rfl
@[simp] theorem State.modLaunch_links (s : State) (r : Nat) (f : Launch → Launch) : (s.modLaunch r f).links = s.links := rfl
@[simp] theorem State.modLaunch_lodge (s : State) (r : Nat) (f : Launch → Launch) : (s.modLaunch r f).lodge = s.lodge := rfl

/-! ## State.modCopy -/

@[simp] theorem State.modCopy_agenda (s : State) (j : Nat) (f : Copy → Copy) : (s.modCopy j f).agenda = s.agenda := rfl
@[simp] theorem State.modCopy_focus (s : State) (j : Nat) (f : Copy → Copy) : (s.modCopy j f).focus = s.focus := rfl
@[simp] theorem State.modCopy_sel (s : State) (j : Nat) (f : Copy → Copy) : (s.modCopy j f).sel = s.sel := rfl
@[simp] theorem State.modCopy_free (s : State) (j : Nat) (f : Copy → Copy) : (s.modCopy j f).free = s.free := rfl
@[simp] theorem State.modCopy_next (s : State) (j : Nat) (f : Copy → Copy) : (s.modCopy j f).next = s.next := rfl
@[simp] theorem State.modCopy_tick (s : State) (j : Nat) (f : Copy → Copy) : (s.modCopy j f).tick = s.tick := rfl
@[simp] theorem State.modCopy_launches (s : State) (j : Nat) (f : Copy → Copy) : (s.modCopy j f).launches = s.launches := rfl
@[simp] theorem State.modCopy_teams (s : State) (j : Nat) (f : Copy → Copy) : (s.modCopy j f).teams = s.teams := rfl
@[simp] theorem State.modCopy_groups (s : State) (j : Nat) (f : Copy → Copy) : (s.modCopy j f).groups = s.groups := rfl
@[simp] theorem State.modCopy_finMsgs (s : State) (j : Nat) (f : Copy → Copy) : (s.modCopy j f).finMsgs = s.finMsgs := rfl
@[simp] theorem State.modCopy_cores (s : State) (j : Nat) (f : Copy → Copy) : (s.modCopy j f).cores = s.cores := rfl
@[simp] theorem State.modCopy_tenants (s : State) (j : Nat) (f : Copy → Copy) : (s.modCopy j f).tenants = s.tenants := rfl
@[simp] theorem State.modCopy_frames (s : State) (j : Nat) (f : Copy → Copy) : (s.modCopy j f).frames = s.frames := rfl
@[simp] theorem State.modCopy_dram (s : State) (j : Nat) (f : Copy → Copy) : (s.modCopy j f).dram = s.dram := rfl
@[simp] theorem State.modCopy_hostMem (s : State) (j : Nat) (f : Copy → Copy) : (s.modCopy j f).hostMem = s.hostMem := rfl
@[simp] theorem State.modCopy_l2 (s : State) (j : Nat) (f : Copy → Copy) : (s.modCopy j f).l2 = s.l2 := rfl
@[simp] theorem State.modCopy_sil (s : State) (j : Nat) (f : Copy → Copy) : (s.modCopy j f).sil = s.sil := rfl
@[simp] theorem State.modCopy_tlb (s : State) (j : Nat) (f : Copy → Copy) : (s.modCopy j f).tlb = s.tlb := rfl
@[simp] theorem State.modCopy_atlb (s : State) (j : Nat) (f : Copy → Copy) : (s.modCopy j f).atlb = s.atlb := rfl
@[simp] theorem State.modCopy_adms (s : State) (j : Nat) (f : Copy → Copy) : (s.modCopy j f).adms = s.adms := rfl
@[simp] theorem State.modCopy_bad (s : State) (j : Nat) (f : Copy → Copy) : (s.modCopy j f).bad = s.bad := rfl
@[simp] theorem State.modCopy_imports (s : State) (j : Nat) (f : Copy → Copy) : (s.modCopy j f).imports = s.imports := rfl
@[simp] theorem State.modCopy_fabricOut (s : State) (j : Nat) (f : Copy → Copy) : (s.modCopy j f).fabricOut = s.fabricOut := rfl
@[simp] theorem State.modCopy_irqs (s : State) (j : Nat) (f : Copy → Copy) : (s.modCopy j f).irqs = s.irqs := rfl
@[simp] theorem State.modCopy_hostReply (s : State) (j : Nat) (f : Copy → Copy) : (s.modCopy j f).hostReply = s.hostReply := rfl
@[simp] theorem State.modCopy_links (s : State) (j : Nat) (f : Copy → Copy) : (s.modCopy j f).links = s.links := rfl
@[simp] theorem State.modCopy_lodge (s : State) (j : Nat) (f : Copy → Copy) : (s.modCopy j f).lodge = s.lodge := rfl

/-! ## State.modCore -/

@[simp] theorem State.modCore_agenda (s : State) (c : Nat) (f : Core → Core) : (s.modCore c f).agenda = s.agenda := rfl
@[simp] theorem State.modCore_focus (s : State) (c : Nat) (f : Core → Core) : (s.modCore c f).focus = s.focus := rfl
@[simp] theorem State.modCore_sel (s : State) (c : Nat) (f : Core → Core) : (s.modCore c f).sel = s.sel := rfl
@[simp] theorem State.modCore_free (s : State) (c : Nat) (f : Core → Core) : (s.modCore c f).free = s.free := rfl
@[simp] theorem State.modCore_next (s : State) (c : Nat) (f : Core → Core) : (s.modCore c f).next = s.next := rfl
@[simp] theorem State.modCore_tick (s : State) (c : Nat) (f : Core → Core) : (s.modCore c f).tick = s.tick := rfl
@[simp] theorem State.modCore_launches (s : State) (c : Nat) (f : Core → Core) : (s.modCore c f).launches = s.launches := rfl
@[simp] theorem State.modCore_teams (s : State) (c : Nat) (f : Core → Core) : (s.modCore c f).teams = s.teams := rfl
@[simp] theorem State.modCore_groups (s : State) (c : Nat) (f : Core → Core) : (s.modCore c f).groups = s.groups := rfl
@[simp] theorem State.modCore_copies (s : State) (c : Nat) (f : Core → Core) : (s.modCore c f).copies = s.copies := rfl
@[simp] theorem State.modCore_finMsgs (s : State) (c : Nat) (f : Core → Core) : (s.modCore c f).finMsgs = s.finMsgs := rfl
@[simp] theorem State.modCore_tenants (s : State) (c : Nat) (f : Core → Core) : (s.modCore c f).tenants = s.tenants := rfl
@[simp] theorem State.modCore_frames (s : State) (c : Nat) (f : Core → Core) : (s.modCore c f).frames = s.frames := rfl
@[simp] theorem State.modCore_dram (s : State) (c : Nat) (f : Core → Core) : (s.modCore c f).dram = s.dram := rfl
@[simp] theorem State.modCore_hostMem (s : State) (c : Nat) (f : Core → Core) : (s.modCore c f).hostMem = s.hostMem := rfl
@[simp] theorem State.modCore_l2 (s : State) (c : Nat) (f : Core → Core) : (s.modCore c f).l2 = s.l2 := rfl
@[simp] theorem State.modCore_sil (s : State) (c : Nat) (f : Core → Core) : (s.modCore c f).sil = s.sil := rfl
@[simp] theorem State.modCore_tlb (s : State) (c : Nat) (f : Core → Core) : (s.modCore c f).tlb = s.tlb := rfl
@[simp] theorem State.modCore_atlb (s : State) (c : Nat) (f : Core → Core) : (s.modCore c f).atlb = s.atlb := rfl
@[simp] theorem State.modCore_adms (s : State) (c : Nat) (f : Core → Core) : (s.modCore c f).adms = s.adms := rfl
@[simp] theorem State.modCore_bad (s : State) (c : Nat) (f : Core → Core) : (s.modCore c f).bad = s.bad := rfl
@[simp] theorem State.modCore_imports (s : State) (c : Nat) (f : Core → Core) : (s.modCore c f).imports = s.imports := rfl
@[simp] theorem State.modCore_fabricOut (s : State) (c : Nat) (f : Core → Core) : (s.modCore c f).fabricOut = s.fabricOut := rfl
@[simp] theorem State.modCore_irqs (s : State) (c : Nat) (f : Core → Core) : (s.modCore c f).irqs = s.irqs := rfl
@[simp] theorem State.modCore_hostReply (s : State) (c : Nat) (f : Core → Core) : (s.modCore c f).hostReply = s.hostReply := rfl
@[simp] theorem State.modCore_links (s : State) (c : Nat) (f : Core → Core) : (s.modCore c f).links = s.links := rfl
@[simp] theorem State.modCore_lodge (s : State) (c : Nat) (f : Core → Core) : (s.modCore c f).lodge = s.lodge := rfl

/-! ## State.modTenant -/

@[simp] theorem State.modTenant_agenda (s : State) (t : Nat) (f : Tenant → Tenant) : (s.modTenant t f).agenda = s.agenda := rfl
@[simp] theorem State.modTenant_focus (s : State) (t : Nat) (f : Tenant → Tenant) : (s.modTenant t f).focus = s.focus := rfl
@[simp] theorem State.modTenant_sel (s : State) (t : Nat) (f : Tenant → Tenant) : (s.modTenant t f).sel = s.sel := rfl
@[simp] theorem State.modTenant_free (s : State) (t : Nat) (f : Tenant → Tenant) : (s.modTenant t f).free = s.free := rfl
@[simp] theorem State.modTenant_next (s : State) (t : Nat) (f : Tenant → Tenant) : (s.modTenant t f).next = s.next := rfl
@[simp] theorem State.modTenant_tick (s : State) (t : Nat) (f : Tenant → Tenant) : (s.modTenant t f).tick = s.tick := rfl
@[simp] theorem State.modTenant_launches (s : State) (t : Nat) (f : Tenant → Tenant) : (s.modTenant t f).launches = s.launches := rfl
@[simp] theorem State.modTenant_teams (s : State) (t : Nat) (f : Tenant → Tenant) : (s.modTenant t f).teams = s.teams := rfl
@[simp] theorem State.modTenant_groups (s : State) (t : Nat) (f : Tenant → Tenant) : (s.modTenant t f).groups = s.groups := rfl
@[simp] theorem State.modTenant_copies (s : State) (t : Nat) (f : Tenant → Tenant) : (s.modTenant t f).copies = s.copies := rfl
@[simp] theorem State.modTenant_finMsgs (s : State) (t : Nat) (f : Tenant → Tenant) : (s.modTenant t f).finMsgs = s.finMsgs := rfl
@[simp] theorem State.modTenant_cores (s : State) (t : Nat) (f : Tenant → Tenant) : (s.modTenant t f).cores = s.cores := rfl
@[simp] theorem State.modTenant_frames (s : State) (t : Nat) (f : Tenant → Tenant) : (s.modTenant t f).frames = s.frames := rfl
@[simp] theorem State.modTenant_dram (s : State) (t : Nat) (f : Tenant → Tenant) : (s.modTenant t f).dram = s.dram := rfl
@[simp] theorem State.modTenant_hostMem (s : State) (t : Nat) (f : Tenant → Tenant) : (s.modTenant t f).hostMem = s.hostMem := rfl
@[simp] theorem State.modTenant_l2 (s : State) (t : Nat) (f : Tenant → Tenant) : (s.modTenant t f).l2 = s.l2 := rfl
@[simp] theorem State.modTenant_sil (s : State) (t : Nat) (f : Tenant → Tenant) : (s.modTenant t f).sil = s.sil := rfl
@[simp] theorem State.modTenant_tlb (s : State) (t : Nat) (f : Tenant → Tenant) : (s.modTenant t f).tlb = s.tlb := rfl
@[simp] theorem State.modTenant_atlb (s : State) (t : Nat) (f : Tenant → Tenant) : (s.modTenant t f).atlb = s.atlb := rfl
@[simp] theorem State.modTenant_adms (s : State) (t : Nat) (f : Tenant → Tenant) : (s.modTenant t f).adms = s.adms := rfl
@[simp] theorem State.modTenant_bad (s : State) (t : Nat) (f : Tenant → Tenant) : (s.modTenant t f).bad = s.bad := rfl
@[simp] theorem State.modTenant_imports (s : State) (t : Nat) (f : Tenant → Tenant) : (s.modTenant t f).imports = s.imports := rfl
@[simp] theorem State.modTenant_fabricOut (s : State) (t : Nat) (f : Tenant → Tenant) : (s.modTenant t f).fabricOut = s.fabricOut := rfl
@[simp] theorem State.modTenant_irqs (s : State) (t : Nat) (f : Tenant → Tenant) : (s.modTenant t f).irqs = s.irqs := rfl
@[simp] theorem State.modTenant_hostReply (s : State) (t : Nat) (f : Tenant → Tenant) : (s.modTenant t f).hostReply = s.hostReply := rfl
@[simp] theorem State.modTenant_links (s : State) (t : Nat) (f : Tenant → Tenant) : (s.modTenant t f).links = s.links := rfl
@[simp] theorem State.modTenant_lodge (s : State) (t : Nat) (f : Tenant → Tenant) : (s.modTenant t f).lodge = s.lodge := rfl

/-! ## State.modFrame -/

@[simp] theorem State.modFrame_agenda (s : State) (n : Nat) (f : Frame → Frame) : (s.modFrame n f).agenda = s.agenda := rfl
@[simp] theorem State.modFrame_focus (s : State) (n : Nat) (f : Frame → Frame) : (s.modFrame n f).focus = s.focus := rfl
@[simp] theorem State.modFrame_sel (s : State) (n : Nat) (f : Frame → Frame) : (s.modFrame n f).sel = s.sel := rfl
@[simp] theorem State.modFrame_free (s : State) (n : Nat) (f : Frame → Frame) : (s.modFrame n f).free = s.free := rfl
@[simp] theorem State.modFrame_next (s : State) (n : Nat) (f : Frame → Frame) : (s.modFrame n f).next = s.next := rfl
@[simp] theorem State.modFrame_tick (s : State) (n : Nat) (f : Frame → Frame) : (s.modFrame n f).tick = s.tick := rfl
@[simp] theorem State.modFrame_launches (s : State) (n : Nat) (f : Frame → Frame) : (s.modFrame n f).launches = s.launches := rfl
@[simp] theorem State.modFrame_teams (s : State) (n : Nat) (f : Frame → Frame) : (s.modFrame n f).teams = s.teams := rfl
@[simp] theorem State.modFrame_groups (s : State) (n : Nat) (f : Frame → Frame) : (s.modFrame n f).groups = s.groups := rfl
@[simp] theorem State.modFrame_copies (s : State) (n : Nat) (f : Frame → Frame) : (s.modFrame n f).copies = s.copies := rfl
@[simp] theorem State.modFrame_finMsgs (s : State) (n : Nat) (f : Frame → Frame) : (s.modFrame n f).finMsgs = s.finMsgs := rfl
@[simp] theorem State.modFrame_cores (s : State) (n : Nat) (f : Frame → Frame) : (s.modFrame n f).cores = s.cores := rfl
@[simp] theorem State.modFrame_tenants (s : State) (n : Nat) (f : Frame → Frame) : (s.modFrame n f).tenants = s.tenants := rfl
@[simp] theorem State.modFrame_dram (s : State) (n : Nat) (f : Frame → Frame) : (s.modFrame n f).dram = s.dram := rfl
@[simp] theorem State.modFrame_hostMem (s : State) (n : Nat) (f : Frame → Frame) : (s.modFrame n f).hostMem = s.hostMem := rfl
@[simp] theorem State.modFrame_l2 (s : State) (n : Nat) (f : Frame → Frame) : (s.modFrame n f).l2 = s.l2 := rfl
@[simp] theorem State.modFrame_sil (s : State) (n : Nat) (f : Frame → Frame) : (s.modFrame n f).sil = s.sil := rfl
@[simp] theorem State.modFrame_tlb (s : State) (n : Nat) (f : Frame → Frame) : (s.modFrame n f).tlb = s.tlb := rfl
@[simp] theorem State.modFrame_atlb (s : State) (n : Nat) (f : Frame → Frame) : (s.modFrame n f).atlb = s.atlb := rfl
@[simp] theorem State.modFrame_adms (s : State) (n : Nat) (f : Frame → Frame) : (s.modFrame n f).adms = s.adms := rfl
@[simp] theorem State.modFrame_bad (s : State) (n : Nat) (f : Frame → Frame) : (s.modFrame n f).bad = s.bad := rfl
@[simp] theorem State.modFrame_imports (s : State) (n : Nat) (f : Frame → Frame) : (s.modFrame n f).imports = s.imports := rfl
@[simp] theorem State.modFrame_fabricOut (s : State) (n : Nat) (f : Frame → Frame) : (s.modFrame n f).fabricOut = s.fabricOut := rfl
@[simp] theorem State.modFrame_irqs (s : State) (n : Nat) (f : Frame → Frame) : (s.modFrame n f).irqs = s.irqs := rfl
@[simp] theorem State.modFrame_hostReply (s : State) (n : Nat) (f : Frame → Frame) : (s.modFrame n f).hostReply = s.hostReply := rfl
@[simp] theorem State.modFrame_links (s : State) (n : Nat) (f : Frame → Frame) : (s.modFrame n f).links = s.links := rfl
@[simp] theorem State.modFrame_lodge (s : State) (n : Nat) (f : Frame → Frame) : (s.modFrame n f).lodge = s.lodge := rfl

/-! ## State.modCtx -/

@[simp] theorem State.modCtx_agenda (s : State) (c : Nat) (f : Ctx → Ctx) : (s.modCtx c f).agenda = s.agenda := rfl
@[simp] theorem State.modCtx_focus (s : State) (c : Nat) (f : Ctx → Ctx) : (s.modCtx c f).focus = s.focus := rfl
@[simp] theorem State.modCtx_sel (s : State) (c : Nat) (f : Ctx → Ctx) : (s.modCtx c f).sel = s.sel := rfl
@[simp] theorem State.modCtx_free (s : State) (c : Nat) (f : Ctx → Ctx) : (s.modCtx c f).free = s.free := rfl
@[simp] theorem State.modCtx_next (s : State) (c : Nat) (f : Ctx → Ctx) : (s.modCtx c f).next = s.next := rfl
@[simp] theorem State.modCtx_tick (s : State) (c : Nat) (f : Ctx → Ctx) : (s.modCtx c f).tick = s.tick := rfl
@[simp] theorem State.modCtx_launches (s : State) (c : Nat) (f : Ctx → Ctx) : (s.modCtx c f).launches = s.launches := rfl
@[simp] theorem State.modCtx_teams (s : State) (c : Nat) (f : Ctx → Ctx) : (s.modCtx c f).teams = s.teams := rfl
@[simp] theorem State.modCtx_groups (s : State) (c : Nat) (f : Ctx → Ctx) : (s.modCtx c f).groups = s.groups := rfl
@[simp] theorem State.modCtx_copies (s : State) (c : Nat) (f : Ctx → Ctx) : (s.modCtx c f).copies = s.copies := rfl
@[simp] theorem State.modCtx_finMsgs (s : State) (c : Nat) (f : Ctx → Ctx) : (s.modCtx c f).finMsgs = s.finMsgs := rfl
@[simp] theorem State.modCtx_cores (s : State) (c : Nat) (f : Ctx → Ctx) : (s.modCtx c f).cores = s.cores := rfl
@[simp] theorem State.modCtx_frames (s : State) (c : Nat) (f : Ctx → Ctx) : (s.modCtx c f).frames = s.frames := rfl
@[simp] theorem State.modCtx_dram (s : State) (c : Nat) (f : Ctx → Ctx) : (s.modCtx c f).dram = s.dram := rfl
@[simp] theorem State.modCtx_hostMem (s : State) (c : Nat) (f : Ctx → Ctx) : (s.modCtx c f).hostMem = s.hostMem := rfl
@[simp] theorem State.modCtx_l2 (s : State) (c : Nat) (f : Ctx → Ctx) : (s.modCtx c f).l2 = s.l2 := rfl
@[simp] theorem State.modCtx_sil (s : State) (c : Nat) (f : Ctx → Ctx) : (s.modCtx c f).sil = s.sil := rfl
@[simp] theorem State.modCtx_tlb (s : State) (c : Nat) (f : Ctx → Ctx) : (s.modCtx c f).tlb = s.tlb := rfl
@[simp] theorem State.modCtx_atlb (s : State) (c : Nat) (f : Ctx → Ctx) : (s.modCtx c f).atlb = s.atlb := rfl
@[simp] theorem State.modCtx_adms (s : State) (c : Nat) (f : Ctx → Ctx) : (s.modCtx c f).adms = s.adms := rfl
@[simp] theorem State.modCtx_bad (s : State) (c : Nat) (f : Ctx → Ctx) : (s.modCtx c f).bad = s.bad := rfl
@[simp] theorem State.modCtx_imports (s : State) (c : Nat) (f : Ctx → Ctx) : (s.modCtx c f).imports = s.imports := rfl
@[simp] theorem State.modCtx_fabricOut (s : State) (c : Nat) (f : Ctx → Ctx) : (s.modCtx c f).fabricOut = s.fabricOut := rfl
@[simp] theorem State.modCtx_irqs (s : State) (c : Nat) (f : Ctx → Ctx) : (s.modCtx c f).irqs = s.irqs := rfl
@[simp] theorem State.modCtx_hostReply (s : State) (c : Nat) (f : Ctx → Ctx) : (s.modCtx c f).hostReply = s.hostReply := rfl
@[simp] theorem State.modCtx_links (s : State) (c : Nat) (f : Ctx → Ctx) : (s.modCtx c f).links = s.links := rfl
@[simp] theorem State.modCtx_lodge (s : State) (c : Nat) (f : Ctx → Ctx) : (s.modCtx c f).lodge = s.lodge := rfl

/-! ## State.modLodge -/

@[simp] theorem State.modLodge_agenda (s : State) (f : Lodge → Lodge) : (s.modLodge f).agenda = s.agenda := rfl
@[simp] theorem State.modLodge_focus (s : State) (f : Lodge → Lodge) : (s.modLodge f).focus = s.focus := rfl
@[simp] theorem State.modLodge_sel (s : State) (f : Lodge → Lodge) : (s.modLodge f).sel = s.sel := rfl
@[simp] theorem State.modLodge_free (s : State) (f : Lodge → Lodge) : (s.modLodge f).free = s.free := rfl
@[simp] theorem State.modLodge_next (s : State) (f : Lodge → Lodge) : (s.modLodge f).next = s.next := rfl
@[simp] theorem State.modLodge_tick (s : State) (f : Lodge → Lodge) : (s.modLodge f).tick = s.tick := rfl
@[simp] theorem State.modLodge_launches (s : State) (f : Lodge → Lodge) : (s.modLodge f).launches = s.launches := rfl
@[simp] theorem State.modLodge_teams (s : State) (f : Lodge → Lodge) : (s.modLodge f).teams = s.teams := rfl
@[simp] theorem State.modLodge_groups (s : State) (f : Lodge → Lodge) : (s.modLodge f).groups = s.groups := rfl
@[simp] theorem State.modLodge_copies (s : State) (f : Lodge → Lodge) : (s.modLodge f).copies = s.copies := rfl
@[simp] theorem State.modLodge_finMsgs (s : State) (f : Lodge → Lodge) : (s.modLodge f).finMsgs = s.finMsgs := rfl
@[simp] theorem State.modLodge_cores (s : State) (f : Lodge → Lodge) : (s.modLodge f).cores = s.cores := rfl
@[simp] theorem State.modLodge_tenants (s : State) (f : Lodge → Lodge) : (s.modLodge f).tenants = s.tenants := rfl
@[simp] theorem State.modLodge_frames (s : State) (f : Lodge → Lodge) : (s.modLodge f).frames = s.frames := rfl
@[simp] theorem State.modLodge_dram (s : State) (f : Lodge → Lodge) : (s.modLodge f).dram = s.dram := rfl
@[simp] theorem State.modLodge_hostMem (s : State) (f : Lodge → Lodge) : (s.modLodge f).hostMem = s.hostMem := rfl
@[simp] theorem State.modLodge_l2 (s : State) (f : Lodge → Lodge) : (s.modLodge f).l2 = s.l2 := rfl
@[simp] theorem State.modLodge_sil (s : State) (f : Lodge → Lodge) : (s.modLodge f).sil = s.sil := rfl
@[simp] theorem State.modLodge_tlb (s : State) (f : Lodge → Lodge) : (s.modLodge f).tlb = s.tlb := rfl
@[simp] theorem State.modLodge_atlb (s : State) (f : Lodge → Lodge) : (s.modLodge f).atlb = s.atlb := rfl
@[simp] theorem State.modLodge_adms (s : State) (f : Lodge → Lodge) : (s.modLodge f).adms = s.adms := rfl
@[simp] theorem State.modLodge_bad (s : State) (f : Lodge → Lodge) : (s.modLodge f).bad = s.bad := rfl
@[simp] theorem State.modLodge_imports (s : State) (f : Lodge → Lodge) : (s.modLodge f).imports = s.imports := rfl
@[simp] theorem State.modLodge_fabricOut (s : State) (f : Lodge → Lodge) : (s.modLodge f).fabricOut = s.fabricOut := rfl
@[simp] theorem State.modLodge_irqs (s : State) (f : Lodge → Lodge) : (s.modLodge f).irqs = s.irqs := rfl
@[simp] theorem State.modLodge_hostReply (s : State) (f : Lodge → Lodge) : (s.modLodge f).hostReply = s.hostReply := rfl
@[simp] theorem State.modLodge_links (s : State) (f : Lodge → Lodge) : (s.modLodge f).links = s.links := rfl

/-! ## State.fresh -/

@[simp] theorem State.fresh_agenda (s : State) : s.fresh.agenda = s.agenda := rfl
@[simp] theorem State.fresh_focus (s : State) : s.fresh.focus = s.focus := rfl
@[simp] theorem State.fresh_sel (s : State) : s.fresh.sel = s.sel := rfl
@[simp] theorem State.fresh_free (s : State) : s.fresh.free = s.free := rfl
@[simp] theorem State.fresh_tick (s : State) : s.fresh.tick = s.tick := rfl
@[simp] theorem State.fresh_launches (s : State) : s.fresh.launches = s.launches := rfl
@[simp] theorem State.fresh_teams (s : State) : s.fresh.teams = s.teams := rfl
@[simp] theorem State.fresh_groups (s : State) : s.fresh.groups = s.groups := rfl
@[simp] theorem State.fresh_copies (s : State) : s.fresh.copies = s.copies := rfl
@[simp] theorem State.fresh_finMsgs (s : State) : s.fresh.finMsgs = s.finMsgs := rfl
@[simp] theorem State.fresh_cores (s : State) : s.fresh.cores = s.cores := rfl
@[simp] theorem State.fresh_tenants (s : State) : s.fresh.tenants = s.tenants := rfl
@[simp] theorem State.fresh_frames (s : State) : s.fresh.frames = s.frames := rfl
@[simp] theorem State.fresh_dram (s : State) : s.fresh.dram = s.dram := rfl
@[simp] theorem State.fresh_hostMem (s : State) : s.fresh.hostMem = s.hostMem := rfl
@[simp] theorem State.fresh_l2 (s : State) : s.fresh.l2 = s.l2 := rfl
@[simp] theorem State.fresh_sil (s : State) : s.fresh.sil = s.sil := rfl
@[simp] theorem State.fresh_tlb (s : State) : s.fresh.tlb = s.tlb := rfl
@[simp] theorem State.fresh_atlb (s : State) : s.fresh.atlb = s.atlb := rfl
@[simp] theorem State.fresh_adms (s : State) : s.fresh.adms = s.adms := rfl
@[simp] theorem State.fresh_bad (s : State) : s.fresh.bad = s.bad := rfl
@[simp] theorem State.fresh_imports (s : State) : s.fresh.imports = s.imports := rfl
@[simp] theorem State.fresh_fabricOut (s : State) : s.fresh.fabricOut = s.fabricOut := rfl
@[simp] theorem State.fresh_irqs (s : State) : s.fresh.irqs = s.irqs := rfl
@[simp] theorem State.fresh_hostReply (s : State) : s.fresh.hostReply = s.hostReply := rfl
@[simp] theorem State.fresh_links (s : State) : s.fresh.links = s.links := rfl
@[simp] theorem State.fresh_lodge (s : State) : s.fresh.lodge = s.lodge := rfl

@[simp] theorem State.modLodge_lodge (s : State) (f : Lodge → Lodge) : (s.modLodge f).lodge = f s.lodge := rfl

/-! ## Group.modQ -/

@[simp] theorem Group.modQ_ref (g : Group) (t : Nat) (f : QSet → QSet) : (g.modQ t f).ref = g.ref := rfl
@[simp] theorem Group.modQ_team (g : Group) (t : Nat) (f : QSet → QSet) : (g.modQ t f).team = g.team := rfl
@[simp] theorem Group.modQ_gix (g : Group) (t : Nat) (f : QSet → QSet) : (g.modQ t f).gix = g.gix := rfl
@[simp] theorem Group.modQ_gid (g : Group) (t : Nat) (f : QSet → QSet) : (g.modQ t f).gid = g.gid := rfl
@[simp] theorem Group.modQ_part (g : Group) (t : Nat) (f : QSet → QSet) : (g.modQ t f).part = g.part := rfl
@[simp] theorem Group.modQ_width (g : Group) (t : Nat) (f : QSet → QSet) : (g.modQ t f).width = g.width := rfl
@[simp] theorem Group.modQ_nregs (g : Group) (t : Nat) (f : QSet → QSet) : (g.modQ t f).nregs = g.nregs := rfl
@[simp] theorem Group.modQ_emurow (g : Group) (t : Nat) (f : QSet → QSet) : (g.modQ t f).emurow = g.emurow := rfl
@[simp] theorem Group.modQ_regs (g : Group) (t : Nat) (f : QSet → QSet) : (g.modQ t f).regs = g.regs := rfl
@[simp] theorem Group.modQ_nextTag (g : Group) (t : Nat) (f : QSet → QSet) : (g.modQ t f).nextTag = g.nextTag := rfl
@[simp] theorem Group.modQ_rstack (g : Group) (t : Nat) (f : QSet → QSet) : (g.modQ t f).rstack = g.rstack := rfl
@[simp] theorem Group.modQ_retstack (g : Group) (t : Nat) (f : QSet → QSet) : (g.modQ t f).retstack = g.retstack := rfl
@[simp] theorem Group.modQ_flights (g : Group) (t : Nat) (f : QSet → QSet) : (g.modQ t f).flights = g.flights := rfl
@[simp] theorem Group.modQ_busy (g : Group) (t : Nat) (f : QSet → QSet) : (g.modQ t f).busy = g.busy := rfl
@[simp] theorem Group.modQ_trap (g : Group) (t : Nat) (f : QSet → QSet) : (g.modQ t f).trap = g.trap := rfl
@[simp] theorem Group.modQ_emu (g : Group) (t : Nat) (f : QSet → QSet) : (g.modQ t f).emu = g.emu := rfl
@[simp] theorem Group.modQ_batch (g : Group) (t : Nat) (f : QSet → QSet) : (g.modQ t f).batch = g.batch := rfl
@[simp] theorem Group.modQ_run (g : Group) (t : Nat) (f : QSet → QSet) : (g.modQ t f).run = g.run := rfl
@[simp] theorem Group.modQ_preq (g : Group) (t : Nat) (f : QSet → QSet) : (g.modQ t f).preq = g.preq := rfl
@[simp] theorem Group.modQ_pleft (g : Group) (t : Nat) (f : QSet → QSet) : (g.modQ t f).pleft = g.pleft := rfl
@[simp] theorem Group.modQ_ready (g : Group) (t : Nat) (f : QSet → QSet) : (g.modQ t f).ready = g.ready := rfl
@[simp] theorem Group.modQ_lastQuad (g : Group) (t : Nat) (f : QSet → QSet) : (g.modQ t f).lastQuad = g.lastQuad := rfl
@[simp] theorem Group.modQ_ltMark (g : Group) (t : Nat) (f : QSet → QSet) : (g.modQ t f).ltMark = g.ltMark := rfl

/-! ## Group.setCc, Group.orFp -/

@[simp] theorem Group.setCc_ref (g : Group) (c : BitVec 4) : (g.setCc c).ref = g.ref := rfl
@[simp] theorem Group.orFp_ref (g : Group) (c : BitVec 5) : (g.orFp c).ref = g.ref := rfl
@[simp] theorem Group.setCc_team (g : Group) (c : BitVec 4) : (g.setCc c).team = g.team := rfl
@[simp] theorem Group.orFp_team (g : Group) (c : BitVec 5) : (g.orFp c).team = g.team := rfl
@[simp] theorem Group.setCc_gix (g : Group) (c : BitVec 4) : (g.setCc c).gix = g.gix := rfl
@[simp] theorem Group.orFp_gix (g : Group) (c : BitVec 5) : (g.orFp c).gix = g.gix := rfl
@[simp] theorem Group.setCc_gid (g : Group) (c : BitVec 4) : (g.setCc c).gid = g.gid := rfl
@[simp] theorem Group.orFp_gid (g : Group) (c : BitVec 5) : (g.orFp c).gid = g.gid := rfl
@[simp] theorem Group.setCc_part (g : Group) (c : BitVec 4) : (g.setCc c).part = g.part := rfl
@[simp] theorem Group.orFp_part (g : Group) (c : BitVec 5) : (g.orFp c).part = g.part := rfl
@[simp] theorem Group.setCc_width (g : Group) (c : BitVec 4) : (g.setCc c).width = g.width := rfl
@[simp] theorem Group.orFp_width (g : Group) (c : BitVec 5) : (g.orFp c).width = g.width := rfl
@[simp] theorem Group.setCc_nregs (g : Group) (c : BitVec 4) : (g.setCc c).nregs = g.nregs := rfl
@[simp] theorem Group.orFp_nregs (g : Group) (c : BitVec 5) : (g.orFp c).nregs = g.nregs := rfl
@[simp] theorem Group.setCc_emurow (g : Group) (c : BitVec 4) : (g.setCc c).emurow = g.emurow := rfl
@[simp] theorem Group.orFp_emurow (g : Group) (c : BitVec 5) : (g.orFp c).emurow = g.emurow := rfl
@[simp] theorem Group.setCc_qsets (g : Group) (c : BitVec 4) : (g.setCc c).qsets = g.qsets := rfl
@[simp] theorem Group.orFp_qsets (g : Group) (c : BitVec 5) : (g.orFp c).qsets = g.qsets := rfl
@[simp] theorem Group.setCc_nextTag (g : Group) (c : BitVec 4) : (g.setCc c).nextTag = g.nextTag := rfl
@[simp] theorem Group.orFp_nextTag (g : Group) (c : BitVec 5) : (g.orFp c).nextTag = g.nextTag := rfl
@[simp] theorem Group.setCc_rstack (g : Group) (c : BitVec 4) : (g.setCc c).rstack = g.rstack := rfl
@[simp] theorem Group.orFp_rstack (g : Group) (c : BitVec 5) : (g.orFp c).rstack = g.rstack := rfl
@[simp] theorem Group.setCc_retstack (g : Group) (c : BitVec 4) : (g.setCc c).retstack = g.retstack := rfl
@[simp] theorem Group.orFp_retstack (g : Group) (c : BitVec 5) : (g.orFp c).retstack = g.retstack := rfl
@[simp] theorem Group.setCc_flights (g : Group) (c : BitVec 4) : (g.setCc c).flights = g.flights := rfl
@[simp] theorem Group.orFp_flights (g : Group) (c : BitVec 5) : (g.orFp c).flights = g.flights := rfl
@[simp] theorem Group.setCc_busy (g : Group) (c : BitVec 4) : (g.setCc c).busy = g.busy := rfl
@[simp] theorem Group.orFp_busy (g : Group) (c : BitVec 5) : (g.orFp c).busy = g.busy := rfl
@[simp] theorem Group.setCc_trap (g : Group) (c : BitVec 4) : (g.setCc c).trap = g.trap := rfl
@[simp] theorem Group.orFp_trap (g : Group) (c : BitVec 5) : (g.orFp c).trap = g.trap := rfl
@[simp] theorem Group.setCc_emu (g : Group) (c : BitVec 4) : (g.setCc c).emu = g.emu := rfl
@[simp] theorem Group.orFp_emu (g : Group) (c : BitVec 5) : (g.orFp c).emu = g.emu := rfl
@[simp] theorem Group.setCc_batch (g : Group) (c : BitVec 4) : (g.setCc c).batch = g.batch := rfl
@[simp] theorem Group.orFp_batch (g : Group) (c : BitVec 5) : (g.orFp c).batch = g.batch := rfl
@[simp] theorem Group.setCc_run (g : Group) (c : BitVec 4) : (g.setCc c).run = g.run := rfl
@[simp] theorem Group.orFp_run (g : Group) (c : BitVec 5) : (g.orFp c).run = g.run := rfl
@[simp] theorem Group.setCc_preq (g : Group) (c : BitVec 4) : (g.setCc c).preq = g.preq := rfl
@[simp] theorem Group.orFp_preq (g : Group) (c : BitVec 5) : (g.orFp c).preq = g.preq := rfl
@[simp] theorem Group.setCc_pleft (g : Group) (c : BitVec 4) : (g.setCc c).pleft = g.pleft := rfl
@[simp] theorem Group.orFp_pleft (g : Group) (c : BitVec 5) : (g.orFp c).pleft = g.pleft := rfl
@[simp] theorem Group.setCc_ready (g : Group) (c : BitVec 4) : (g.setCc c).ready = g.ready := rfl
@[simp] theorem Group.orFp_ready (g : Group) (c : BitVec 5) : (g.orFp c).ready = g.ready := rfl
@[simp] theorem Group.setCc_lastQuad (g : Group) (c : BitVec 4) : (g.setCc c).lastQuad = g.lastQuad := rfl
@[simp] theorem Group.orFp_lastQuad (g : Group) (c : BitVec 5) : (g.orFp c).lastQuad = g.lastQuad := rfl
@[simp] theorem Group.setCc_ltMark (g : Group) (c : BitVec 4) : (g.setCc c).ltMark = g.ltMark := rfl
@[simp] theorem Group.orFp_ltMark (g : Group) (c : BitVec 5) : (g.orFp c).ltMark = g.ltMark := rfl

@[simp] theorem Group.setCc_regs_lanes (g : Group) (c : BitVec 4) : (g.setCc c).regs.lanes = g.regs.lanes := rfl
@[simp] theorem Group.orFp_regs_lanes (g : Group) (c : BitVec 5) : (g.orFp c).regs.lanes = g.regs.lanes := rfl
@[simp] theorem Group.setCc_regs_scal (g : Group) (c : BitVec 4) : (g.setCc c).regs.scal = g.regs.scal := rfl
@[simp] theorem Group.orFp_regs_scal (g : Group) (c : BitVec 5) : (g.orFp c).regs.scal = g.regs.scal := rfl
@[simp] theorem Group.setCc_regs_masks (g : Group) (c : BitVec 4) : (g.setCc c).regs.masks = g.regs.masks := rfl
@[simp] theorem Group.orFp_regs_masks (g : Group) (c : BitVec 5) : (g.orFp c).regs.masks = g.regs.masks := rfl
@[simp] theorem Group.setCc_regs_items (g : Group) (c : BitVec 4) : (g.setCc c).regs.items = g.regs.items := rfl
@[simp] theorem Group.orFp_regs_items (g : Group) (c : BitVec 5) : (g.orFp c).regs.items = g.regs.items := rfl
@[simp] theorem Group.setCc_regs_live (g : Group) (c : BitVec 4) : (g.setCc c).regs.live = g.regs.live := rfl
@[simp] theorem Group.orFp_regs_live (g : Group) (c : BitVec 5) : (g.orFp c).regs.live = g.regs.live := rfl
@[simp] theorem Group.setCc_regs_dead (g : Group) (c : BitVec 4) : (g.setCc c).regs.dead = g.regs.dead := rfl
@[simp] theorem Group.orFp_regs_dead (g : Group) (c : BitVec 5) : (g.orFp c).regs.dead = g.regs.dead := rfl
@[simp] theorem Group.orFp_regs_cc (g : Group) (c : BitVec 5) : (g.orFp c).regs.cc = g.regs.cc := rfl
@[simp] theorem Group.setCc_regs_fpstat (g : Group) (c : BitVec 4) : (g.setCc c).regs.fpstat = g.regs.fpstat := rfl
@[simp] theorem Group.setCc_regs_waitlim (g : Group) (c : BitVec 4) : (g.setCc c).regs.waitlim = g.regs.waitlim := rfl
@[simp] theorem Group.orFp_regs_waitlim (g : Group) (c : BitVec 5) : (g.orFp c).regs.waitlim = g.regs.waitlim := rfl
@[simp] theorem Group.setCc_regs_opc (g : Group) (c : BitVec 4) : (g.setCc c).regs.opc = g.regs.opc := rfl
@[simp] theorem Group.orFp_regs_opc (g : Group) (c : BitVec 5) : (g.orFp c).regs.opc = g.regs.opc := rfl
@[simp] theorem Group.setCc_cc (g : Group) (c : BitVec 4) : (g.setCc c).regs.cc = c := rfl
@[simp] theorem Group.orFp_fpstat (g : Group) (f : BitVec 5) : (g.orFp f).regs.fpstat = g.regs.fpstat ||| f := rfl

/-! ## QSet -/

@[simp] theorem QSet.advance_pc (q : QSet) : q.advance.pc = q.pc + 4 := rfl
@[simp] theorem QSet.advance_tag (q : QSet) : q.advance.tag = q.tag := rfl
@[simp] theorem QSet.advance_quads (q : QSet) : q.advance.quads = q.quads := rfl
@[simp] theorem QSet.advance_fmt (q : QSet) : q.advance.fmt = q.fmt := rfl
@[simp] theorem QSet.advance_hold (q : QSet) : q.advance.hold = none := rfl
@[simp] theorem QSet.goto_pc (q : QSet) (a : W64) : (q.goto a).pc = a := rfl
@[simp] theorem QSet.goto_tag (q : QSet) (a : W64) : (q.goto a).tag = q.tag := rfl
@[simp] theorem QSet.goto_quads (q : QSet) (a : W64) : (q.goto a).quads = q.quads := rfl
@[simp] theorem QSet.goto_fmt (q : QSet) (a : W64) : (q.goto a).fmt = q.fmt := rfl
@[simp] theorem QSet.goto_hold (q : QSet) (a : W64) : (q.goto a).hold = none := rfl
@[simp] theorem QSet.goto_clause (q : QSet) (a : W64) : (q.goto a).clause = none := rfl

end Sys2Proof.Machine
end

