-- ==== Sys2Proof/Laws/Issue.lean ====
section
/-! SUPPORT. Laws/Issue.lean: what the frame of an issue does, and the completion of every instruction whose effect lies in registers. -/

namespace Sys2Proof.Machine

/-! ## The frame of an issue -/

/-- A word that may execute runs its body. -/
theorem issueIf_runs {s : State} {x : Iss} {i : Instr} (h : Issues s x i) {undef : Iss → State → Bool} {feats : Iss → State → List Nat}
    {body : Iss → State → State} (hu : undef x s = false) (hf : ∀ f ∈ feats x s, featOn x.l.feat f = true) :
    issueIf i undef feats body s = .next (body x (s.prep x)) := by
  obtain ⟨h1, h2, h3, h4⟩ := h
  unfold issueIf
  rw [h1]
  have ht : (x.g.trap.mode.isSome && !trapAllowed i) = false := by
    cases hm : x.g.trap.mode.isSome
    · rfl
    · simp [h2 hm]
  have hn : (staticFeats i ++ feats x s).find? (fun f => !featOn x.l.feat f) = none := by
    rw [List.find?_eq_none]
    intro f hmem
    rcases List.mem_append.1 hmem with hm | hm
    · simp [h4 f hm]
    · simp [hf f hm]
  simp [ht, h3, hu, hn]

theorem issue_runs {s : State} {x : Iss} {i : Instr} (h : Issues s x i) {body : Iss → State → State} :
    issue i body s = .next (body x (s.prep x)) :=
  issueIf_runs h rfl (fun _ hf => absurd hf (by simp))

@[simp] theorem Group.issued_regs (g : Group) (q : QSet) : (g.issued q).regs = g.regs := by unfold Group.issued; split <;> rfl
@[simp] theorem Group.issued_qsets (g : Group) (q : QSet) : (g.issued q).qsets = g.qsets := by unfold Group.issued; split <;> rfl
@[simp] theorem Group.issued_ref (g : Group) (q : QSet) : (g.issued q).ref = g.ref := by unfold Group.issued; split <;> rfl
@[simp] theorem Group.issued_team (g : Group) (q : QSet) : (g.issued q).team = g.team := by unfold Group.issued; split <;> rfl

/-- The turn taken changes only what `Kept` lets change. -/
theorem Group.issued_eq (g : Group) (q : QSet) :
    { g.issued q with
      flights := g.flights, ready := g.ready, lastQuad := g.lastQuad
      trap := { (g.issued q).trap with shadows := g.trap.shadows } } = g ∧
      (g.issued q).flights.map (·.fid) = g.flights.map (·.fid) ∧
      (g.issued q).trap.shadows.map (·.trap) = g.trap.shadows.map (·.trap) := by
  unfold Group.issued; split
  · exact ⟨rfl, rfl, rfl⟩
  · refine ⟨rfl, by rw [List.map_map]; rfl, ?_⟩
    rw [List.map_map]
    refine List.map_congr_left fun k _ => ?_
    simp only [Function.comp]
    split <;> rfl

theorem State.group?_free (s : State) (n : Nat) (r : Nat) : ({ s with free := n } : State).group? r = s.group? r := rfl

theorem State.prep_group {s : State} {x : Iss} (h : s.iss = some x) : (s.prep x).group? x.g.ref = some (x.g.issued x.q) := by
  have h1 := (State.iss_some h).1
  unfold State.prep
  rw [State.group?_modGroup _ _ _ (fun g => Group.issued_ref g x.q), State.group?_free, h1]; rfl

theorem State.prep_group_ne {s : State} {x : Iss} {r : Nat} (h : r ≠ x.g.ref) : (s.prep x).group? r = s.group? r := by
  unfold State.prep
  rw [State.group?_modGroup_ne _ _ (fun g => Group.issued_ref g x.q) h, State.group?_free]

theorem State.prep_machine (s : State) (x : Iss) : { s.prep x with groups := s.groups, free := s.free } = s := rfl

/-! ## An effect in the registers of the group -/

/-- A change of the issuing group that leaves it its name, seen from the state before the issue. -/
theorem State.modGroup_kept {s : State} {x : Iss} (h : s.iss = some x) {f : Group → Group} (href : ∀ g, (f g).ref = g.ref)
    (hk : { f (x.g.issued x.q) with
      regs := x.g.regs, qsets := x.g.qsets, flights := x.g.flights, busy := x.g.busy, ready := x.g.ready, lastQuad := x.g.lastQuad
      trap := { (f (x.g.issued x.q)).trap with shadows := x.g.trap.shadows } } = x.g)
    (hfl : (f (x.g.issued x.q)).flights.map (·.fid) = x.g.flights.map (·.fid))
    (hsh : (f (x.g.issued x.q)).trap.shadows.map (·.trap) = x.g.trap.shadows.map (·.trap)) :
    Kept s ((s.prep x).modGroup x.g.ref f) x (f (x.g.issued x.q)) where
  here := by rw [State.group?_modGroup _ _ _ href, State.prep_group h]; rfl
  others r hr := by rw [State.group?_modGroup_ne _ _ href hr, State.prep_group_ne hr]
  machine := rfl
  group := hk
  flights := hfl
  shadows := hsh

theorem RegOnly.kept {x : Iss} {g' : Group} (h : RegOnly (x.g.issued x.q) g') (qs : List QSet) :
    { ({ g' with qsets := qs } : Group) with
      regs := x.g.regs, qsets := x.g.qsets, flights := x.g.flights, busy := x.g.busy, ready := x.g.ready, lastQuad := x.g.lastQuad
      trap := { g'.trap with shadows := x.g.trap.shadows } } = x.g := by
  rw [h.eq]
  have h2 := (Group.issued_eq x.g x.q).1
  revert h2
  unfold Group.issued
  split
  · intro _; rfl
  · intro _; rfl

/-- An instruction whose whole effect lies in the registers goes on, and all else is as before. -/
theorem State.onGroup_went {s : State} {x : Iss} (h : s.iss = some x) {f : Group → Group} (hf : ∀ g, RegOnly g (f g)) :
    Went s ((s.prep x).onGroup x f) x ((f (x.g.issued x.q)).modQ x.q.tag QSet.advance) := by
  have hq : (f (x.g.issued x.q)).qsets = x.g.qsets := by rw [(hf _).qsets, Group.issued_qsets]
  refine { toKept := ?_, next := ?_, quads := ?_ }
  · refine State.modGroup_kept (f := fun g => (f g).modQ x.q.tag QSet.advance) h (fun g => (hf g).ref) ?_ ?_ ?_
    · exact RegOnly.kept (hf _) _
    · exact (hf _).fids.trans (Group.issued_eq x.g x.q).2.1
    · show List.map _ (f (x.g.issued x.q)).trap.shadows = _
      rw [(hf _).eq]
      exact (Group.issued_eq x.g x.q).2.2
  · rw [Group.q?_modQ _ _ _ QSet.advance_tag]
    show Option.map _ (List.find? _ _) = _
    rw [hq]
    have := (State.iss_some h).2.1
    unfold Group.q? at this
    rw [this]; rfl
  · intro tag ht
    rw [Group.q?_modQ_ne _ _ QSet.advance_tag ht]
    show List.find? _ _ = List.find? _ _
    rw [hq]

/-- What `Effect.Done` says depends on the registers of the group alone. -/
theorem Effect.Done.congr {e : Effect} {x : Iss} {g g' : Group} (h : e.Done x g) (hr : g'.regs = g.regs) : e.Done x g' where
  lanes r l hl := by have := h.lanes r l hl; unfold Group.lane at *; rw [hr]; exact this
  scals n := by have := h.scals n; unfold Group.scal at *; rw [hr]; exact this
  masks n l hl := by have := h.masks n l hl; unfold Group.mask at *; rw [hr]; exact this
  flags := by rw [hr]; exact h.flags
  fpstat := by rw [hr]; exact h.fpstat
  others := by rw [hr]; exact h.others

/-- Completion of an instruction whose body is a change of the group's registers. -/
theorem Completes.of_onGroup {s : State} {x : Iss} {i : Instr} {e : Effect} {body : Iss → State → State} {f : Group → Group}
    (h : Issues s x i) (hx : exec i s = issue i body s) (hb : body x (s.prep x) = (s.prep x).onGroup x f)
    (hf : ∀ g, RegOnly g (f g)) (he : ∀ g, g.regs = x.g.regs → e.Done x (f g)) : Completes i s x e := by
  refine ⟨(s.prep x).onGroup x f, (f (x.g.issued x.q)).modQ x.q.tag QSet.advance, ?_, State.onGroup_went h.1 hf, ?_⟩
  · rw [hx, issue_runs h, hb]
  · exact (he (x.g.issued x.q) (Group.issued_regs _ _)).congr rfl

/-! ## The forms of effects -/

/-- A dead lane never executes (R8). -/
theorem Iss.exec_alive {x : Iss} {m l : Nat} (h : bit (x.exec m) l = true) : bit x.g.regs.dead l = false := by
  unfold Iss.exec Iss.exec0 Iss.masked at h
  simp only [bit] at *
  split at h <;> simp only [BitVec.getLsbD_and, Bool.and_eq_true, BitVec.getLsbD_not] at h
  · simpa using h.2.1.2.2
  · simpa using h.2.1.2.2

theorem Iss.exec_inset {x : Iss} {m l : Nat} (h : bit (x.exec m) l = true) : bit (quadLanes x.q.quads) l = true := by
  unfold Iss.exec Iss.exec0 Iss.masked at h
  simp only [bit] at *
  split at h <;> simp only [BitVec.getLsbD_and, Bool.and_eq_true] at h
  · exact h.2.2
  · exact h.2.2

/-- A result written to lane registers. -/
theorem Effect.done_lanes {x : Iss} {g : Group} (hg : g.regs = x.g.regs) (m : Nat) (os : List Loc) (f : Nat → Nat → W32) :
    ({ dst := os, ex := x.exec m, val := f } : Effect).Done x (g.wrDest (x.exec m) os f) where
  lanes r l hl := by
    rw [Group.lane_wrDest _ _ _ _ _ _ hl]
    have hlane : g.lane r l = x.g.lane r l := by unfold Group.lane; rw [hg]
    rw [hlane, hg]
    by_cases h : bit (x.exec m) l = true
    · simp [h, Iss.exec_alive h]
    · simp [h]
  scals n := by
    have := (g.wrDest_file (x.exec m) os f).rest
    have h2 : (g.wrDest (x.exec m) os f).regs.scal = g.regs.scal := by rw [← this]
    simp only [Group.scal, h2, hg]
  masks n l hl := by
    rw [Group.mask_wrDest _ _ _ _ _ _ hl]
    have hm : g.mask n = x.g.mask n := by unfold Group.mask; rw [hg]
    rw [hm]
  flags := by
    have := (g.wrDest_file (x.exec m) os f).rest
    show _ = x.g.regs.cc
    rw [← hg, ← this]
  fpstat := by
    have := (g.wrDest_file (x.exec m) os f).rest
    have h2 : (g.wrDest (x.exec m) os f).regs.fpstat = g.regs.fpstat := by rw [← this]
    rw [h2, hg]; simp
  others := by
    have := (g.wrDest_file (x.exec m) os f).rest
    rw [hg] at this
    have h1 : (g.wrDest (x.exec m) os f).regs.scal = x.g.regs.scal := by rw [← this]
    have h2 : (g.wrDest (x.exec m) os f).regs.cc = x.g.regs.cc := by rw [← this]
    have h3 : (g.wrDest (x.exec m) os f).regs.fpstat = x.g.regs.fpstat := by rw [← this]
    rw [← h1, ← h2, ← h3]; exact this

/-- Flags raised besides. -/
theorem Effect.done_orFp {x : Iss} {g : Group} {e : Effect} (h : e.Done x g) (he : e.fp = 0) (fl : BitVec 5) :
    ({ e with fp := fl } : Effect).Done x (g.orFp fl) where
  lanes := h.lanes
  scals := h.scals
  masks := h.masks
  flags := h.flags
  fpstat := by
    have := h.fpstat
    rw [he] at this
    show g.regs.fpstat ||| fl = _
    rw [this]; simp
  others := h.others

/-- A mask written besides. -/
theorem Effect.done_wrMask {x : Iss} {g : Group} {e : Effect} (h : e.Done x g) (he : e.mask = none) (md : Nat) (lanes v : W64) :
    ({ e with mask := some (md, lanes, v) } : Effect).Done x (g.wrMask md lanes v) where
  lanes r l hl := by rw [Group.lane_wrMask]; exact h.lanes r l hl
  scals n := by
    have h2 : (g.wrMask md lanes v).regs.scal = g.regs.scal := by rw [← (g.wrMask_file md lanes v).rest]
    have : (g.wrMask md lanes v).scal n = g.scal n := by simp only [Group.scal, h2]
    rw [this]; exact h.scals n
  masks n l hl := by
    rw [Group.mask_wrMask _ _ _ _ _ _ hl, h.masks n l hl, he]
  flags := by
    have h2 : (g.wrMask md lanes v).regs.cc = g.regs.cc := by rw [← (g.wrMask_file md lanes v).rest]
    rw [h2]; exact h.flags
  fpstat := by
    have h2 : (g.wrMask md lanes v).regs.fpstat = g.regs.fpstat := by rw [← (g.wrMask_file md lanes v).rest]
    rw [h2]; exact h.fpstat
  others := by
    have h1 := (g.wrMask_file md lanes v).rest
    have h2 := h.others
    rw [← h1] at h2
    exact h2

/-- Nothing but what a mask write does, from the group as it issues. -/
theorem Effect.done_none {x : Iss} {g : Group} (hg : g.regs = x.g.regs) : ({} : Effect).Done x g where
  lanes r l _ := by unfold Group.lane; rw [hg]; simp [bit]
  scals n := by unfold Group.scal; rw [hg]
  masks n l _ := by unfold Group.mask; rw [hg]; simp [bit]
  flags := by rw [hg]; rfl
  fpstat := by rw [hg]; simp
  others := by rw [hg]

/-- A scalar written besides. -/
theorem Effect.done_wrScal {x : Iss} {g : Group} {e : Effect} (h : e.Done x g) (he : e.scal = none) (d : Nat) (v : W64) :
    ({ e with scal := some (d, v) } : Effect).Done x (g.wrScal d v) where
  lanes r l hl := by rw [Group.lane_wrScal]; exact h.lanes r l hl
  scals n := by
    have := h.scals n
    rw [he] at this
    rw [Group.scal_wrScal, this]
  masks n l hl := by rw [Group.mask_wrScal]; exact h.masks n l hl
  flags := by
    have h2 : (g.wrScal d v).regs.cc = g.regs.cc := by rw [Group.wrScal_regs]; split <;> rfl
    rw [h2]; exact h.flags
  fpstat := by
    have h2 : (g.wrScal d v).regs.fpstat = g.regs.fpstat := by rw [Group.wrScal_regs]; split <;> rfl
    rw [h2]; exact h.fpstat
  others := by
    rw [Group.wrScal_regs]; split
    · exact h.others
    · exact h.others

theorem Effect.done_setCc {x : Iss} {g : Group} {e : Effect} (h : e.Done x g) (cc : BitVec 4) :
    ({ e with cc := some cc } : Effect).Done x (g.setCc cc) where
  lanes := h.lanes
  scals := h.scals
  masks := h.masks
  flags := rfl
  fpstat := h.fpstat
  others := h.others

/-! ## Completion, form by form -/

/-- A lane instruction with a result of any number of registers. -/
theorem Completes.lanes {s : State} {x : Iss} {i : Instr} {body : Iss → State → State} {m : Nat} {os : List Loc} {f : Nat → Nat → W32}
    (h : Issues s x i) (hx : exec i s = issue i body s)
    (hb : body x (s.prep x) = (s.prep x).onGroup x fun g => g.wrDest (x.exec m) os f) :
    Completes i s x { dst := os, ex := x.exec m, val := f } :=
  .of_onGroup h hx hb (fun g => (g.wrDest_file _ _ _).only) fun _ hg => Effect.done_lanes hg m os f

/-- A scalar instruction. -/
theorem Completes.scalar {s : State} {x : Iss} {i : Instr} {body : Iss → State → State} {d : Nat} {v : W64}
    (h : Issues s x i) (hx : exec i s = issue i body s) (hb : body x (s.prep x) = (s.prep x).onGroup x fun g => g.wrScal d v) :
    Completes i s x { scal := some (d, v) } :=
  .of_onGroup h hx hb (fun g => g.wrScal_only _ _) fun _ hg => Effect.done_wrScal (Effect.done_none hg) rfl d v

/-- A mask instruction. -/
theorem Completes.mask {s : State} {x : Iss} {i : Instr} {body : Iss → State → State} {d : Nat} {lanes v : W64}
    (h : Issues s x i) (hx : exec i s = issue i body s) (hb : body x (s.prep x) = (s.prep x).onGroup x fun g => g.wrMask d lanes v) :
    Completes i s x { mask := some (d, lanes, v) } :=
  .of_onGroup h hx hb (fun g => g.wrMask_only _ _ _) fun _ hg => Effect.done_wrMask (Effect.done_none hg) rfl d lanes v

/-- A compare of scalars. -/
theorem Completes.cc {s : State} {x : Iss} {i : Instr} {body : Iss → State → State} {c : BitVec 4}
    (h : Issues s x i) (hx : exec i s = issue i body s) (hb : body x (s.prep x) = (s.prep x).onGroup x fun g => g.setCc c) :
    Completes i s x { cc := some c } :=
  .of_onGroup h hx hb (fun g => g.setCc_only _) fun _ hg => Effect.done_setCc (Effect.done_none hg) c

end Sys2Proof.Machine
end

