-- ==== Sys2Proof/Laws/Exceptions.lean ====
section
/-! SUPPORT. Laws/Exceptions.lean: everything that holding a quad-set, transferring it, taking a trap and entering the emulation handler can
do, and everything that the frame of an issue can do. -/

namespace Sys2Proof.Machine

/-- All but the groups and the teams is as before. -/
def State.Groups (s t : State) : Prop := t = { s with groups := t.groups, teams := t.teams }

namespace State.Groups

theorem refl (s : State) : s.Groups s := rfl
theorem trans {s t u : State} (h : s.Groups t) (k : t.Groups u) : s.Groups u := by
  unfold State.Groups at *; rw [k, h]

theorem dram {s t : State} (h : s.Groups t) : t.dram = s.dram := by rw [h]
theorem hostMem {s t : State} (h : s.Groups t) : t.hostMem = s.hostMem := by rw [h]
theorem cores {s t : State} (h : s.Groups t) : t.cores = s.cores := by rw [h]
theorem tenants {s t : State} (h : s.Groups t) : t.tenants = s.tenants := by rw [h]
theorem frames {s t : State} (h : s.Groups t) : t.frames = s.frames := by rw [h]
theorem l2 {s t : State} (h : s.Groups t) : t.l2 = s.l2 := by rw [h]
theorem launches {s t : State} (h : s.Groups t) : t.launches = s.launches := by rw [h]
theorem copies {s t : State} (h : s.Groups t) : t.copies = s.copies := by rw [h]
theorem lodge {s t : State} (h : s.Groups t) : t.lodge = s.lodge := by rw [h]
theorem free {s t : State} (h : s.Groups t) : t.free = s.free := by rw [h]
theorem next {s t : State} (h : s.Groups t) : t.next = s.next := by rw [h]

theorem modGroup (s : State) (r : Nat) (f : Group → Group) : s.Groups (s.modGroup r f) := rfl
theorem modTeam (s : State) (r : Nat) (f : Team → Team) : s.Groups (s.modTeam r f) := rfl
theorem advance (s : State) (x : Iss) : s.Groups (s.advance x) := rfl
theorem onGroup (s : State) (x : Iss) (f : Group → Group) : s.Groups (s.onGroup x f) := rfl
theorem hold (s : State) (x : Iss) (k : HoldKind) (b : Bool) : s.Groups (s.hold x k b) := rfl
theorem endTeam (s : State) (t status : Nat) (c : EndCause) : s.Groups (s.endTeam t status c) := rfl

/-- Taking a trap changes the group, or ends its team. -/
theorem enterTrap (s : State) (grp : Nat) (r : TrapRec) (rep : Option Flight) : s.Groups (s.enterTrap grp r rep) := by
  unfold State.enterTrap
  split
  · exact refl s
  split
  · dsimp only
    split
    · exact refl s
    split
    · exact endTeam _ _ _ _
    split
    · exact endTeam _ _ _ _
    · exact modGroup _ _ _
  · exact refl s

theorem raise (s : State) (x : Iss) (c : Nat) (a d : W64) : s.Groups (s.raise x c a d) := by
  unfold State.raise
  dsimp only
  split
  · exact endTeam _ _ _ _
  split
  · exact enterTrap _ _ _ _
  · exact modGroup _ _ _

theorem jump (s : State) (x : Iss) (a : W64) : s.Groups (s.jump x a) := by
  unfold State.jump
  split
  · exact modGroup _ _ _
  · exact raise _ _ _ _ _

theorem enterEmu (s : State) (x : Iss) (w : W32) (c f : Nat) : s.Groups (s.enterEmu x w c f) := by
  unfold State.enterEmu
  split
  · exact endTeam _ _ _ _
  split
  · exact endTeam _ _ _ _
  split
  · exact hold _ _ _ _
  split
  · exact raise _ _ _ _ _
  dsimp only
  split
  · exact endTeam _ _ _ _
  split
  · exact endTeam _ _ _ _
  · exact modGroup _ _ _

end State.Groups

/-! ## Each in its cases -/

/-- The ways in which a trap at issue goes. -/
theorem State.raise_cases (s : State) (x : Iss) (cause : Nat) (addr detail : W64) :
    let r : TrapRec := ⟨cause, x.q.pc, addr, detail, x.q.tag, true⟩
    (x.g.trap.mode.isSome = true ∧ s.raise x cause addr detail = s.endTeam x.g.team stTrap (.trap cause))
    ∨ (x.g.trap.mode = none ∧ (x.g.flights = [] ∧ x.g.trap.replay = [] ∧ x.g.trap.shadows = []) ∧ s.raise x cause addr detail = s.enterTrap x.g.ref r none)
    ∨ (x.g.trap.mode = none ∧ ¬(x.g.flights = [] ∧ x.g.trap.replay = [] ∧ x.g.trap.shadows = [])
      ∧ s.raise x cause addr detail = s.modGroup x.g.ref fun g => { g with trap := { g.trap with pend := some r } }) := by
  unfold State.raise
  dsimp only
  by_cases h : x.g.trap.mode.isSome = true
  · exact .inl ⟨h, if_pos h⟩
  · have hn : x.g.trap.mode = none := by simpa using h
    by_cases k : x.g.flights = [] ∧ x.g.trap.replay = [] ∧ x.g.trap.shadows = []
    · exact .inr (.inl ⟨hn, k, by rw [if_neg h, if_pos k]⟩)
    · exact .inr (.inr ⟨hn, k, by rw [if_neg h, if_neg k]⟩)

/-- A trap with a handler that stands at a header, outside trap mode, enters it (R347). -/
theorem State.enterTrap_handler {s : State} {grp : Nat} {r : TrapRec} {rep : Option Flight} {g : Group} {t : Team} {l : Launch} {q : QSet}
    (hg : s.group? grp = some g) (hh : s.homeOf g = some (t, l)) (hq : g.entrant r.tag = some q) (hm : g.trap.mode = none)
    (ht : (s.ctx l.cid).trh ≠ 0) (ha : s.headerAt t.core l.cid (s.ctx l.cid).trh = true) :
    s.enterTrap grp r rep = s.modGroup grp fun g => g.trapped q r (s.ctx l.cid).trh (rep.map (·.fid)) (rep.any fun f => f.done ≠ 0) := by
  unfold State.enterTrap
  have h0 : (s.ctx l.cid).trh ≠ 0#64 := ht
  simp [hg, hh, hq, hm, h0, ha]

/-- A trap without a handler, SHADOW apart, and a trap in trap mode end the team (R347). -/
theorem State.enterTrap_ends {s : State} {grp : Nat} {r : TrapRec} {rep : Option Flight} {g : Group} {t : Team} {l : Launch} {q : QSet}
    (hg : s.group? grp = some g) (hh : s.homeOf g = some (t, l)) (hq : g.entrant r.tag = some q) (hc : r.cause ≠ tcShadow)
    (h : g.trap.mode.isSome = true ∨ (s.ctx l.cid).trh = 0 ∨ s.headerAt t.core l.cid (s.ctx l.cid).trh = false) :
    s.enterTrap grp r rep = s.endTeam g.team stTrap (.trap r.cause) := by
  unfold State.enterTrap
  simp only [hg, hh, hq, hc, and_false, if_false]
  by_cases k : (s.ctx l.cid).trh = 0 ∨ g.trap.mode.isSome = true
  · rw [if_pos k]
  · rw [if_neg k, if_pos (by rcases h with h | h | h
                             · exact absurd (.inr h) k
                             · exact absurd (.inl h) k
                             · simp [h])]

/-- Everything that a word can do when it is issued: nothing where no quad-set issues, the end of the team in trap mode, the emulation handler,
or its own body. -/
theorem issueIf_cases (i : Instr) (undef : Iss → State → Bool) (feats : Iss → State → List Nat) (body : Iss → State → State) (s : State) :
    (s.iss = none ∧ issueIf i undef feats body s = .fault .noIssuer)
    ∨ ∃ x, s.iss = some x ∧
      (issueIf i undef feats body s = .next (s.endTeam x.g.team stTrap)
        ∨ (∃ u w c f, u.Groups (u.enterEmu x w c f) ∧ (u = s ∨ u = s.prep x) ∧ issueIf i undef feats body s = .next (u.enterEmu x w c f))
        ∨ issueIf i undef feats body s = .next (body x (s.prep x))) := by
  unfold issueIf
  cases h : s.iss with
  | none => exact .inl ⟨rfl, rfl⟩
  | some x =>
    refine .inr ⟨x, rfl, ?_⟩
    dsimp only
    split
    · exact .inl rfl
    · split
      · exact .inr (.inl ⟨_, _, _, _, State.Groups.enterEmu _ _ _ _ _, by simp, rfl⟩)
      · split
        · exact .inr (.inl ⟨_, _, _, _, State.Groups.enterEmu _ _ _ _ _, by simp, rfl⟩)
        · exact .inr (.inr rfl)

/-- A step that no word starts always answers a next state: its effect where it is due, the same state where it is not. -/
theorem event_cases (due : Bool) (t s : State) : (due = true ∧ event due t s = .next t) ∨ (due = false ∧ event due t s = .next s) := by
  unfold event
  cases due
  · exact .inr ⟨rfl, rfl⟩
  · exact .inl ⟨rfl, rfl⟩

/-- An instruction that starts in flight changes its group and the next reference alone. -/
theorem State.fly_next (s : State) (x : Iss) (f : Flight) (lanes : W64) : (s.fly x f lanes).next = s.next + 1 := rfl
theorem State.fly_only (s : State) (x : Iss) (f : Flight) (lanes : W64) :
    s.fly x f lanes = { s with groups := (s.fly x f lanes).groups, next := s.next + 1 } := rfl

end Sys2Proof.Machine
end

