-- ==== Sys2Proof/Laws/Path.lean ====
section
/-! SUPPORT. Laws/Path.lean: what the address path can change. Every operation of Machine/Path.lean leaves all but caches, translations,
frame descriptors and memory as it was, and keeps the canonical form of both byte memories. -/

namespace Sys2Proof.Machine

/-- All but the caches, the frame-TLBs, the frame descriptors, memory and its failing words, and the error log and the counts of errors
that they lead to, is as before, and memory stays canonical. -/
def State.Paths (s t : State) : Prop :=
  t = { s with
    cores := t.cores, frames := t.frames, dram := t.dram, hostMem := t.hostMem, l2 := t.l2, sil := t.sil, tlb := t.tlb, atlb := t.atlb,
    bad := t.bad, tenants := t.tenants, lodge := { s.lodge with log := t.lodge.log, lost := t.lodge.lost } }
  ∧ (s.dram.wf = true → t.dram.wf = true) ∧ (s.hostMem.wf = true → t.hostMem.wf = true)
  ∧ ∀ u, { t.tenant u with uncorr := (s.tenant u).uncorr } = s.tenant u

namespace State.Paths

theorem refl (s : State) : s.Paths s := ⟨rfl, id, id, fun _ => rfl⟩

theorem trans {s t u : State} (h : s.Paths t) (k : t.Paths u) : s.Paths u := by
  refine ⟨by rw [k.1, h.1], fun w => k.2.1 (h.2.1 w), fun w => k.2.2.1 (h.2.2.1 w), fun n => ?_⟩
  rw [← h.2.2.2 n, ← k.2.2.2 n]

theorem memWf {s t : State} (h : s.Paths t) (w : s.dram.wf = true ∧ s.hostMem.wf = true) : t.dram.wf = true ∧ t.hostMem.wf = true :=
  ⟨h.2.1 w.1, h.2.2.1 w.2⟩

theorem tenant {s t : State} (h : s.Paths t) (u : Nat) : { t.tenant u with uncorr := (s.tenant u).uncorr } = s.tenant u := h.2.2.2 u

theorem groups {s t : State} (h : s.Paths t) : t.groups = s.groups := by rw [h.1]
theorem teams {s t : State} (h : s.Paths t) : t.teams = s.teams := by rw [h.1]
theorem launches {s t : State} (h : s.Paths t) : t.launches = s.launches := by rw [h.1]
theorem copies {s t : State} (h : s.Paths t) : t.copies = s.copies := by rw [h.1]
theorem adms {s t : State} (h : s.Paths t) : t.adms = s.adms := by rw [h.1]
theorem focus {s t : State} (h : s.Paths t) : t.focus = s.focus := by rw [h.1]
theorem agenda {s t : State} (h : s.Paths t) : t.agenda = s.agenda := by rw [h.1]
theorem free {s t : State} (h : s.Paths t) : t.free = s.free := by rw [h.1]
theorem next {s t : State} (h : s.Paths t) : t.next = s.next := by rw [h.1]

theorem foldl {α : Type} (l : List α) (f : State → α → State) (h : ∀ (s : State) a, s.Paths (f s a)) (s : State) : s.Paths (l.foldl f s) := by
  induction l generalizing s with
  | nil => exact refl s
  | cons a l ih => exact (h s a).trans (ih (f s a))

/-- The same for a fold that carries a result along. -/
theorem foldlPair {α β : Type} (l : List α) (f : State × β → α → State × β) (h : ∀ (p : State × β) a, p.1.Paths (f p a).1) (p : State × β) :
    p.1.Paths (l.foldl f p).1 := by
  induction l generalizing p with
  | nil => exact refl p.1
  | cons a l ih => exact (h p a).trans (ih (f p a))

theorem modCore (s : State) (c : Nat) (f : Core → Core) : s.Paths (s.modCore c f) := ⟨rfl, id, id, fun _ => rfl⟩
theorem modFrame (s : State) (i : Nat) (f : Frame → Frame) : s.Paths (s.modFrame i f) := ⟨rfl, id, id, fun _ => rfl⟩
theorem l2Put (s : State) (l : L2Line) : s.Paths (s.l2Put l) := ⟨rfl, id, id, fun _ => rfl⟩
theorem damage (s : State) (f : Nat) : s.Paths (s.damage f) := ⟨rfl, id, id, fun _ => rfl⟩
theorem logErr (s : State) (cls unit tid cid : Nat) (action : BitVec 4) (place : Nat) (lanes : W64) :
    s.Paths (s.logErr cls unit tid cid action place lanes) := ⟨rfl, id, id, fun _ => rfl⟩
theorem detected (s : State) (unit place : Nat) (action : BitVec 4) (lanes : W64) : s.Paths (s.detected unit place action lanes) :=
  ⟨rfl, id, id, fun _ => rfl⟩

theorem countError (s : State) (tid : Nat) : s.Paths (s.modTenant tid fun t => { t with uncorr := bump t.uncorr 1 }) := by
  refine ⟨rfl, id, id, fun u => ?_⟩
  by_cases h : u = tid
  · subst h; rw [State.tenant_modTenant]
  · rw [State.tenant_modTenant_ne _ _ h]

theorem newError (s : State) (unit place tid cid : Nat) (action : BitVec 4) (lanes : W64) :
    s.Paths (s.newError unit place tid cid action lanes) := by
  unfold State.newError
  split
  · exact logErr _ _ _ _ _ _ _ _
  · exact (countError s tid).trans (logErr _ _ _ _ _ _ _ _)

end State.Paths

/-- Bytes written one by one, where there is one to write. -/
theorem Memory.wf_optional {α : Type} (l : List α) (f : Memory → α → Memory) (h : ∀ m a, Memory.wf m = true → (f m a).wf = true) (m : Memory)
    (w : m.wf = true) : (l.foldl f m).wf = true := by
  induction l generalizing m with
  | nil => exact w
  | cons a l ih => exact ih _ (h m a w)

namespace State.Paths

theorem dramPut (s : State) (a : Nat) (bytes : List (Option Byte)) : s.Paths (s.dramPut a bytes) := by
  unfold State.dramPut
  split
  · exact refl s
  split
  · exact ⟨rfl, fun w => Memory.wf_write w _ _, id, fun _ => rfl⟩
  split
  · exact (detected s _ _ _ _).trans (damage _ _)
  · refine ⟨rfl, fun w => Memory.wf_optional _ _ (fun m b hm => ?_) _ w, id, fun _ => rfl⟩
    dsimp only
    split
    · exact Memory.wf_set hm _ _
    · exact hm

theorem l2Clean (s : State) (l : L2Line) : s.Paths (s.l2Clean l) := foldl _ _ (fun _ _ => dramPut _ _ _) s

theorem l2Drop (s : State) (g : Nat) : s.Paths (s.l2Drop g) := by
  unfold State.l2Drop
  split
  · exact refl s
  · exact (l2Clean s _).trans ⟨rfl, id, id, fun _ => rfl⟩

theorem l2SetRoom (s : State) (g : Nat) : s.Paths (s.l2SetRoom g) := by
  unfold State.l2SetRoom
  split
  · exact refl s
  · dsimp only
    split
    · exact refl s
    · split
      · exact l2Drop s _
      · exact refl s

theorem l2Room (s : State) (g : Nat) : s.Paths (s.l2Room g) := by
  unfold State.l2Room
  dsimp only
  split
  · split
    · exact (l2Drop s _).trans (l2SetRoom _ _)
    · exact l2SetRoom s _
  · exact l2SetRoom s _

theorem l2Space (s : State) (g : Nat) : s.Paths (s.l2Space g) := by
  unfold State.l2Space
  split
  · exact refl s
  · exact l2Room s g

theorem l2Keep (s : State) (l : L2Line) : s.Paths (s.l2Keep l) := by
  unfold State.l2Keep
  split
  · exact l2Put s l
  · exact refl s

theorem setTlbs (s : State) (a : List TlbEntry) (b : List AllotEntry) : s.Paths { s with tlb := a, atlb := b } := ⟨rfl, id, id, fun _ => rfl⟩

theorem tlbFit (s : State) (g : Nat) : s.Paths (s.tlbFit g) := by
  unfold State.tlbFit
  split
  · exact refl s
  · extract_lets
    exact setTlbs s _ _

theorem tlbPut (s : State) (g tid tia : Nat) (tfns : List Nat) (l : Leaf) : s.Paths (s.tlbPut g tid tia tfns l) := by
  unfold State.tlbPut
  extract_lets
  exact (setTlbs s _ _).trans (tlbFit _ g)

theorem translate (s : State) (tid tia : Nat) : s.Paths (s.translate tid tia).1 := by
  unfold State.translate
  dsimp only
  split
  · split <;> exact refl s
  · split
    · exact tlbPut s _ _ _ _ _
    · exact refl s

theorem home (s : State) (g : Nat) (h nt : Bool) : s.Paths (s.home g h nt).1 := by
  unfold State.home
  split
  · exact l2Put s _
  · have ht := translate s (glineTid g) (glineTia g)
    split <;> rename_i e <;> rw [e] at ht
    · exact ht
    · split
      · exact ht
      split
      · exact ht
      split
      · exact ht
      · dsimp only
        split
        · exact ht.trans (l2Space _ _)
        · exact (ht.trans (l2Space _ _)).trans (l2Keep _ _)

theorem dirtyFrame (s : State) (f : Nat) : s.Paths (s.dirtyFrame f) := modFrame _ _ _

theorem l2Write (s : State) (g : Nat) (h : Bool) (nt : Bool := false) : s.Paths (s.l2Write g h nt).1 := by
  unfold State.l2Write
  have hh := home s g h nt
  split <;> rename_i e <;> rw [e] at hh
  · exact hh
  · split
    · exact hh
    rename_i u l _
    have ht := translate u (glineTid g) (glineTia g)
    split <;> rename_i e' <;> rw [e'] at ht
    · exact hh.trans ht
    · split
      · exact hh.trans ht
      split
      · exact hh.trans ht
      split
      · exact hh.trans ht
      split
      · exact (hh.trans ht).trans (dirtyFrame _ _)
      · dsimp only
        refine (hh.trans ht).trans (State.Paths.trans ?_ (dirtyFrame _ _))
        split
        · exact l2Put _ _
        · exact refl _
  · split
    · exact hh
    split
    · exact hh.trans (dirtyFrame _ _)
    · exact hh
  · split <;> exact hh

theorem homeWrite (s : State) (h : Home) (g : Nat) (f : Nat → Option Byte) : s.Paths (s.homeWrite h g f).1 := by
  unfold State.homeWrite
  split
  · dsimp only
    split
    · exact l2Put _ _
    · exact l2Clean _ _
  · extract_lets
    split
    · exact refl s
    · exact foldl _ _ (fun _ _ => dramPut _ _ _) s
  · refine ⟨rfl, id, fun w => Memory.wf_optional _ _ (fun m b hm => ?_) _ w, fun _ => rfl⟩
    split
    · exact Memory.wf_set hm _ _
    · exact hm

theorem l2Take (s : State) (l : L1Line) : s.Paths (s.l2Take l) := by
  unfold State.l2Take
  dsimp only
  split
  · exact l2Put _ _
  · have h := l2Space s l.gline
    split
    · exact h
    · split
      · exact h.trans (l2Clean _ _)
      · exact h.trans (l2Put _ _)

theorem l1Clean (s : State) (core g : Nat) : s.Paths (s.l1Clean core g) := by
  unfold State.l1Clean
  split
  · exact refl s
  · split
    · exact refl s
    · exact State.Paths.trans (modCore _ _ _) (l2Take _ _)

theorem l1Drop (s : State) (core g : Nat) : s.Paths (s.l1Drop core g) := (l1Clean s core g).trans (modCore _ _ _)

theorem l1Room (s : State) (core g : Nat) : s.Paths (s.l1Room core g) := by
  unfold State.l1Room
  split
  · exact refl s
  · split
    · exact l1Drop s _ _
    · exact refl s

theorem l1Space (s : State) (core g : Nat) : s.Paths (s.l1Space core g) := by
  unfold State.l1Space
  split
  · exact refl s
  · exact l1Room s core g

theorem l1FillFrom (s : State) (core g : Nat) (nt : Bool) (h : L2Line) : s.Paths (s.l1FillFrom core g nt h) := by
  unfold State.l1FillFrom
  dsimp only
  split
  · exact l1Space s core g
  · exact (l1Space s core g).trans (modCore _ _ _)

/-- A load changes caches and translations alone, write-backs apart. -/
theorem loadLine (s : State) (core g off n : Nat) (nt fromL2 : Bool) : s.Paths (s.loadLine core g off n nt fromL2).1 := by
  unfold State.loadLine
  split
  · dsimp only
    exact modCore _ _ _
  · dsimp only
    have h0 : s.Paths (if fromL2 = true then s.l1Clean core g else s) := by
      split
      · exact l1Clean s core g
      · exact refl s
    have hh := home (if fromL2 = true then s.l1Clean core g else s) g false nt
    split <;> rename_i e <;> rw [e] at hh
    · exact h0.trans hh
    · split
      · exact h0.trans hh
      · split
        · exact (h0.trans hh).trans (l1FillFrom _ _ _ _ _)
        · split <;> exact (h0.trans hh).trans (l1FillFrom _ _ _ _ _)
    · exact h0.trans hh

theorem storeLine (s : State) (core g off : Nat) (bytes : List Byte) (nt : Bool) : s.Paths (s.storeLine core g off bytes nt).1 := by
  unfold State.storeLine
  dsimp only
  split
  · dsimp only
    exact modCore _ _ _
  · have hw := l2Write s g false nt
    split <;> rename_i e <;> rw [e] at hw
    · exact hw
    · split
      · exact hw.trans (l1Space _ _ _)
      · dsimp only at hw ⊢
        exact (hw.trans (l1Space _ _ _)).trans (modCore _ _ _)
    · split
      · exact hw
      · rename_i u leaf _
        have hk := homeWrite u (.uncached leaf) g fun i => if off ≤ i then bytes[i - off]? else none
        split <;> rename_i e' <;> rw [e'] at hk
        · exact hw.trans hk
        · exact hw.trans hk
    · exact hw.trans (homeWrite _ _ _ _)

theorem releaseL1 (s : State) (core tid : Nat) : s.Paths (s.releaseL1 core tid) := foldl _ _ (fun _ _ => l1Clean _ _ _) s

theorem acquireL1 (s : State) (core tid : Nat) : s.Paths (s.acquireL1 core tid) := modCore _ _ _

theorem devRead (s : State) (tid tia n : Nat) (h : Bool) : s.Paths (s.devRead tid tia n h).1 := by
  refine foldlPair _ _ (fun p i => ?_) (s, (.ok [] : Except WalkErr (List Byte)))
  dsimp only
  split
  · exact refl _
  · rename_i u bs
    have hh := home u (gia tid (tia + i) / 128) h false
    split <;> rename_i e <;> rw [e] at hh
    · exact hh
    · split
      · exact hh
      · exact hh

theorem devWrite (s : State) (tid tia : Nat) (bytes : List (Option Byte)) (h : Bool) : s.Paths (s.devWrite tid tia bytes h).1 := by
  refine foldlPair _ _ (fun p k => ?_) (s, (.ok () : Except WalkErr Unit))
  dsimp only
  split
  · exact refl _
  · rename_i u _
    have hw := l2Write u (gia tid tia / 128 + k) h
    split <;> rename_i e <;> rw [e] at hw
    · exact hw
    · split
      · exact hw
      · exact hw.trans (homeWrite _ _ _ _)
    · exact hw.trans (homeWrite _ _ _ _)

theorem silPut (s : State) (l : SILine) : s.Paths (s.silPut l) := ⟨rfl, id, id, fun _ => rfl⟩

theorem fetchLine (s : State) (core cid va : Nat) : s.Paths (s.fetchLine core cid va).1 := by
  unfold State.fetchLine
  split
  · split
    · exact refl s
    · dsimp only
      exact modCore _ _ _
  · dsimp only
    split
    · exact refl s
    · split
      · exact refl s
      · rename_i i _ _
        have ht := translate s (cid / 4) ((s.ctx cid).tia i va / 128 * 128)
        split <;> rename_i e <;> rw [e] at ht
        · exact ht
        · split
          · exact ht
          · split
            · dsimp only
              exact ht.trans ((silPut _ _).trans (modCore _ _ _))
            · rename_i u _ _ _ _
              have hh := home u (gia (cid / 4) ((s.ctx cid).tia i va / 128 * 128) / 128) false false
              split <;> rename_i e' <;> rw [e'] at hh
              · exact ht.trans hh
              · split
                · dsimp only
                  exact (ht.trans hh).trans ((silPut _ _).trans (modCore _ _ _))
                · split <;> exact ht.trans hh

theorem fetchWord (s : State) (core cid va : Nat) : s.Paths (s.fetchWord core cid va).1 := by
  have h := fetchLine s core cid va
  unfold State.fetchWord
  split <;> rename_i e <;> rw [e] at h <;> exact h

end State.Paths

end Sys2Proof.Machine
end

