-- ==== Sys2Proof/Laws/Select.lean ====
section
/-! SUPPORT. Laws/Select.lean: everything that the choice of what issues can do: what it changes of the state, and from what it chooses. -/

namespace Sys2Proof.Machine

/-- The choice for a partition changes what is to issue, what its ports carry, and the counter of free values. -/
theorem State.select_frame (s : State) (core part : Nat) :
    { s.select core part with focus := s.focus, cores := s.cores, free := s.free } = s := by
  unfold State.select State.modCore
  cases s.pick core part 0 <;> cases s.pick core part 1 <;> dsimp only <;> (repeat' split) <;> rfl

/-- Of the groups among which a port chooses, one issues; there is none only where there is no choice. -/
theorem winner_mem {gs : List (Group × QSet)} {e : Group × QSet} (h : winner gs = some e) : e ∈ gs := by
  have fold (l : List (Group × QSet)) (k : Group × QSet) :
      l.foldl (fun a b => if a.1.ready < b.1.ready then b else a) k ∈ k :: l := by
    induction l generalizing k with
    | nil => simp
    | cons b l ih =>
      have := ih (if k.1.ready < b.1.ready then b else k)
      simp only [List.foldl_cons, List.mem_cons] at *
      split at this <;> simp_all
      grind
  unfold winner at h
  split at h
  · exact List.mem_of_mem_head? h
  · rename_i k ks hk
    simp only [Option.some.injEq] at h
    exact List.mem_of_mem_filter (hk ▸ h ▸ fold ks k)

theorem winner_isNone {gs : List (Group × QSet)} : winner gs = none ↔ gs = [] := by
  unfold winner
  split <;> simp_all [List.head?_eq_none_iff]
  rename_i k ks hk
  rintro rfl
  simp at hk

end Sys2Proof.Machine
end

