-- ==== Sys2Proof/Laws/Values.lean ====
section
/-! SUPPORT. Laws/Values.lean: the values that the integer operations form, in the terms of Safety.lean. -/

namespace Sys2Proof.Machine
theorem high_of_int (n : Nat) (p : Int) : ((BitVec.ofInt (2 * n) p).extractLsb' n n) = BitVec.ofNat n (mulHigh n p) := by
  apply BitVec.eq_of_toNat_eq
  have h2 : (0 : Int) < 2 ^ n := by positivity
  rw [BitVec.extractLsb'_toNat, BitVec.toNat_ofInt, BitVec.toNat_ofNat, Nat.shiftRight_eq_div_pow]
  have e : ((2 ^ (2 * n) : Nat) : Int) = 2 ^ n * 2 ^ n := by push_cast; ring
  have h0 : 0 ≤ p % (2 ^ n * 2 ^ n) := Int.emod_nonneg _ (by positivity)
  have key : (((p % (2 ^ (2 * n) : Nat)).toNat / 2 ^ n : Nat) : Int) = p / 2 ^ n % 2 ^ n := by
    rw [e]
    push_cast
    rw [Int.toNat_of_nonneg h0, Int.emod_def p (2 ^ n * 2 ^ n), Int.emod_def (p / 2 ^ n) (2 ^ n), ← Int.ediv_ediv_of_nonneg (by positivity)]
    have : p - 2 ^ n * 2 ^ n * (p / 2 ^ n / 2 ^ n) = p + 2 ^ n * (-(2 ^ n * (p / 2 ^ n / 2 ^ n))) := by ring
    rw [this, Int.add_mul_ediv_left _ _ (by positivity)]
    ring
  have : (p % (2 ^ (2 * n) : Nat)).toNat / 2 ^ n = (p / 2 ^ n % 2 ^ n).toNat := by omega
  rw [this]; unfold mulHigh; rfl

theorem mulHigh_signed {n : Nat} (a b : BitVec n) :
    BitVec.ofNat n (mulHigh n (a.toInt * b.toInt)) = (a.signExtend (2 * n) * b.signExtend (2 * n)).extractLsb' n n := by
  rw [← high_of_int, BitVec.ofInt_mul]; rfl

theorem mulHigh_unsigned {n : Nat} (a b : BitVec n) :
    BitVec.ofNat n (a.toNat * b.toNat / 2 ^ n) = (a.setWidth (2 * n) * b.setWidth (2 * n)).extractLsb' n n := by
  apply BitVec.eq_of_toNat_eq
  have h1 : (2:Nat) ^ n ≤ 2 ^ (2 * n) := Nat.pow_le_pow_right (by norm_num) (by omega)
  have ha : a.toNat % 2 ^ (2 * n) = a.toNat := Nat.mod_eq_of_lt (lt_of_lt_of_le a.isLt h1)
  have hb : b.toNat % 2 ^ (2 * n) = b.toNat := Nat.mod_eq_of_lt (lt_of_lt_of_le b.isLt h1)
  have hab : a.toNat * b.toNat < 2 ^ (2 * n) := by
    have : (2:Nat) ^ (2 * n) = 2 ^ n * 2 ^ n := by rw [two_mul, pow_add]
    rw [this]; exact Nat.mul_lt_mul'' a.isLt b.isLt
  rw [BitVec.extractLsb'_toNat, BitVec.toNat_mul, BitVec.toNat_setWidth, BitVec.toNat_setWidth, BitVec.toNat_ofNat, ha, hb,
    Nat.mod_eq_of_lt hab, Nat.shiftRight_eq_div_pow]

/-- Leading zeros counted: the first set bit from the top. -/
theorem clz_findIdx (n v : Nat) (h : v < 2 ^ n) : clzOf n v = (List.range n).findIdx fun i => v.testBit (n - 1 - i) := by
  by_cases h0 : v = 0
  · subst h0
    have : (List.range n).findIdx (fun i => Nat.testBit 0 (n - 1 - i)) = (List.range n).length := by
      rw [List.findIdx_eq_length]; simp
    rw [this]; simp [clzOf]
  · have hl : Nat.log2 v < n := by rw [Nat.log2_lt h0]; exact h
    have : n - (Nat.log2 v + 1) < (List.range n).length := by simp; omega
    have k : (List.range n).findIdx (fun i => v.testBit (n - 1 - i)) = n - (Nat.log2 v + 1) := by
      rw [List.findIdx_eq this]
      constructor
      · simp only [List.getElem_range]
        have : n - 1 - (n - (Nat.log2 v + 1)) = Nat.log2 v := by omega
        rw [this]
        exact Nat.testBit_log2 h0 
      · intro j hj
        simp only [List.getElem_range]
        apply Nat.testBit_lt_two_pow
        exact (Nat.log2_lt h0).1 (by omega)
    rw [k]; simp [clzOf, h0]

theorem popCount_eq {n : Nat} (a : BitVec n) (hn : n ≤ 64) :
    popCount (a.setWidth 64) = (List.range n).countP fun i => a.getLsbD i := by
  unfold popCount
  have : List.range 64 = List.range n ++ (List.range (64 - n)).map (n + ·) := by
    rw [← List.range_add]; congr 1; omega
  rw [this, List.countP_append]
  have h2 : List.countP (fun i => bit (a.setWidth 64) i) ((List.range (64 - n)).map (n + ·)) = 0 := by
    rw [List.countP_eq_zero]
    intro i hi
    simp only [List.mem_map, List.mem_range] at hi
    obtain ⟨k, _, rfl⟩ := hi
    simp [bit]
  rw [h2, Nat.add_zero]
  apply List.countP_congr
  intro i hi
  simp only [List.mem_range] at hi
  simp [bit, BitVec.getLsbD_setWidth]; omega

theorem ofFnLE_getLsbD {n : Nat} (f : Fin n → Bool) (i : Nat) (h : i < n) : (BitVec.ofFnLE f).getLsbD i = f ⟨i, h⟩ := by
  simp [h]

theorem fieldOf_bits {n : Nat} (a : BitVec n) (pos len : Nat) :
    BitVec.ofNat n (fieldOf a.toNat pos len) = BitVec.ofFnLE fun i : Fin n => decide (i < len) && a.getLsbD (pos + i) := by
  apply BitVec.eq_of_getLsbD_eq
  intro i hi
  rw [ofFnLE_getLsbD _ _ hi]
  simp only [BitVec.getLsbD_ofNat, hi, decide_true, Bool.true_and, fieldOf, Nat.testBit_mod_two_pow, Nat.testBit_div_two_pow]
  simp [BitVec.getLsbD, Nat.add_comm]
theorem ofNat_iwrap (n : Nat) (i : Int) : BitVec.ofNat n (iwrap n i) = BitVec.ofInt n i := by
  apply BitVec.eq_of_toNat_eq
  rw [BitVec.toNat_ofNat, BitVec.toNat_ofInt]
  unfold iwrap
  have h : (0 : Int) < ((2 ^ n : Nat) : Int) := by positivity
  have h1 := Int.emod_lt_of_pos i h
  have h0 := Int.emod_nonneg i (Int.ne_of_gt h)
  rw [Nat.mod_eq_of_lt]
  omega

theorem sext_toNat {n : Nat} (a : BitVec n) (hn : 0 < n) : sext n a.toNat = a.toInt := by
  unfold sext
  rw [Nat.mod_eq_of_lt a.isLt, BitVec.toInt_eq_toNat_cond]
  have : 2 ^ n = 2 * 2 ^ (n - 1) := by
    obtain ⟨k, rfl⟩ : ∃ k, n = k + 1 := ⟨n - 1, by omega⟩
    simp [pow_succ, mul_comm]
  by_cases h : a.toNat < 2 ^ (n - 1)
  · rw [if_pos h, if_pos (by omega)]
  · rw [if_neg h, if_neg (by omega)]

/-- An element of an integer type as its exact value. -/
theorem ival_toNat {n : Nat} (ty : Nat) (a : BitVec n) (hn : 0 < n) : ival ty n a.toNat = if ty % 2 = 0 then a.toInt else (a.toNat : Int) := by
  unfold ival
  split
  · rw [sext_toNat a hn]
  · rw [Nat.mod_eq_of_lt a.isLt]

theorem ofInt_ival {n : Nat} (ty : Nat) (a : BitVec n) (hn : 0 < n) : BitVec.ofInt n (ival ty n a.toNat) = a := by
  rw [ival_toNat ty a hn]; split <;> simp

theorem elem_word (a : W32) : elem a 32 0 = a.toNat := by
  unfold elem; simp; exact a.isLt
theorem elem_half (a : W32) (e : Nat) : elem a 16 e = (a.extractLsb' (16 * e) 16).toNat := by
  unfold elem; rw [BitVec.extractLsb'_toNat, Nat.shiftRight_eq_div_pow]

theorem pack2_halves (x y : Nat) : pack2 x y = BitVec.ofNat 16 y ++ BitVec.ofNat 16 x := by
  apply BitVec.eq_of_toNat_eq
  rw [BitVec.toNat_append, BitVec.toNat_ofNat, BitVec.toNat_ofNat, ← Nat.shiftLeft_add_eq_or_of_lt (Nat.mod_lt _ (by norm_num))]
  unfold pack2
  rw [BitVec.toNat_ofNat, Nat.shiftLeft_eq]
  omega

theorem type_bit1 (ty : BitVec 2) : ty.getLsbD 1 = decide (¬ty.toNat < 2) := by revert ty; decide
theorem type_bit0 (ty : BitVec 2) : ty.getLsbD 0 = decide (ty.toNat % 2 ≠ 0) := by revert ty; decide

/-- What a result per element is, from what it is at each width (R64). -/
theorem perElem_byType (ty : BitVec 2) (f : Int → Int → Int → Int) (f32 : W32 → W32 → W32 → W32) (f16 : W16 → W16 → W16 → W16)
    (h32 : ∀ a b d : W32, BitVec.ofInt 32 (f (ival ty.toNat 32 a.toNat) (ival ty.toNat 32 b.toNat) (ival ty.toNat 32 d.toNat)) = f32 a b d)
    (h16 : ∀ a b d : W16, BitVec.ofInt 16 (f (ival ty.toNat 16 a.toNat) (ival ty.toNat 16 b.toNat) (ival ty.toNat 16 d.toNat)) = f16 a b d)
    (a b d : W32) :
    (perElem ty.toNat fun e => iwrap (iwidth ty.toNat) (f (ival ty.toNat (iwidth ty.toNat) (elem a (iwidth ty.toNat) e))
      (ival ty.toNat (iwidth ty.toNat) (elem b (iwidth ty.toNat) e)) (ival ty.toNat (iwidth ty.toNat) (elem d (iwidth ty.toNat) e))))
    = byType ty f32 f16 a b d := by
  have hty := type_bit1 ty
  unfold byType perElem
  by_cases h : ty.toNat < 2
  · have hw : iwidth ty.toNat = 32 := by simp [iwidth, h]
    simp only [hty, h, not_true, decide_false, if_true, hw, Bool.false_eq_true, if_false]
    rw [ofNat_iwrap, elem_word, elem_word, elem_word, h32]
  · have hw : iwidth ty.toNat = 16 := by simp [iwidth, h]
    simp only [hty, h, not_false_iff, decide_true, if_true, hw, if_false, bothHalves]
    rw [pack2_halves, ofNat_iwrap, ofNat_iwrap]
    simp only [elem_half, h16]

theorem int_add {n : Nat} (ty : Nat) (hn : 0 < n) (a b : BitVec n) : BitVec.ofInt n (ival ty n a.toNat + ival ty n b.toNat) = a + b := by
  rw [BitVec.ofInt_add, ofInt_ival ty a hn, ofInt_ival ty b hn]
theorem int_sub {n : Nat} (ty : Nat) (hn : 0 < n) (a b : BitVec n) : BitVec.ofInt n (ival ty n a.toNat - ival ty n b.toNat) = a - b := by
  rw [Int.sub_eq_add_neg, BitVec.ofInt_add, BitVec.ofInt_neg, ofInt_ival ty a hn, ofInt_ival ty b hn, BitVec.sub_eq_add_neg]
theorem int_mul {n : Nat} (ty : Nat) (hn : 0 < n) (a b : BitVec n) : BitVec.ofInt n (ival ty n a.toNat * ival ty n b.toNat) = a * b := by
  rw [BitVec.ofInt_mul, ofInt_ival ty a hn, ofInt_ival ty b hn]

/-- The order of an integer type. -/
theorem ival_lt {n : Nat} (ty : BitVec 2) (hn : 0 < n) (a b : BitVec n) :
    (ival ty.toNat n a.toNat < ival ty.toNat n b.toNat) ↔ (if ty.getLsbD 0 then a.ult b else a.slt b) = true := by
  have h0 := type_bit0 ty
  rw [ival_toNat _ a hn, ival_toNat _ b hn, h0]
  by_cases h : ty.toNat % 2 = 0
  · simp [h, BitVec.slt_iff_toInt_lt]
  · simp [h, BitVec.ult_iff_toNat_lt]

theorem int_min {n : Nat} (ty : BitVec 2) (hn : 0 < n) (a b : BitVec n) :
    BitVec.ofInt n (min (ival ty.toNat n a.toNat) (ival ty.toNat n b.toNat)) = smaller ty a b := by
  have h := ival_lt ty hn b a
  have : smaller ty a b = if (if ty.getLsbD 0 then b.ult a else b.slt a) = true then b else a := by
    unfold smaller; cases ty.getLsbD 0 <;> simp
  rw [this]
  by_cases k : ival ty.toNat n b.toNat < ival ty.toNat n a.toNat
  · rw [min_eq_right (le_of_lt k), ofInt_ival _ b hn, if_pos (h.1 k)]
  · rw [min_eq_left (not_lt.1 k), ofInt_ival _ a hn, if_neg (fun e => k (h.2 e))]

theorem int_max {n : Nat} (ty : BitVec 2) (hn : 0 < n) (a b : BitVec n) :
    BitVec.ofInt n (max (ival ty.toNat n a.toNat) (ival ty.toNat n b.toNat)) = larger ty a b := by
  have h := ival_lt ty hn a b
  have : larger ty a b = if (if ty.getLsbD 0 then a.ult b else a.slt b) = true then b else a := by
    unfold larger; cases ty.getLsbD 0 <;> simp
  rw [this]
  by_cases k : ival ty.toNat n a.toNat < ival ty.toNat n b.toNat
  · rw [max_eq_right (le_of_lt k), ofInt_ival _ b hn, if_pos (h.1 k)]
  · rw [max_eq_left (not_lt.1 k), ofInt_ival _ a hn, if_neg (fun e => k (h.2 e))]

theorem int_absd {n : Nat} (ty : BitVec 2) (hn : 0 < n) (a b : BitVec n) :
    BitVec.ofInt n (((ival ty.toNat n a.toNat - ival ty.toNat n b.toNat).natAbs : Nat) : Int) = larger ty a b - smaller ty a b := by
  have : (((ival ty.toNat n a.toNat - ival ty.toNat n b.toNat).natAbs : Nat) : Int)
      = max (ival ty.toNat n a.toNat) (ival ty.toNat n b.toNat) - min (ival ty.toNat n a.toNat) (ival ty.toNat n b.toNat) := by omega
  rw [this, Int.sub_eq_add_neg, BitVec.ofInt_add, BitVec.ofInt_neg, int_max ty hn, int_min ty hn, ← BitVec.sub_eq_add_neg]
/-- An immediate form: b is the immediate in every element (R75). -/
theorem perElem_imm (ty : BitVec 2) (f : Int → Int → Int) (imm : BitVec 7) (f32 : W32 → W32) (f16 : W16 → W16)
    (h32 : ∀ a : W32, BitVec.ofInt 32 (f (ival ty.toNat 32 a.toNat) imm.toInt) = f32 a)
    (h16 : ∀ a : W16, BitVec.ofInt 16 (f (ival ty.toNat 16 a.toNat) imm.toInt) = f16 a) (a : W32) :
    (perElem ty.toNat fun e => iwrap (iwidth ty.toNat) (f (ival ty.toNat (iwidth ty.toNat) (elem a (iwidth ty.toNat) e)) imm.toInt))
    = byType ty (fun a _ _ => f32 a) (fun a _ _ => f16 a) a 0 0 :=
  perElem_byType ty (fun a _ _ => f a imm.toInt) (fun a _ _ => f32 a) (fun a _ _ => f16 a) (fun a _ _ => h32 a) (fun a _ _ => h16 a) a 0 0

theorem ofInt_toInt_signExtend {n m : Nat} (a : BitVec n) : BitVec.ofInt m a.toInt = a.signExtend m := rfl

/-- A comparison of exact values (R31). -/
theorem laneCond_compares {n : Nat} (ty : BitVec 2) (cnd : BitVec 4) (hc : cnd.toNat < 6) (hn : 0 < n) (a b : BitVec n) :
    laneCond cnd.toNat (decide (ival ty.toNat n a.toNat < ival ty.toNat n b.toNat)) (decide (ival ty.toNat n a.toNat = ival ty.toNat n b.toNat))
      = compares ty cnd a b := by
  have hlt := ival_lt ty hn a b
  have heq : (ival ty.toNat n a.toNat = ival ty.toNat n b.toNat) ↔ a = b := by
    constructor
    · intro h
      rw [← ofInt_ival ty.toNat a hn, h, ofInt_ival _ b hn]
    · rintro rfl; rfl
  have h1 : decide (ival ty.toNat n a.toNat < ival ty.toNat n b.toNat) = (if ty.getLsbD 0 then a.ult b else a.slt b) := by
    rw [Bool.eq_iff_iff, decide_eq_true_iff]; exact hlt
  have h2 : decide (ival ty.toNat n a.toNat = ival ty.toNat n b.toNat) = decide (a = b) := by simp [heq]
  rw [h1, h2]
  unfold compares laneCond
  have : cnd.toNat = 0 ∨ cnd.toNat = 1 ∨ cnd.toNat = 2 ∨ cnd.toNat = 3 ∨ cnd.toNat = 4 ∨ cnd.toNat = 5 := by omega
  rcases this with h | h | h | h | h | h <;> simp [h]

theorem intCmp_lane (ty : BitVec 2) (cnd : BitVec 4) (hc : cnd.toNat < 6) (a b : W32) :
    intCmp ty.toNat cnd.toNat (fun e => ival ty.toNat (iwidth ty.toNat) (elem a (iwidth ty.toNat) e))
      (fun e => ival ty.toNat (iwidth ty.toNat) (elem b (iwidth ty.toNat) e)) = laneCompares ty cnd a b := by
  unfold intCmp laneCompares elems
  rw [type_bit1]
  by_cases h : ty.toNat < 2
  · have hw : iwidth ty.toNat = 32 := by simp [iwidth, h]
    simp only [h, hw, if_true, List.all_cons, List.all_nil, Bool.and_true, elem_word, not_true, decide_false, Bool.false_eq_true, if_false]
    exact laneCond_compares ty cnd hc (by norm_num) a b
  · have hw : iwidth ty.toNat = 16 := by simp [iwidth, h]
    simp only [h, hw, if_false, List.all_cons, List.all_nil, Bool.and_true, elem_half, not_false_iff, decide_true, if_true]
    rw [laneCond_compares ty cnd hc (by norm_num), laneCond_compares ty cnd hc (by norm_num)]

theorem low_half (p q : W16) : BitVec.extractLsb' (16 * 0) 16 (p ++ q : W32) = q := by
  apply BitVec.eq_of_getLsbD_eq; intro i hi
  rw [BitVec.getLsbD_extractLsb']
  show (decide (i < 16) && (p ++ q : BitVec (16 + 16)).getLsbD (16 * 0 + i)) = _
  rw [BitVec.getLsbD_append]; simp only [Nat.mul_zero, Nat.zero_add, hi, decide_true, if_true, Bool.true_and]
theorem high_half (p q : W16) : BitVec.extractLsb' (16 * 1) 16 (p ++ q : W32) = p := by
  apply BitVec.eq_of_getLsbD_eq; intro i hi
  rw [BitVec.getLsbD_extractLsb']
  show (decide (i < 16) && (p ++ q : BitVec (16 + 16)).getLsbD (16 * 1 + i)) = _
  have h : ¬ 16 * 1 + i < 16 := by omega
  have e : 16 * 1 + i - 16 = i := by omega
  rw [BitVec.getLsbD_append]; simp only [h, hi, decide_true, if_false, Bool.true_and, e]

/-- The immediate of VCMPI, at its element width (R77). -/
theorem intCmp_imm (ty : BitVec 2) (cnd : BitVec 4) (hc : cnd.toNat < 6) (a : W32) (imm : BitVec 7) :
    intCmp ty.toNat cnd.toNat (fun e => ival ty.toNat (iwidth ty.toNat) (elem a (iwidth ty.toNat) e))
      (fun _ => ival ty.toNat (iwidth ty.toNat) (iwrap (iwidth ty.toNat) imm.toInt))
      = laneCompares ty cnd a (if ty.getLsbD 1 then imm.signExtend 16 ++ imm.signExtend 16 else imm.signExtend 32) := by
  rw [← intCmp_lane ty cnd hc, type_bit1]
  have key (n : Nat) : ival ty.toNat n (iwrap n imm.toInt) = ival ty.toNat n (imm.signExtend n).toNat := by
    have : (imm.signExtend n).toNat = (BitVec.ofNat n (iwrap n imm.toInt)).toNat := by rw [ofNat_iwrap]; rfl
    rw [this, BitVec.toNat_ofNat]
    unfold ival sext; simp
  by_cases h : ty.toNat < 2
  · have hw : iwidth ty.toNat = 32 := by simp [iwidth, h]
    simp only [h, hw, not_true, decide_false, Bool.false_eq_true, if_false, intCmp, elems, if_true, List.all_cons, List.all_nil, elem_word, key]
  · have hw : iwidth ty.toNat = 16 := by simp [iwidth, h]
    have e0 := low_half (imm.signExtend 16) (imm.signExtend 16)
    have e1 := high_half (imm.signExtend 16) (imm.signExtend 16)
    simp only [h, hw, not_false_iff, decide_true, if_true, intCmp, elems, if_false, List.all_cons, List.all_nil, elem_half, key, e0, e1]

theorem dp4_dot (ty : BitVec 2) (a b d : W32) : dp4 ty.toNat a b d = byteDot ty a b d := by
  have hb (v : W32) (i : Nat) : elem v 8 i = (v.extractLsb' (8 * i) 8).toNat := by
    unfold elem; rw [BitVec.extractLsb'_toNat, Nat.shiftRight_eq_div_pow]
  have hu (v : BitVec 8) : BitVec.ofInt 32 (v.toNat : Int) = v.setWidth 32 := by
    apply BitVec.eq_of_toNat_eq; simp
  have hs (v : BitVec 8) : BitVec.ofInt 32 (sext 8 v.toNat) = v.signExtend 32 := by rw [sext_toNat v (by norm_num)]; rfl
  have hd : BitVec.ofInt 32 (d.toNat : Int) = d := by simp
  have ha (i : Nat) : BitVec.ofInt 32 (if ty.toNat = 1 then ((elem a 8 i : Nat) : Int) else sext 8 (elem a 8 i))
      = if ty = 1 then (a.extractLsb' (8 * i) 8).setWidth 32 else (a.extractLsb' (8 * i) 8).signExtend 32 := by
    have : (ty.toNat = 1) = (ty = 1) := by simp [BitVec.toNat_eq]
    simp only [this, hb]; split
    · exact hu _
    · exact hs _
  have hbb (i : Nat) : BitVec.ofInt 32 (if ty.toNat = 0 then sext 8 (elem b 8 i) else ((elem b 8 i : Nat) : Int))
      = if ty = 0 then (b.extractLsb' (8 * i) 8).signExtend 32 else (b.extractLsb' (8 * i) 8).setWidth 32 := by
    have : (ty.toNat = 0) = (ty = 0) := by simp [BitVec.toNat_eq]
    simp only [this, hb]; split
    · exact hs _
    · exact hu _
  unfold dp4 byteDot
  simp only [BitVec.ofInt_add, BitVec.ofInt_mul, hd, ha, hbb]

theorem clmul_eq (a b : W32) : clmul a b = carryless a b := by
  unfold clmul carryless
  congr 1
  funext p i
  split <;> simp

theorem setBits_eq (a : W32) : setBits 32 a.toNat = (List.range 32).countP fun i => a.getLsbD i := rfl

theorem bitLen_eq (n : Nat) : bitLen n = if n = 0 then 0 else Nat.log2 n + 1 := by
  rfl

theorem leadingZeros_eq (a : W32) : leadingZeros 32 a.toNat = (List.range 32).findIdx fun i => a.getLsbD (31 - i) := by
  unfold leadingZeros
  rw [bitLen_eq]
  exact clz_findIdx 32 a.toNat a.isLt

theorem bfx_bit (ty : BitVec 1) (a b : W32) (j : Nat) (hj : j < 32) : (bfx (ty = 1) a b).getLsbD j = bitField ty a b j := by
  have hpos : (b.extractLsb' 0 5).toNat = b.toNat % 32 := by simp [BitVec.extractLsb'_toNat]
  have hlen : (b.extractLsb' 8 6).toNat = b.toNat / 256 % 64 := by simp [BitVec.extractLsb'_toNat, Nat.shiftRight_eq_div_pow]
  have hp : b.toNat % 32 < 32 := Nat.mod_lt _ (by norm_num)
  have hl : min (b.toNat / 256 % 64) 32 ≤ 32 := Nat.min_le_right _ _
  simp only [bitField, bfx, hpos, hlen]
  generalize b.toNat % 32 = pos at hp
  generalize min (b.toNat / 256 % 64) 32 = len at hl
  by_cases h0 : len = 0
  · simp [h0]
  rw [if_neg h0]
  let A : BitVec 64 := if ty = 1 then a.signExtend 64 else a.setWidth 64
  have hA : A.toInt = if (decide (ty = 1)) = true then a.toInt else (a.toNat : Int) := by
    simp only [A, decide_eq_true_eq]
    split
    · exact BitVec.toInt_signExtend_of_le (by norm_num)
    · rw [BitVec.toInt_eq_toNat_of_lt] <;> simp <;> omega
  have hbitA (k : Nat) (hk : k < 64) : A.getLsbD k = if k < 32 then a.getLsbD k else (decide (ty = 1) && a.getLsbD 31) := by
    simp only [A]
    split
    · rename_i ht
      rw [BitVec.getLsbD_signExtend]; simp [hk, ht, BitVec.msb_eq_getLsbD_last]
    · rename_i ht
      simp only [BitVec.getLsbD_setWidth, hk, decide_true, Bool.true_and, ht, decide_false, Bool.false_and]
      split
      · rfl
      · apply BitVec.getLsbD_of_ge; omega
  have hf : (A.toInt / 2 ^ pos % ((2 ^ len : Nat) : Int)).toNat = (A.sshiftRight pos).toNat % 2 ^ len := by
    have h1 : (A.sshiftRight pos).toInt = A.toInt / 2 ^ pos := by
      rw [BitVec.toInt_sshiftRight, Int.shiftRight_eq_div_pow]; simp
    have hd : ((2 ^ len : Nat) : Int) ∣ ((2 ^ 64 : Nat) : Int) := by
      apply Int.natCast_dvd_natCast.2; exact pow_dvd_pow 2 (by omega)
    have h2 : A.toInt / 2 ^ pos % ((2 ^ len : Nat) : Int) = ((A.sshiftRight pos).toNat : Int) % ((2 ^ len : Nat) : Int) := by
      rw [← h1, BitVec.toInt_eq_toNat_bmod, Int.bmod_def]
      split
      · rw [Int.emod_emod_of_dvd _ hd]
      · rw [Int.sub_emod, Int.emod_emod_of_dvd _ hd, Int.emod_eq_zero_of_dvd hd]; simp
    rw [h2]; norm_cast
  have hfb (k : Nat) (hk : k < len) : ((A.sshiftRight pos).toNat % 2 ^ len).testBit k
      = if pos + k < 32 then a.getLsbD (pos + k) else (decide (ty = 1) && a.getLsbD 31) := by
    rw [Nat.testBit_mod_two_pow]
    simp only [hk, decide_true, Bool.true_and]
    have : (A.sshiftRight pos).toNat.testBit k = (A.sshiftRight pos).getLsbD k := rfl
    rw [this, BitVec.getLsbD_sshiftRight]
    have h3 : pos + k < 64 := by omega
    have h4 : ¬ 64 ≤ k := by omega
    simp only [h4, decide_false, Bool.not_false, Bool.true_and, h3, if_true]
    exact hbitA _ h3
  rw [← hA, hf]
  have hflt : (A.sshiftRight pos).toNat % 2 ^ len < 2 ^ len := Nat.mod_lt _ (by positivity)
  generalize (A.sshiftRight pos).toNat % 2 ^ len = f at hfb hflt
  by_cases ht : ty = 1
  · simp only [ht, decide_true, if_true, Bool.true_and] at hfb ⊢
    have hs : sext len f = (BitVec.ofNat len f).toInt := by
      rw [← sext_toNat _ (by omega), BitVec.toNat_ofNat, Nat.mod_eq_of_lt hflt]
    rw [hs, ofInt_toInt_signExtend, BitVec.getLsbD_signExtend]
    simp only [hj, decide_true, Bool.true_and]
    by_cases hjl : j < len
    · simp only [hjl, if_true, BitVec.getLsbD_ofNat, decide_true, Bool.true_and]
      exact hfb j hjl
    · simp only [hjl, if_false]
      rw [BitVec.msb_eq_getLsbD_last, BitVec.getLsbD_ofNat]
      have h5 : len - 1 < len := by omega
      have h6 : 0 < len := by omega
      have h7 : pos + (len - 1) = pos + len - 1 := by omega
      simp only [h5, h6, decide_true, Bool.true_and, hfb (len - 1) h5, h7]
  · simp only [ht, decide_false, Bool.false_eq_true, if_false, Bool.false_and] at hfb ⊢
    rw [BitVec.ofInt_natCast, BitVec.getLsbD_ofNat]
    simp only [hj, decide_true, Bool.true_and]
    by_cases hjl : j < len
    · simp only [hjl, if_true]; exact hfb j hjl
    · simp only [hjl, if_false]
      apply Nat.testBit_lt_two_pow
      exact lt_of_lt_of_le hflt (Nat.pow_le_pow_right (by norm_num) (by omega))

theorem bfi_bit (a b d : W32) (j : Nat) (hj : j < 32) : (bfi a b d).getLsbD j = bitInsert a b d j := by
  have hpos : (b.extractLsb' 0 5).toNat = b.toNat % 32 := by simp [BitVec.extractLsb'_toNat]
  have hlen : (b.extractLsb' 8 6).toNat = b.toNat / 256 % 64 := by simp [BitVec.extractLsb'_toNat, Nat.shiftRight_eq_div_pow]
  simp only [bitInsert, bfi, hpos, hlen]
  generalize b.toNat % 32 = pos
  generalize min (b.toNat / 256 % 64) 32 = len
  have ho : (BitVec.ofNat 32 ((2 ^ len - 1) * 2 ^ pos)).getLsbD j = decide (pos ≤ j ∧ j < pos + len) := by
    rw [BitVec.getLsbD_ofNat, ← Nat.shiftLeft_eq, Nat.testBit_shiftLeft, Nat.testBit_two_pow_sub_one]
    by_cases h : pos ≤ j
    · simp [hj, h]; omega
    · simp [h]
  rw [BitVec.getLsbD_or, BitVec.getLsbD_and, BitVec.getLsbD_and, BitVec.getLsbD_not, ho, BitVec.getLsbD_shiftLeft]
  by_cases h : pos ≤ j ∧ j < pos + len
  · have : ¬ j < pos := by omega
    simp [h, hj, this]
  · simp [h, hj]

theorem getLsbD_or_shift32 (m : W32) (i l : Nat) (hl : l < 32) : (m ||| (1#32 <<< i)).getLsbD l = (m.getLsbD l || decide (l = i)) := by
  simp only [BitVec.getLsbD_or, BitVec.getLsbD_shiftLeft, hl, decide_true, Bool.true_and]
  by_cases h : l < i
  · simp [h, Nat.ne_of_lt h]
  · by_cases h2 : l = i
    · subst h2; simp
    · have h3 : l - i ≠ 0 := by omega
      simp [h, h2, h3]

theorem getLsbD_mask32 (f : Nat → Bool) (l : Nat) (hl : l < 32) : (mask32 f).getLsbD l = f l := by
  have key : ∀ (n : Nat) (l : Nat), l < 32 →
      ((List.range n).foldl (fun m i => if f i then m ||| (1#32 <<< i) else m) 0#32).getLsbD l = (f l && decide (l < n)) := by
    intro n
    induction n with
    | zero => intro l _; simp
    | succ n ih =>
      intro l hl
      rw [List.range_succ, List.foldl_append]
      simp only [List.foldl_cons, List.foldl_nil]
      split
      · rename_i h
        rw [getLsbD_or_shift32 _ _ _ hl, ih l hl]
        by_cases h2 : l = n
        · subst h2; simp [h]
        · have : (l < n + 1) = (l < n) := by simp; omega
          simp [h2, this]
      · rename_i h
        rw [ih l hl]
        by_cases h2 : l = n
        · subst h2; simp [h]
        · have : (l < n + 1) = (l < n) := by simp; omega
          simp [this]
  have := key 32 l hl
  simpa [mask32, hl] using this

theorem brev_eq (a : W32) : (mask32 fun i => a.getLsbD (31 - i)) = BitVec.ofFnLE fun i : Fin 32 => a.getLsbD (31 - i) := by
  apply BitVec.eq_of_getLsbD_eq; intro i hi
  rw [getLsbD_mask32 _ _ hi, ofFnLE_getLsbD _ _ hi]

theorem clmul_part (ty : BitVec 1) (a b : W32) : (if ty = 1 then (clmul a b >>> 32).setWidth 32 else (clmul a b).setWidth 32)
    = (carryless a b).extractLsb' (if ty = 1 then 32 else 0) 32 := by
  rw [clmul_eq]
  apply BitVec.eq_of_getLsbD_eq; intro i hi
  split <;> simp [hi]

theorem mulh_high (ty : BitVec 1) (a b d : W32) :
    (perElem ty.toNat fun e => iwrap (iwidth ty.toNat) ((fun a b (_ : Int) => a * b / 2 ^ 32) (ival ty.toNat (iwidth ty.toNat) (elem a (iwidth ty.toNat) e))
      (ival ty.toNat (iwidth ty.toNat) (elem b (iwidth ty.toNat) e)) (ival ty.toNat (iwidth ty.toNat) (elem d (iwidth ty.toNat) e))))
      = highProduct ty a b := by
  have h : ty.toNat < 2 := ty.isLt
  have hw : iwidth ty.toNat = 32 := by simp [iwidth, h]
  simp only [perElem, h, hw, if_true, elem_word]
  have hm (p : Int) : iwrap 32 (p / 2 ^ 32) = mulHigh 32 p := by unfold iwrap mulHigh; norm_num
  rw [hm, ival_toNat _ a (by norm_num), ival_toNat _ b (by norm_num)]
  unfold highProduct
  by_cases h1 : ty = 1
  · subst h1
    have e : ¬(BitVec.toNat (1 : BitVec 1) % 2 = 0) := by decide
    rw [if_neg e, if_neg e]
    simp only [if_true]
    have := mulHigh_unsigned a b
    rw [← this]; unfold mulHigh
    congr 1
    have : (a.toNat : Int) * b.toNat / 2 ^ 32 % 2 ^ 32 = ((a.toNat * b.toNat / 2 ^ 32 % 2 ^ 32 : Nat) : Int) := by push_cast; rfl
    rw [this, Int.toNat_natCast, Nat.mod_eq_of_lt]
    have := Nat.mul_lt_mul'' a.isLt b.isLt
    omega
  · have h0 : ty.toNat % 2 = 0 := by
      have : ∀ t : BitVec 1, t ≠ 1 → t.toNat % 2 = 0 := by decide
      exact this ty h1
    simp only [h0, if_true, h1, if_false]
    exact mulHigh_signed a b

/-! ## Completion by form -/

theorem Completes.scalarOp {s : State} {x : Iss} {i : Instr} {sd sa sb : Nat} {wd : BitVec 1} {f : W64 → W64 → W64} {w : W32 → W32 → W32} {v : W64}
    (h : Issues s x i) (hx : exec i s = issue i (fun x => scalarOp x sd sa sb wd f w) s)
    (hv : v = if wd = 1 then (w ((x.s sa).setWidth 32) ((x.s sb).setWidth 32)).signExtend 64 else f (x.s sa) (x.s sb)) :
    Completes i s x { scal := some (x.g.scalNo sd, v) } := by
  subst hv
  exact Completes.scalar h hx rfl

theorem Completes.laneWord {s : State} {x : Iss} {i : Instr} {m vd : Nat} {f : Nat → W32} {f' : Iss → Nat → W32}
    (h : Issues s x i) (hx : exec i s = issue i (fun x => laneWord x m vd (f' x)) s) (hf : ∀ l, f' x l = f l) :
    Completes i s x { dst := x.op 1 vd, ex := x.exec m, val := fun _ l => f l } := by
  have : f' x = f := funext hf
  rw [← this]
  exact Completes.lanes h hx rfl

theorem Completes.laneInt3 {s : State} {x : Iss} {i : Instr} {vd va vb : BitVec 7} {m ty : BitVec 2} {f : Int → Int → Int → Int}
    {f32 : W32 → W32 → W32 → W32} {f16 : W16 → W16 → W16 → W16} {d : Nat → W32}
    (h : Issues s x i) (hx : exec i s = issue i (fun x => laneInt3 x vd.toNat va.toNat vb.toNat m.toNat ty.toNat f) s)
    (h32 : ∀ a b d : W32, BitVec.ofInt 32 (f (ival ty.toNat 32 a.toNat) (ival ty.toNat 32 b.toNat) (ival ty.toNat 32 d.toNat)) = f32 a b d)
    (h16 : ∀ a b d : W16, BitVec.ofInt 16 (f (ival ty.toNat 16 a.toNat) (ival ty.toNat 16 b.toNat) (ival ty.toNat 16 d.toNat)) = f16 a b d)
    (hd : (∀ a b d d', f32 a b d = f32 a b d') ∧ (∀ a b d d', f16 a b d = f16 a b d') ∨ d = x.r vd) :
    Completes i s x { dst := x.op 1 vd.toNat, ex := x.exec m.toNat, val := fun _ l => byType ty f32 f16 (x.r va l) (x.r vb l) (d l) } := by
  refine Completes.laneWord (f' := fun x l => _) h hx fun l => ?_
  rw [perElem_byType ty f f32 f16 h32 h16]
  rcases hd with ⟨h1, h2⟩ | rfl
  · show byType ty f32 f16 (x.r va l) (x.r vb l) (x.r vd l) = _
    unfold byType bothHalves
    rw [h1 _ _ (x.r vd l) (d l), h2 _ _ ((x.r vd l).extractLsb' 16 16) ((d l).extractLsb' 16 16), h2 _ _ ((x.r vd l).extractLsb' 0 16) ((d l).extractLsb' 0 16)]
  · rfl

theorem Completes.laneImm {s : State} {x : Iss} {i : Instr} {vd va imm : BitVec 7} {m ty : BitVec 2} {f : Int → Int → Int}
    {f32 : W32 → W32} {f16 : W16 → W16}
    (h : Issues s x i) (hx : exec i s = issue i (fun x => laneImm x vd.toNat va.toNat m.toNat ty.toNat imm.toInt f) s)
    (h32 : ∀ a : W32, BitVec.ofInt 32 (f (ival ty.toNat 32 a.toNat) imm.toInt) = f32 a)
    (h16 : ∀ a : W16, BitVec.ofInt 16 (f (ival ty.toNat 16 a.toNat) imm.toInt) = f16 a) :
    Completes i s x { dst := x.op 1 vd.toNat, ex := x.exec m.toNat, val := fun _ l => byType ty (fun a _ _ => f32 a) (fun a _ _ => f16 a) (x.r va l) 0 0 } := by
  refine Completes.laneWord (f' := fun x l => _) h hx fun l => ?_
  exact perElem_imm ty f imm f32 f16 h32 h16 _

theorem shiftAmount (b : W32) : (b.extractLsb' 0 5).toNat = b.toNat % 32 := by simp [BitVec.extractLsb'_toNat]

end Sys2Proof.Machine
end

