-- ==== Sys2Proof/Tests/Slice0.lean ====
section
/-! SUPPORT. Tests/Slice0.lean: the model's own tests. Ill-formed terms that the checks refuse; words that the spec writes out, decoded; and
for every obligation with hypotheses a concrete state and operands that meet them together. The states are `place` with a change or two. -/

namespace Sys2Proof.Tests

open Sys2Proof Sys2Proof.Machine

-- One test after the other: a thread for each would ask for more stack than there is.
set_option Elab.async false

/-! ## Well-formedness: one ill-formed term for each check -/

theorem test_wellFormed_refuses_values : ∀ i ∈ ([.clauseHeader 0 0 0 7 0, .vdp4 1 2 3 0 3, .vcmpi 6 1 2 3 0 0, .vcmp 6 1 2 3 0 0, .vfcmp 8 1 2 3 0 0,
    .vcvt 1 2 0x16 0 0, .vvote 1 2 0 3, .vfold 1 2 10 0, .vspec 1 3 0, .ssel 1 2 3 13, .sget 1 0x00B, .sset 1 0x013] : List Instr),
    i.wellFormed = false := by decide +kernel

theorem test_wellFormed_refuses_control : ∀ i ∈ ([.br 13 1, .brm 3 1 1, .tret 3, .ewin 0 64 1, .ewin 0 8 2, .ewin 0 0 3, .vld 2 4 7 0 0 0,
    .vld 2 4 4 3 0 0, .vldPr 2 4 7 0 0, .vst 2 4 1 0 0 0, .vst 2 4 3 0 0 0, .vst 2 4 7 0 0 0, .vst 2 4 4 3 0 0, .vlda 2 4 3 0 0 0, .vlda 2 4 4 3 0 0,
    .vstl 2 4 3 0 0 0, .vstl 2 4 4 3 0 0, .vatomW 2 4 6 12, .satom 1 2 4 12 0 1, .satom 1 2 5 10 0 0, .fence 0, .fenceAcq 0, .fenceRel 0,
    .fenceHv 0, .cpy 4 5 6 0 0 0 1 0 0 0, .cpy 4 5 6 0 1 1 0 0 0 0, .cpy 4 5 6 0 1 0 0 1 0 0, .cpy 4 5 7 0 1 0 0 0 0 0] : List Instr),
    i.wellFormed = false := by decide +kernel

theorem test_wellFormed_refuses_steps : ∀ i ∈ ([.issueSelection 192 0, .issueSelection 0 4, .temperatureReport 192 0 0, .debugHaltRequest 1 192 0,
    .debugHaltRequest 64 0 0, .debugHaltComplete 192, .debugResume 1 192 0, .debugResume 64 0 0, .paddockLend 16 1, .paddockLend 0 0,
    .paddockRecall 16, .sliceBegin 16 1, .sliceBegin 0 64, .sliceEnd 16, .tenancyCreate 0 ⟨1, 0, 0, 0, 0, 0, 0, 0⟩,
    .tenancyCreate 1 ⟨1, 0, 0, 0, 0, 65, 0, 0⟩, .tenancyCreate 1 ⟨1, 257, 0, 0, 0, 0, 0, 0⟩, .measurementExtend 3 0, .measurementExtend 16 0,
    .layoutBankWrite []] : List Instr), i.wellFormed = false := by decide +kernel

/-! ## Decoding: words from the worked encodings of the spec -/

/-- The decoder reads the instruction from the word, and the encoder gives the word back. -/
def reads (e : W32 × Instr) : Bool := (decodeWord e.1).toOption = some e.2 && encode e.2 = some e.1

/-- R67, R71, R75 to R78, R79 to R84, R86 to R92: worked words of the lane engine. -/
theorem test_decode_lane : (([(0x02102860, .vadd 4 5 6 0 0), (0x041C3825, .vsub 7 7 2 1 1), (0x26143001, .vclz 5 6 0), (0x2E0C1FF0, .vaddi 3 3 0x7F 0 0),
    (0x3627FFE0, .vli 9 0x3FFE 0), (0x38482000, .vcmpi 2 2 4 0 0 0), (0x46284090, .vfma 10 8 9 0 0), (0x52182051, .vfdiv 6 4 5 0 0 1),
    (0x50081810, .vfrsq 2 3 0 0), (0x60080821, .vcvt 2 1 2 0 1), (0x64080810, .vshfli 2 1 0 1 0 0), (0x68101800, .vfold 4 3 0 0),
    (0x6E1C1850, .vgetl 7 3 0 5)] : List (W32 × Instr)).all reads) = true := by decide +kernel

/-- R93, R94, R117 to R123: worked words of masks and scalars. -/
theorem test_decode_scalar : (([(0x70053000, .mand 1 2 3), (0x72445000, .mpop 1 5), (0x8028C380, .sadd 5 6 7 0), (0x8028C381, .sadd 5 6 7 1),
    (0x841060FF, .sandi 2 3 0xFF), (0x8C30C043, .sshri 6 6 1 3), (0x8E201678, .sli 4 0x1678), (0x902091A2, .slui 4 0x91A2),
    (0x92006015, .scmpi 3 10), (0x92006200, .scmp 3 4), (0x94412506, .ssel 8 9 10 3), (0x96200060, .sget 4 0x030), (0x96012063, .sset 9 0x031),
    (0x98516604, .sdiv 10 11 12 2 0)] : List (W32 × Instr)).all reads) = true := by decide +kernel

/-- R124 to R133, R137, R139, R153: worked words of control, and a clause header (R17). -/
theorem test_decode_control : (([(0xFEF00005, .clauseHeader 15 0 0 0 5), (0xA02FFFFB, .br 2 0xFFFFB), (0xA2900003, .brm 1 1 3), (0xA4200007, .calli 7),
    (0xA4300000, .ret), (0xA6000005, .mark 5), (0xA6100000, .join), (0xA8100004, .split 1 4), (0xA8800000, .regang), (0xAC000003, .barsync 3),
    (0xAC100003, .bararr 3), (0xAC200003, .barwait 3), (0xAC300000, .yield), (0xAC500000, .exit), (0xAC700000, .nop), (0xAC400011, .waitSb 0x11),
    (0xAC420000, .waitDet), (0xAC440001, .waitOpc 1), (0xAC460000, .waitMat 0), (0xAC480002, .waitBatch 2), (0xAC600463, .setfmt 0x463),
    (0xAC680009, .setfmtScalar 9), (0xAE1A8000, .launch 3 20), (0xAE206002, .lwait 4 3), (0xB0000012, .trap 0x12), (0xB0080001, .brk 1),
    (0xB0100001, .tret 1), (0xB0280000, .fbar), (0xB0180000, .eret 0), (0xB0180001, .eret 1), (0xB0221400, .ewin 1 5 0)] :
    List (W32 × Instr)).all reads) = true := by decide +kernel

/-- R183 to R194: worked words of memory. -/
theorem test_decode_memory : (([(0xB4203440, .vld 8 6 4 1 0 0), (0xB4281590, .vld 10 2 5 2 4 0), (0xB60C3242, .vst 3 6 2 1 0 2),
    (0xB42424C1, .vldPr 9 4 4 0 1), (0xB8101540, .vlda 4 2 5 1 0 0), (0xBA141440, .vstl 5 2 4 1 0 0), (0xBC288011, .sld 5 4 8 1),
    (0xBE308008, .sst 6 4 4 0), (0xC0388002, .clock 7 4), (0xC0008001, .pref 4 1), (0xC0008008, .cwb 4), (0xC21C1050, .vatom 7 2 5 0),
    (0xC3FC106C, .vatom 127 2 6 12), (0xC42010AA, .vatomAr 8 2 10 10), (0xC63010E3, .vatomW 12 2 14 3), (0xC828835E, .satom 5 4 6 11 3 0),
    (0xC8288301, .satom 5 4 6 0 0 1), (0xCA000008, .fence 2), (0xCA000030, .fenceLt), (0xCA000050, .mofence)] :
    List (W32 × Instr)).all reads) = true := by decide +kernel

/-- R236, R237, R243, R245, R249 to R263, R283, R286, R327 to R330: worked words of the matrix engine, copies, PACE and frames. -/
theorem test_decode_units : (([(0xCC80425F, .mma 32 8 9 1 15), (0xCD008260, .mmaR 64 16 9 0 0), (0xCE804243, .mms 32 8 9 0 3), (0xD000850F, .wbload 4 5 15),
    (0xD0008610, .spload 4 6 0), (0xD0008720, .cbload 4 7 0), (0xD0008530, .zpload 4 5 0), (0xD0000040, .mzero 0),
    (0xD2429900, .cpy 4 5 6 2 0 0 0 0 0 0), (0xD2429820, .cpy 4 5 6 0 0 1 0 0 0 0), (0xD284A818, .cpy 8 9 10 0 0 0 1 1 0 0), (0xD4000000, .cseal),
    (0xD420000C, .sqinit 12), (0xD430030D, .sqwait 12 13), (0xD440030D, .sqrel 12 13), (0xD6000000, .pdone), (0xD601C002, .pwait 14),
    (0xD628C004, .pfin 5 6), (0xD8201580, .ldp 8 2 22 0 0), (0xD830227D, .ldp 12 4 9 15 1), (0xDA408280, .fretype 8 4 5), (0xDA408002, .finfo 8 4),
    (0xDA308284, .fharvest 6 4 5), (0xDA18E006, .fresume 3 7)] : List (W32 × Instr)).all reads) = true := by decide +kernel

/-! ## States that meet the hypotheses of the obligations -/

/-- The state right after reset with an instruction's word where the next step takes it. -/
def place (i : Instr) : State := State.reset.withFetchWord 32 ((encode i).getD 0).toNat

def onG (f : Group → Group) (s : State) : State := { s with groups := s.groups.map f }
def onT (f : Team → Team) (s : State) : State := { s with teams := s.teams.map f }
def onL (f : Launch → Launch) (s : State) : State := { s with launches := s.launches.map f }
def onQ (f : QSet → QSet) : State → State := onG fun g => { g with qsets := g.qsets.map f }

/-- Scalars, lane registers and the condition flags of the group. -/
def scal (l : List (Nat × W64)) : State → State := onG fun g => { g with regs := { g.regs with scal := l } }

/-- The first line of code of the context, every word of which is `w`. -/
def code (w : W32) (s : State) : State :=
  s.modCore 0 fun c => { c with ic := [⟨4, 0, 0, lineOf fun i => w.extractLsb' (8 * (i % 4)) 8⟩] }

/-- A clause header, and a word that is none. -/
def hdr : W32 := 0xFEF00000
def noHdr : W32 := 0xAC700000

/-- What the issuing quad-set meets, looked at by evaluation. -/
theorem meets {s : State} {i : Instr} {p : Iss → Prop} [DecidablePred p]
    (h : (match s.iss with | some x => decide (Issues s x i ∧ p x) | none => false) = true) : ∃ x, Issues s x i ∧ p x := by
  split at h
  · exact ⟨_, of_decide_eq_true h⟩
  · cases h

/-- The same for every instruction of a list, each in a state of its own. -/
theorem meets_all {L : List Instr} {f : Instr → State} {p : Instr → Iss → Prop} [∀ i, DecidablePred (p i)]
    (h : (L.all fun i => match (f i).iss with | some x => decide (Issues (f i) x i ∧ p i x) | none => false) = true) :
    ∀ i ∈ L, ∃ x, Issues (f i) x i ∧ p i x := fun i hi => meets (List.all_eq_true.mp h i hi)

/-! ### Registers alone -/

/-- ScalarInstructions, the table of R117, and its other two clauses. -/
theorem witness_scalar : ∀ i ∈ ([.sadd 1 2 3 0, .ssub 1 2 3 1, .smul 1 2 3 0, .smulh 1 2 3 0, .smulhu 1 2 3 1, .sand 1 2 3 0, .sor 1 2 3 0, .sxor 1 2 3 0,
    .sandn 1 2 3 0, .sshl 1 2 3 0, .sshr 1 2 3 0, .ssra 1 2 3 0, .smin 1 2 3 0, .smax 1 2 3 0, .sminu 1 2 3 0, .smaxu 1 2 3 0, .spopc 1 2 0,
    .sclz 1 2 0, .smov 1 2 0, .sbfx 1 2 3 0] : List Instr), ∃ x, Issues (place i) x i ∧ (scalarFn 64 6 i).isSome ∧ (scalarFn 32 5 i).isSome :=
  meets_all (by decide +kernel)

theorem witness_scalar_immediate : ∀ i ∈ ([.saddi 1 2 3, .sandi 1 2 3, .sori 1 2 3, .sxori 1 2 3, .sshli 1 2 63, .sshri 1 2 1 63, .sli 1 0x7FFFF, .slui 1 2,
    .ssel 1 2 3 12] : List Instr), ∃ x, Issues (place i) x i ∧ (scalarImmediate i).isSome := meets_all (by decide +kernel)

/-- The first and the last operation of the scalar words, with a bit of width set in a word that reads it. -/
theorem witness_scalar_words : ([0x80083080#32, 0x80083081#32, 0x94041002#32].all fun w =>
      decide (0x40 ≤ (w.extractLsb' 25 7).toNat ∧ (w.extractLsb' 25 7).toNat ≤ 0x4A)) = true
    ∧ decodeWord 0x80083081 = .ok (.sadd 1 1 33 1) ∧ (0xD4000001#32).extractLsb' 20 12 = 0xD40 := by decide +kernel

theorem witness_scalar_compare : ∀ i ∈ ([.scmp 1 2, .scmpi 1 0xFFF] : List Instr), ∃ x, Issues (place i) x i ∧ True := meets_all (by decide +kernel)

/-- LaneInteger. -/
theorem witness_lane_integer : ∀ i ∈ ([.vadd 4 5 6 0 3, .vsub 4 5 6 1 0, .vmul 4 5 6 0 0, .vmulh 4 5 6 0 1, .vmad 4 5 6 0 0, .vand 4 5 6 0, .vor 4 5 6 0,
    .vxor 4 5 6 0, .vandn 4 5 6 0, .vshl 4 5 6 0, .vshr 4 5 6 0 1, .vmin 4 5 6 0 0, .vmax 4 5 6 0 1, .vabsd 4 5 6 0 0, .vsel 4 5 6 1, .vpopc 4 5 0,
    .vclz 4 5 0, .vbrev 4 5 0, .vneg 4 5 0, .vdp4 4 5 6 0 2, .vclmul 4 5 6 0 1, .vmov 4 5 0, .vaddi 4 5 6 0 0, .vmuli 4 5 6 0 0, .vshli 4 5 6 0,
    .vshri 4 5 6 0 0, .vandi 4 5 6 0, .vli 4 5 0] : List Instr), ∃ x, Issues (place i) x i ∧ (intLane i).isSome := meets_all (by decide +kernel)

/-- FieldsAndCarry, with m0 and another mask for the carry; LaneCompare; FloatInstructions; Conversion. -/
theorem witness_lane_more : ∀ i ∈ ([.vbfx 4 5 6 0 1, .vbfi 4 5 6 0, .vaddc 4 5 6 0, .vaddc 4 5 6 3, .vcmp 5 1 4 5 0 0, .vcmpi 0 1 4 5 0 2, .vfclass 4 6 0 1,
    .vfcmp 7 1 4 6 0 1, .vcvt 8 4 0x3A 0 3, .vcvt 2 4 0x00 0 0] : List Instr), ∃ x, Issues (place i) x i ∧ True := meets_all (by decide +kernel)

theorem witness_float : ∀ i ∈ ([.vfadd 4 6 8 0 1, .vfsub 4 6 8 0 0, .vfmul 4 6 8 0 2, .vfma 4 6 8 0 3, .vfms 4 6 8 0 0, .vfnma 4 6 8 0 0, .vfmin 4 6 8 0 0,
    .vfmax 4 6 8 0 0, .vfscale 4 6 8 0 0, .vfrcp 4 6 0 0, .vfrsq 4 6 0 0, .vfsqrt 4 6 0 0, .vfexp2 4 6 0 0, .vflog2 4 6 0 0, .vfsin 4 6 0 0,
    .vfcos 4 6 0 0, .vfabs 4 6 0 0, .vfneg 4 6 0 0, .vfrndN 4 6 0 0, .vfrndZ 4 6 0 0, .vfrndD 4 6 0 0, .vfrndU 4 6 0 0, .vffrc 4 6 0 0] : List Instr),
    ∃ x, Issues (place i) x i ∧ (floatLane i).isSome := meets_all (by decide +kernel)

/-- NanRules: a quiet and a signalling NaN of F32, a number, and the two zeros. -/
theorem witness_nan : fF32.isNan 0x7FC00000 ∧ fF32.isNan 0x7F800001 ∧ 0x7F800001 / 2 ^ (fF32.mb - 1) % 2 = 0 ∧ ¬fF32.isNan 0x3F800000
    ∧ ¬fF32.isNan 0x80000000 ∧ ¬fF32.isNan 0 := by
  unfold FFmt.isNan; decide +kernel

/-- Shuffle, both forms; Reductions; Masks. -/
theorem witness_shuffle : ∀ i ∈ ([.vshfl 4 5 0 6 0 0, .vshfl 4 5 1 6 1 3, .vshfli 4 5 0 1 0 0, .vshfli 4 5 1 1 2 3] : List Instr),
    ∃ x, Issues (place i) x i ∧ x.l.kernel.compat16 = false := meets_all (by decide +kernel)

theorem witness_reduce : ∀ i ∈ ([.vvote 4 5 0 2, .vfold 4 5 0 0, .vfold 4 5 9 1, .vscan 4 5 0 1, .vscan 4 5 0 0, .mand 1 2 3, .mor 1 2 3, .mxor 1 2 3,
    .mandn 1 2 3, .mnot 1 2, .mmov 1 2] : List Instr), ∃ x, Issues (place i) x i ∧ True := meets_all (by decide +kernel)

/-- LaneAccess: the lane named by number, and by a scalar; Masks, the transfers. -/
theorem witness_lane_access : ∀ i ∈ ([.vbcast 4 5 0, .vspec 4 2 0, .vgetl 7 3 0 5, .vgetl 7 3 1 5, .vputl 3 7 0 63] : List Instr),
    ∃ x, Issues (place i) x i ∧ x.op 1 3 = [.lane 3] ∧ x.g.width ≤ 64 := meets_all (by decide +kernel)

theorem witness_mask_transfers : ∀ i ∈ ([.mget 1 2, .mset 1 2, .mpop 1 2, .mffs 1 2] : List Instr),
    ∃ x, Issues (place i) x i ∧ x.g.trap.mode = none ∧ x.l.kernel.compat16 = false := meets_all (by decide +kernel)

/-- OperandReads, outside and in trap mode; SpecialRead, with and without a pacer's register. -/
theorem witness_operand_reads : ∃ x, Issues (place (.nop)) x .nop ∧ x.g.hlevel = 0 ∧ x.g.busy = [] := meets (by decide +kernel)

theorem witness_special_read : ∀ i ∈ ([.sget 1 0x000, .sget 1 0x030, .sget 1 0x063, .sget 1 0x018, .sget 1 0x101] : List Instr),
    ∃ x, Issues (place i) x i ∧ x.t.pacer.isSome := meets_all (by decide +kernel)

/-! ### Control -/

/-- BranchAndCall: taken to a header, taken elsewhere, not taken. -/
theorem witness_br_taken : ∃ x, Issues (code hdr (place (.br 0 5))) x (.br 0 5) ∧ condHolds x.g.regs.cc 0 = true
    ∧ IsHeader (code hdr (place (.br 0 5))) x 36 := meets (p := fun x => condHolds x.g.regs.cc 0 = true
      ∧ ((code hdr (place (.br 0 5))).prep x).headerAt x.t.core x.l.cid 36 = true) (by decide +kernel)

theorem witness_br_no_header : ∃ x, Issues (code noHdr (place (.br 0 5))) x (.br 0 5) ∧ condHolds x.g.regs.cc 0 = true
    ∧ ¬IsHeader (code noHdr (place (.br 0 5))) x 36 := meets (p := fun x => condHolds x.g.regs.cc 0 = true
      ∧ ¬((code noHdr (place (.br 0 5))).prep x).headerAt x.t.core x.l.cid 36 = true) (by decide +kernel)

theorem witness_br_not_taken : ∃ x, Issues (place (.br 1 5)) x (.br 1 5) ∧ ¬condHolds x.g.regs.cc 1 = true := meets (by decide +kernel)

theorem witness_brm : (∃ x, Issues (place (.brm 0 1 5)) x (.brm 0 1 5) ∧ ∀ l, l < 64 → ¬bit (x.exec 1) l = true)
    ∧ (∃ x, Issues (place (.brm 1 0 5)) x (.brm 1 0 5) ∧ ∃ l, l < 64 ∧ bit (x.exec 0) l = true)
    ∧ (∃ x, Issues (place (.brm 2 1 5)) x (.brm 2 1 5) ∧ ¬∀ l, l < 64 → (bit (x.exec 0) l = true ↔ bit (x.exec 1) l = true)) :=
  ⟨meets (by decide +kernel), meets (by decide +kernel), meets (by decide +kernel)⟩

theorem witness_call : (∃ x, Issues (place (.call 5)) x (.call 5) ∧ x.g.retstack.length < 256 ∧ x.q.clause.isSome)
    ∧ (∃ x, Issues (place (.calli 7)) x (.calli 7) ∧ x.s 7 = 0)
    ∧ (∃ x, Issues (onG (fun g => { g with retstack := List.replicate 256 ⟨0, 0⟩ }) (place (.call 5))) x (.call 5) ∧ 256 ≤ x.g.retstack.length) :=
  ⟨meets (by decide +kernel), meets (by decide +kernel), meets (by decide +kernel)⟩

theorem witness_ret : (∃ x, Issues (place .ret) x .ret ∧ x.g.retstack = [])
    ∧ ∃ x, Issues (onG (fun g => { g with retstack := [⟨20, 0xFF⟩] }) (place .ret)) x .ret ∧ x.g.retstack = [⟨20, 0xFF⟩] ∧ x.q.quads = 0xFF :=
  ⟨meets (by decide +kernel), meets (by decide +kernel)⟩

/-- SplitAndRegang: MARK with and without room; SPLIT with none, some and all of the quads departing. -/
theorem witness_mark : (∃ x, Issues (place (.mark 5)) x (.mark 5) ∧ x.g.rstack.length < 16)
    ∧ ∃ x, Issues (onG (fun g => { g with rstack := List.replicate 16 ⟨0, 0, 0, 0⟩ }) (place (.mark 5))) x (.mark 5) ∧ 16 ≤ x.g.rstack.length :=
  ⟨meets (by decide +kernel), meets (by decide +kernel)⟩

theorem witness_split : ∃ x, Issues (onG (fun g => { g with regs := { g.regs with masks := [(1, 0x10)] } }) (place (.split 1 4))) x (.split 1 4)
    ∧ (∀ k, k < 16 → ((2 : W16).getLsbD k = true ↔ x.q.quads.getLsbD k = true ∧ ∃ l, l < 64 ∧ l / 4 = k ∧ l < x.g.width
      ∧ bit x.g.regs.live l = true ∧ bit x.g.regs.dead l = false ∧ bit (x.g.rdMask x.free 1) l = true)) := meets (by decide +kernel)

/-- A second quad-set of the group. -/
def second (h : Option Hold) (pc : W64) (g : Group) : Group :=
  { g with qsets := g.qsets.map (fun q => { q with quads := 0x0F }) ++ [⟨1, 0xF0, pc, 0, none, h⟩] }

theorem witness_regang : (∃ x, Issues (onG (second none 0) (place .regang)) x .regang ∧ x.g.rstack = [] ∧ ∃ p ∈ x.g.qsets, p.tag ≠ x.q.tag ∧ p.hold = none)
    ∧ ∃ x, Issues (onG (second (some ⟨.regang, true, 9, 0, []⟩) 16) (place .regang)) x .regang ∧ x.g.rstack = []
      ∧ (∀ p ∈ x.g.qsets, p.tag = x.q.tag ∨ p.pc = x.q.pc ∧ p.hold = some ⟨.regang, true, 9, 0, []⟩)
      ∧ ∀ p ∈ x.g.qsets, p.tag = x.q.tag → p = x.q := ⟨meets (by decide +kernel), meets (by decide +kernel)⟩

/-- Join: without an entry, in another clause, before the last partner, as the last. -/
theorem witness_join : (∃ x, Issues (place .join) x .join ∧ x.g.rstack = [])
    ∧ (∃ x, Issues (onG (fun g => { g with rstack := [⟨64, 0xFF, 0, 0⟩] }) (place .join)) x .join ∧ x.q.clause.map (·.hdr) ≠ some 64)
    ∧ (∃ x, Issues (onG (fun g => { second none 0 g with rstack := [⟨16, 0xFF, 0, 0⟩] }) (place .join)) x .join
      ∧ x.q.clause.map (·.hdr) = some 16 ∧ x.g.running = 0xFF ∧ x.q.quads = 0x0F)
    ∧ ∃ x, Issues (onG (fun g => { g with rstack := [⟨16, 0xFF, 0, 0⟩] }) (place .join)) x .join ∧ x.q.clause.map (·.hdr) = some 16
      ∧ x.g.running = 0xFF ∧ x.q.quads = 0xFF ∧ ∀ p ∈ x.g.qsets, p.tag = x.q.tag :=
  ⟨meets (by decide +kernel), meets (by decide +kernel), meets (by decide +kernel), meets (by decide +kernel)⟩

/-- ItemLoop: with items for the lanes, and with none and no lane live. -/
theorem witness_item_loop : (∃ x, Issues (onL (fun l => { l with ranges := [(5, 40)] }) (onG (fun g => { g with regs := { g.regs with live := 0 } })
      (place (.ihead 5)))) x (.ihead 5) ∧ x.l.itemsLeft = 40 ∧ x.g.regs.live = 0)
    ∧ (∃ x, Issues (onG (fun g => { g with regs := { g.regs with live := 0 } }) (place (.ihead 5))) x (.ihead 5) ∧ x.l.itemsLeft = 0 ∧ x.g.regs.live = 0)
    ∧ ∃ x, Issues (place (.idone 0)) x (.idone 0) ∧ x.exec 0 ≠ 0 :=
  ⟨meets (by decide +kernel), meets (by decide +kernel), meets (by decide +kernel)⟩

/-- A second group of the team, and an instruction in flight. -/
def pair (s : State) : State := { s with groups := s.groups ++ s.groups.map fun g => { g with ref := 99, gix := 1 } }
def fl (i : Instr) : Flight :=
  ⟨0, i, 16, 0, 0xFF, 0xFFFFFFFF, 0, 15, 0, 1, [], 0, [], [], .lane, 0, 0, false, 0, 0, none, 0, none, 0, 0, 0, false, []⟩
def flying (i : Instr) : State → State := onG fun g => { g with flights := [fl i] }
def inTrap : State → State := onG fun g => { g with trap := { g.trap with mode := some ⟨0, ⟨16, 0, none⟩, none, true, [], none⟩ } }
def emuLevel (n : Nat) : State → State := onG fun g => { g with emu := { g.emu with level := n } }
def handlers (s : State) : State := s.modCtx 4 fun c => { c with trh := 64, eha := 64 }
def feats (w : W64) : State → State := onL fun l => { l with feat := w }

/-- Barriers: the last arrival, an arrival before it, and BARWAIT without one open, with one of another generation, and with one open. -/
theorem witness_barrier_last : ∀ i ∈ ([.barsync 3, .bararr 3] : List Instr), ∃ x, Issues (place i) x i ∧ x.q.hold = none
    ∧ x.q.quads &&& tget 0 (x.t.bar 3).quads x.g.gix = 0 ∧ x.g.running = x.q.quads ∧ x.g.run = .run ∧ x.g.running ≠ 0 ∧ x.g.gix < 32
    ∧ (x.t.bar 3).arrived.getLsbD x.g.gix = false ∧ x.g.unfinished = [] ∧ ((place i).groupsOf x.t.ref).length = 1 :=
  meets_all (by decide +kernel)

theorem witness_barrier_early : ∃ x, Issues (pair (place (.barsync 3))) x (.barsync 3) ∧ x.q.hold = none
    ∧ x.q.quads &&& tget 0 (x.t.bar 3).quads x.g.gix = 0 ∧ ∃ k ∈ (pair (place (.barsync 3))).groups, k.ref ≠ x.g.ref ∧ k.gix ≠ x.g.gix
      ∧ k.run ≠ .retired ∧ (x.t.bar 3).arrived.getLsbD k.gix = false ∧ k.running = 0xFF ∧ tget 0 (x.t.bar 3).quads k.gix = 0 :=
  meets (by decide +kernel)

theorem witness_barwait : (∃ x, Issues (place (.barwait 3)) x (.barwait 3) ∧ (x.t.bar 3).arrived.getLsbD x.g.gix = false)
    ∧ (∃ x, Issues (onT (fun t => { t with bars := [(3, ⟨1, 7, 1, [], [(0, 6)], []⟩)] }) (place (.barwait 3))) x (.barwait 3)
      ∧ (x.t.bar 3).gen ≠ (tget 0 (x.t.bar 3).last x.g.gix).toNat)
    ∧ ∃ x, Issues (onT (fun t => { t with bars := [(3, ⟨1, 7, 1, [], [(0, 7)], []⟩)] }) (place (.barwait 3))) x (.barwait 3)
      ∧ (x.t.bar 3).arrived.getLsbD x.g.gix = true ∧ (x.t.bar 3).gen = (tget 0 (x.t.bar 3).last x.g.gix).toNat :=
  ⟨meets (by decide +kernel), meets (by decide +kernel), meets (by decide +kernel)⟩

/-- WaitInstructions: with nothing in flight, and with a detached load in SB1. -/
theorem witness_waits : ∀ i ∈ ([.waitSb 1, .waitDet, .waitOpc 0, .waitMat 0, .waitBatch 0, .nop, .yield] : List Instr),
    ∃ x, Issues (place i) x i ∧ x.g.flights = [] ∧ x.g.batch.sealed = [] ∧ x.g.preq = false := meets_all (by decide +kernel)

theorem witness_waits_held : (∃ x, Issues (flying (.vld 2 4 4 0 15 0) (place (.waitSb 1))) x (.waitSb 1) ∧ ∃ f ∈ x.g.flights, f.slot = 1 ∧ f.look = 15)
    ∧ ∃ x, Issues (onG (fun g => { g with preq := true }) (place .yield)) x .yield ∧ x.g.preq = true ∧ x.g.run = .run ∧ x.g.yields = true :=
  ⟨meets (by decide +kernel), meets (by decide +kernel)⟩

theorem witness_header : (∃ x, Issues (place (.clauseHeader 15 0 0 0 0)) x (.clauseHeader 15 0 0 0 0) ∧ x.g.preq = false)
    ∧ ∃ x, Issues (flying (.vld 2 4 4 0 15 0) (place (.clauseHeader 15 3 0 0 0))) x (.clauseHeader 15 3 0 0 0) ∧ ∃ f ∈ x.g.flights, f.look = 15 :=
  ⟨meets (by decide +kernel), meets (by decide +kernel)⟩

/-- ExitGroup: in flight, one of two quad-sets, the last, the last with a batch unfinished. -/
theorem witness_exit : (∃ x, Issues (flying (.vld 2 4 4 0 15 0) (place .exit)) x .exit ∧ x.g.flights ≠ [])
    ∧ (∃ x, Issues (onG (second none 16) (place .exit)) x .exit ∧ x.g.flights = [] ∧ x.exitsAll = false)
    ∧ (∃ x, Issues (place .exit) x .exit ∧ x.g.flights = [] ∧ x.exitsAll = true ∧ x.g.batch.openHas = false ∧ x.g.batch.sealed = [] ∧ x.t.state = .running)
    ∧ ∃ x, Issues (onG (fun g => { g with batch := { g.batch with sealed := [⟨0, [1]⟩] } }) (place .exit)) x .exit ∧ x.g.flights = []
      ∧ x.exitsAll = true ∧ x.g.batch.sealed ≠ [] ∧ x.g.batch.openHas = false :=
  ⟨meets (by decide +kernel), meets (by decide +kernel), meets (by decide +kernel), meets (by decide +kernel)⟩

/-- RegisterWrites: every register that SSET writes; the range registers of a context that is no runtime context, and of one that is. -/
theorem witness_register_writes : ∀ i ∈ ([.setfmt 0x463, .setfmtScalar 9, .sset 9 0x010, .sset 9 0x011, .sset 9 0x012, .sset 9 0x029, .sset 9 0x031,
    .sset 9 0x060, .sset 9 0x061, .sset 9 0x063, .sset 9 0x100, .sset 9 0x13F] : List Instr),
    ∃ x, Issues (place i) x i ∧ ((place i).ctx x.l.cid).rt = false := meets_all (by decide +kernel)

theorem witness_sset_window : ∃ x, Issues (emuLevel 1 (place (.sset 9 0x047))) x (.sset 9 0x047) ∧ True := meets (by decide +kernel)

theorem witness_range_writes : ∀ i ∈ ([.sset 9 0x100, .sset 9 0x103] : List Instr), ∃ x, Issues ((place i).modCtx 4 fun c => { c with rt := true }) x i
    ∧ (((place i).modCtx 4 fun c => { c with rt := true }).ctx x.l.cid).rt = true := meets_all (by decide +kernel)

/-- ExitGroup, an open batch: with a copy and without one, alone, behind one that is sealed, behind as many as there may be. -/
def opened (jobs : List Nat) (n : Nat) : State :=
  onG (fun g => { g with batch := { g.batch with openHas := true, openJobs := jobs, sealed := List.replicate n ⟨0, [1]⟩ } }) (place .exit)

theorem witness_exit_open : ∀ e ∈ ([([9], 0), ([], 0), ([9], 14), ([], 1), ([9], 15)] : List (List Nat × Nat)), ∃ x, Issues (opened e.1 e.2) x .exit
    ∧ x.g.flights = [] ∧ x.exitsAll = true ∧ x.g.batch.openHas = true ∧ x.g.batch.openJobs = e.1 ∧ x.g.batch.sealed.length = e.2
    ∧ x.t.state = .running := by
  intro e he
  simp only [List.mem_cons, List.not_mem_nil, or_false] at he
  rcases he with rfl | rfl | rfl | rfl | rfl <;> exact meets (by decide +kernel)

/-- OperandReads: in trap mode, and while an instruction waits that has read s3. -/
theorem witness_operands_held : (∃ x, Issues (inTrap (place .nop)) x .nop ∧ x.g.hlevel = 0 ∧ x.g.busy = [] ∧ x.q.hold = none ∧ x.g.trap.mode.isSome = true)
    ∧ ∃ x, Issues (onQ (fun q => { q with hold := some ⟨.cond, false, 0, 0, [(3, 7)]⟩ }) (place .nop)) x .nop ∧ x.g.hlevel = 0 ∧ x.g.busy = []
      ∧ x.q.hold = some ⟨.cond, false, 0, 0, [(3, 7)]⟩ ∧ [(3, (7 : W64))].find? (fun k => k.1 = 3) = some (3, 7) :=
  ⟨meets (by decide +kernel), meets (by decide +kernel)⟩

/-! ### Exceptions -/

/-- TrapInstructions: the handler entered, and BRKHALT. -/
theorem witness_trap : ∀ i ∈ ([.trap 0x12, .brk 1] : List Instr), ∃ x, Issues (code hdr (handlers (place i))) x i ∧ x.g.trap.mode = none ∧ x.g.flights = []
    ∧ x.g.trap.replay = [] ∧ x.g.trap.shadows = [] ∧ ((code hdr (handlers (place i))).ctx x.l.cid).trh = 64
    ∧ ((code hdr (handlers (place i))).prep x).headerAt x.t.core x.l.cid 64 = true
    ∧ ((code hdr (handlers (place i))).coreOf x.t.core).dbg.brkhalt = false := meets_all (by decide +kernel)

theorem witness_brkhalt : ∃ x, Issues ((place (.brk 1)).modCore 0 fun c => { c with dbg := ⟨false, true, 0⟩ }) x (.brk 1)
    ∧ x.t.core = 0 ∧ (((place (.brk 1)).modCore 0 fun c => { c with dbg := ⟨false, true, 0⟩ }).coreOf 0).dbg.brkhalt = true
    ∧ ((place (.brk 1)).modCore 0 fun c => { c with dbg := ⟨false, true, 0⟩ }).borrowed 0 x.l.tid = false :=
  meets (by decide +kernel)

/-- TrapEntry: in trap mode; with something in flight; without a handler (`witness_trap` has one). -/
theorem witness_raise : (∃ x, Issues (inTrap (place .nop)) x .nop ∧ x.g.trap.mode.isSome = true)
    ∧ (∃ x, Issues (flying (.vld 2 4 4 0 15 0) (place .nop)) x .nop ∧ x.g.trap.mode = none ∧ x.g.flights ≠ [])
    ∧ ∃ x, Issues (place .nop) x .nop ∧ x.g.trap.mode = none ∧ x.g.flights = [] ∧ x.g.trap.replay = [] ∧ x.g.trap.shadows = []
      ∧ ((place .nop).ctx x.l.cid).trh = 0 :=
  ⟨meets (by decide +kernel), meets (by decide +kernel), meets (by decide +kernel)⟩

/-- TrapEntry, the steps: a group with a pending trap, a quad-set whose wait has run out. -/
def pending : State := onG (fun g => { g with trap := { g.trap with pend := some ⟨2, 16, 20, 0, 0, true⟩ } }) (code hdr (handlers (place .nop)))

theorem witness_trap_entry : ∃ g q t l, pending.group? 3 = some g ∧ g.ref = 3 ∧ pending.homeOf g = some (t, l) ∧ g.q? 0 = some q ∧ g.run = .run ∧ g.flights = []
    ∧ g.trap.replay = [] ∧ g.trap.shadows = [] ∧ g.trap.parked = false ∧ g.trap.pend = some ⟨2, 16, 20, 0, 0, true⟩
    ∧ pending.debugHeld t.core = false ∧ g.trap.mode = none ∧ pending.headerAt t.core l.cid (pending.ctx l.cid).trh = true ∧ (pending.ctx l.cid).trh ≠ 0 :=
  have h : (match pending.group? 3 with
    | some g => (match g.q? 0, pending.homeOf g with
      | some _, some (t, l) => decide (g.ref = 3 ∧ g.run = .run ∧ g.flights = [] ∧ g.trap.replay = [] ∧ g.trap.shadows = [] ∧ g.trap.parked = false
        ∧ g.trap.pend = some ⟨2, 16, 20, 0, 0, true⟩ ∧ pending.debugHeld t.core = false ∧ g.trap.mode = none
        ∧ pending.headerAt t.core l.cid (pending.ctx l.cid).trh = true ∧ (pending.ctx l.cid).trh ≠ 0)
      | _, _ => false)
    | none => false) = true := by decide +kernel
  by
    split at h
    · split at h
      · obtain ⟨a, b⟩ := of_decide_eq_true h
        exact ⟨_, _, _, _, ‹_›, a, ‹_›, ‹_›, b⟩
      · cases h
    · cases h

def overdue : State := onQ (fun q => { q with hold := some ⟨.regang, true, 9, 9, []⟩ }) (place .nop)

theorem witness_waitlim : ∃ x h, overdue.issAt x.g.ref x.q.tag = some x ∧ x.g.run = .run ∧ x.g.trap.pend = none ∧ x.g.trap.replay = []
    ∧ x.g.trap.parked = false ∧ overdue.debugHeld x.t.core = false ∧ x.mayRun = true ∧ x.q.hold = some h ∧ h.bounded = true ∧ h.limit ≤ h.count
    ∧ overdue.holdOver x h = false ∧ acceptDue overdue x.g.ref x.q.tag = false := by
  have h : (match overdue.iss with
    | some x => decide (overdue.issAt x.g.ref x.q.tag = some x ∧ x.g.run = .run ∧ x.g.trap.pend = none ∧ x.g.trap.replay = []
      ∧ x.g.trap.parked = false ∧ overdue.debugHeld x.t.core = false ∧ x.mayRun = true ∧ x.q.hold = some ⟨.regang, true, 9, 9, []⟩
      ∧ overdue.holdOver x ⟨.regang, true, 9, 9, []⟩ = false ∧ acceptDue overdue x.g.ref x.q.tag = false)
    | none => false) = true := by decide +kernel
  split at h
  · obtain ⟨a, b, c, d, e, f, g, i, j, k⟩ := of_decide_eq_true h
    exact ⟨_, _, a, b, c, d, e, f, g, i, rfl, by decide, j, k⟩
  · cases h

/-- The team's pacer changed. -/
def pacer (f : Pacer → Pacer) : State → State := onT fun t => { t with pacer := t.pacer.map f }

/-- No store of the group makes its team arrive. -/
def calm (s : State) (t : Team) : Bool := match t.pacer with | some p => !(p.settle (s.groupsOf t.ref)).2 | none => true

theorem calm_spec {s : State} {t : Team} (h : calm s t = true) : PacerStays s t := fun p hp => by simpa [calm, hp] using h

/-- TrapReturn. -/
theorem witness_tret : ∀ i ∈ ([.tret 0, .tret 1, .tret 2] : List Instr), ∃ x, Issues (inTrap (place i)) x i
    ∧ x.g.trap.mode = some ⟨0, ⟨16, 0, none⟩, none, true, [], none⟩ ∧ x.q.tag = 0 ∧ x.g.rstack = []
    ∧ (inTrap (place i)).team? x.g.team = some x.t ∧ PacerStays (inTrap (place i)) x.t := fun i hi => by
  obtain ⟨x, h, a, b, c, d, e⟩ := meets_all (L := [.tret 0, .tret 1, .tret 2]) (f := fun i => inTrap (place i)) (p := fun i x =>
    x.g.trap.mode = some ⟨0, ⟨16, 0, none⟩, none, true, [], none⟩ ∧ x.q.tag = 0 ∧ x.g.rstack = []
    ∧ (inTrap (place i)).team? x.g.team = some x.t ∧ calm (inTrap (place i)) x.t = true) (by decide +kernel) i hi
  exact ⟨x, h, a, b, c, d, calm_spec e⟩

/-- WordRefused: in trap mode, undefined where it stands, a feature group off. EmulationEntry: trap mode, FATAL, in flight, level 2, no handler,
the handler. -/
def looks (s : State) (p : Iss → Bool) : Bool := match s.iss with | some x => p x | none => false

theorem looks_spec {s : State} {p : Iss → Bool} (h : looks s p = true) : ∃ x, s.iss = some x ∧ p x = true := by
  unfold looks at h; split at h
  · exact ⟨_, ‹_›, h⟩
  · cases h

theorem witness_refused_word :
    (∃ x, (inTrap (place (.vadd 4 5 6 0 0))).iss = some x ∧ (x.g.trap.mode.isSome && !trapAllowed (.vadd 4 5 6 0 0)) = true)
    ∧ (∃ x, (place (.vfadd 5 6 8 0 1)).iss = some x ∧ (x.g.trap.mode.isNone && undefHere x (.vfadd 5 6 8 0 1)) = true)
    ∧ ∃ x, (feats 0 (place (.vclmul 4 5 6 0 0))).iss = some x
      ∧ (x.g.trap.mode.isNone && !undefHere x (.vclmul 4 5 6 0 0) && (staticFeats (.vclmul 4 5 6 0 0)).any fun f => !featOn x.l.feat f) = true :=
  ⟨looks_spec (by decide +kernel), looks_spec (by decide +kernel), looks_spec (by decide +kernel)⟩

/-- WordRefused: what trap mode refuses, a feature group of a multicast copy or of an access at sys scope. -/
theorem witness_refused_words : ∀ i ∈ ([.cpy 4 5 6 0 1 0 0 0 0 0, .vlda 8 4 4 2 0 0, .vstl 8 4 4 2 0 0] : List Instr),
    (∃ x, (inTrap (place i)).iss = some x ∧ (x.g.trap.mode.isSome && !trapAllowed i) = true)
    ∧ ∃ x, (feats 0 (place i)).iss = some x ∧ (x.g.trap.mode.isNone && !undefHere x i && decide ((staticFeats i).length = 1)
      && (staticFeats i).all fun f => !featOn x.l.feat f) = true := by
  intro i hi
  simp only [List.mem_cons, List.not_mem_nil, or_false] at hi
  rcases hi with rfl | rfl | rfl <;> exact ⟨looks_spec (by decide +kernel), looks_spec (by decide +kernel)⟩

theorem witness_emulation :
    (∃ x, (feats 0x1000000 (place .nop)).iss = some x ∧ (x.g.trap.mode.isNone && featFatal x.l.feat 8) = true)
    ∧ (∃ x, (flying (.vld 2 4 4 0 15 0) (place .nop)).iss = some x ∧ (!x.g.flights.isEmpty && !featFatal x.l.feat 8) = true)
    ∧ (∃ x, (emuLevel 2 (place .nop)).iss = some x ∧ (x.g.flights.isEmpty && x.g.emu.level = 2) = true)
    ∧ (∃ x, (place .nop).iss = some x ∧ (x.g.emu.level < 2 && ((place .nop).ctx x.l.cid).eha = 0) = true)
    ∧ ∃ x, (code hdr (handlers (place .nop))).iss = some x ∧ (x.g.emu.level < 2 && ((code hdr (handlers (place .nop))).ctx x.l.cid).eha = 64
      && ((code hdr (handlers (place .nop))).prep x).headerAt x.t.core x.l.cid 64) = true :=
  ⟨looks_spec (by decide +kernel), looks_spec (by decide +kernel), looks_spec (by decide +kernel), looks_spec (by decide +kernel),
    looks_spec (by decide +kernel)⟩

/-- EmulationReturn, from both levels. -/
theorem witness_eret : (∃ x, Issues (emuLevel 1 (place (.eret 0))) x (.eret 0) ∧ x.g.flights = [] ∧ x.g.emu.level = 1)
    ∧ (∃ x, Issues (emuLevel 2 (place (.eret 1))) x (.eret 1) ∧ x.g.flights = [] ∧ x.g.emu.level = 2)
    ∧ ∃ x, Issues (emuLevel 1 (place (.ewin 1 5 0))) x (.ewin 1 5 0) ∧ True :=
  ⟨meets (by decide +kernel), meets (by decide +kernel), meets (by decide +kernel)⟩

/-! ### Memory -/

/-- A segment over all addresses, open to reads, writes and fetches; and a lease on all of them. -/
def seg (kind : W64) (s : State) : State :=
  s.modCtx 4 fun c => { c with segs := [(1, 0x0000FFFFFFFF0000), (3, 0x8000000000000007 + (kind <<< 8))] }
def leased : State → State := onL fun l => { l with leases := [⟨false, true, 0, 2 ^ 48⟩] }
/-- Lane 0 alone is live. -/
def lone : State → State := onG fun g => { g with regs := { g.regs with live := 1 } }
/-- Words of lane 0 by register. -/
def lanes (l : List (Nat × W32)) : State → State := onG fun g => { g with regs := { g.regs with lanes := l.map fun e => (64 * e.1, e.2) } }

/-- `Ask.Fails`, as it is computed. -/
def fails (s : State) (x : Iss) (u : AccUse) (size : Nat) (k : Ask) : Nat → Bool
  | 0 => !k.offset && decide (2 ^ 48 ≤ k.addr)
  | 1 => !k.offset && (List.range size).any fun b =>
      x.l.leases.all fun e => !decide (e.base ≤ k.addr + b ∧ k.addr + b < e.base + e.len ∧ (u.writes = true → e.rw = true))
  | 2 => !k.offset && decide ((s.ctx x.l.cid).segOf k.addr = none)
  | 3 => if x.alias k then u.writes else !k.offset && match (s.ctx x.l.cid).segOf k.addr with
    | some n => u.reads && !((s.ctx x.l.cid).seg n 3).getLsbD 0 || u.writes && !((s.ctx x.l.cid).seg n 3).getLsbD 1
    | none => false
  | 4 => match k.target x (s.ctx x.l.cid) with
    | some (.aperture _ o) => decide ((u ≠ .load ∧ u ≠ .store8 ∧ u ≠ .cacheOp) ∨ u ≠ .cacheOp ∧ (s.tenant x.l.tid).channels ≤ o / 4096)
    | _ => false
  | 5 => match k.target x (s.ctx x.l.cid) with
    | some (.spad o) => decide (x.t.spadBytes ≤ o)
    | some (.matrix arr o) => decide (aliasSize arr ≤ o)
    | _ => false
  | _ => decide (k.position s x % size ≠ 0)

theorem fails_iff {s : State} {x : Iss} {u : AccUse} {size : Nat} {k : Ask} (n : Nat) : fails s x u size k n = true ↔ k.Fails s x u size n := by
  rcases n with _ | _ | _ | _ | _ | _ | n
  · simp [fails, Ask.Fails]
  · simp only [fails, Ask.Fails, Bool.and_eq_true, Bool.not_eq_true', List.any_eq_true, List.all_eq_true, List.mem_range, decide_eq_false_iff_not]
  · simp [fails, Ask.Fails]
  · simp only [fails, Ask.Fails]
    split_ifs
    · rfl
    · cases (s.ctx x.l.cid).segOf k.addr <;> simp
  · simp only [fails, Ask.Fails]
    cases h : k.target x (s.ctx x.l.cid) with
    | none => simp
    | some t => cases t <;> simp
  · simp only [fails, Ask.Fails]
    cases h : k.target x (s.ctx x.l.cid) with
    | none => simp
    | some t => cases t <;> simp
  · simp [fails, Ask.Fails]

/-- No check fails. -/
def fine (s : State) (x : Iss) (u : AccUse) (size : Nat) (k : Ask) : Bool := (List.range 7).all fun n => !fails s x u size k n

theorem fine_passes {s : State} {x : Iss} {u : AccUse} {size : Nat} {k : Ask} (h : fine s x u size k = true) :
    ∀ n, n < 7 → ¬k.Fails s x u size n := fun n hn hf => by
  have := List.all_eq_true.mp h n (List.mem_range.mpr hn)
  rw [(fails_iff n).mpr hf] at this; cases this

/-- What a lane instruction's statement asks, looked at by evaluation: some lane executes, each passes every check, and all ask for the same. -/
def lanesFine (s : State) (x : Iss) (i : Instr) : Bool :=
  match laneForm i with
  | some a => x.exec a.m ≠ 0 && (List.range 64).all fun l => !bit (x.exec a.m) l || (fine s x a.use a.size (a.ask x l)
    && decide ((a.ask x l).addr = (a.ask x 0).addr ∧ (a.ask x l).data = (a.ask x 0).data))
  | none => false

theorem bit_small {w : W64} {l : Nat} (h : bit w l = true) : l < 64 := by
  unfold bit at h
  exact BitVec.lt_of_getLsbD h

theorem lanesFine_spec {s : State} {x : Iss} {i : Instr} (h : lanesFine s x i = true) : ∃ a, laneForm i = some a ∧ x.exec a.m ≠ 0
    ∧ (∀ l n, bit (x.exec a.m) l = true → n < 7 → ¬(a.ask x l).Fails s x a.use a.size n) ∧ Uniform s x a.use (a.ask x) (x.exec a.m) := by
  unfold lanesFine at h
  split at h
  · rename_i a ha
    simp only [Bool.and_eq_true, decide_eq_true_eq, List.all_eq_true, List.mem_range] at h
    have hl : ∀ l, bit (x.exec a.m) l = true → fine s x a.use a.size (a.ask x l) = true
        ∧ (a.ask x l).addr = (a.ask x 0).addr ∧ (a.ask x l).data = (a.ask x 0).data := fun l hb => by
      simpa [hb, Bool.and_eq_true] using h.2 l (bit_small hb)
    exact ⟨a, ha, h.1, fun l n hb => fine_passes (hl l hb).1 n, fun _ _ l j h1 h2 =>
      ⟨(hl l h1).2.1.trans (hl j h2).2.1.symm, (hl l h1).2.2.trans (hl j h2).2.2.symm⟩⟩
  · cases h

/-- `meets_all`, the conditions looked at by a function. -/
theorem meets_each {L : List Instr} {f : Instr → State} {p : Instr → Iss → Bool}
    (h : (L.all fun i => looks (f i) fun x => decide (Issues (f i) x i) && p i x) = true) : ∀ i ∈ L, ∃ x, Issues (f i) x i ∧ p i x = true :=
  fun i hi => by
    obtain ⟨x, -, hx⟩ := looks_spec (List.all_eq_true.mp h i hi)
    rw [Bool.and_eq_true, decide_eq_true_eq] at hx
    exact ⟨x, hx⟩

/-- MemoryIssue, with executing lanes: the scratchpad, global memory, an aperture. -/
def LanesPass (s : State) (i : Instr) : Prop := ∃ x a, laneForm i = some a ∧ Issues s x i ∧ SegFeatsOn x ∧ x.exec a.m ≠ 0
  ∧ (∀ l n, bit (x.exec a.m) l = true → n < 7 → ¬(a.ask x l).Fails s x a.use a.size n) ∧ Uniform s x a.use (a.ask x) (x.exec a.m)

theorem lanesPass {L : List Instr} {f : Instr → State} (h : (L.all fun i => looks (f i) fun x => decide (Issues (f i) x i)
    && (featOn x.l.feat 6 && featOn x.l.feat 8 && lanesFine (f i) x i)) = true) : ∀ i ∈ L, LanesPass (f i) i := fun i hi => by
  obtain ⟨x, h1, h2⟩ := meets_each h i hi
  simp only [Bool.and_eq_true] at h2
  obtain ⟨a, ha, he, hn, hu⟩ := lanesFine_spec h2.2
  exact ⟨x, a, ha, h1, h2.1, he, hn, hu⟩

/-- Mask m1 holds every lane. -/
def masked : State → State := onG fun g => { g with regs := { g.regs with masks := [(1, BitVec.allOnes 64)] } }

theorem witness_lane_memory : ∀ i ∈ ([.vld 8 6 4 1 0 0, .vld 10 4 5 0 15 0, .vldPr 8 4 4 0 1, .vst 8 6 2 1 0 0, .vst 8 4 4 0 3 0, .vlda 8 4 4 1 0 0,
    .vstl 8 4 5 1 0 0, .vatom 8 4 6 0, .vatomAr 8 4 6 10, .vatomW 8 4 12 10, .vatom 127 4 6 9] : List Instr),
    LanesPass (masked (leased (seg 0 (place i)))) i := lanesPass (by decide +kernel)

theorem witness_aperture_store : ∀ i ∈ ([.vst 8 4 5 0 0 0] : List Instr), LanesPass (leased (seg 2 (place i))) i := lanesPass (by decide +kernel)

/-- MemoryIssue without an executing lane, and the scalar accesses; PREF with its checks passed, and with one failing. -/
theorem witness_no_lane : ∀ i ∈ ([.vld 8 6 4 1 0 1, .vst 8 4 4 0 3 1] : List Instr), ∃ x, Issues (place i) x i ∧ SegFeatsOn x ∧ x.exec 1 = 0 := meets_all
  (p := fun _ x => (featOn x.l.feat 6 = true ∧ featOn x.l.feat 8 = true) ∧ x.exec 1 = 0) (by decide +kernel)

def scalarFine (s : State) (x : Iss) (i : Instr) : Bool := featOn x.l.feat 6 && featOn x.l.feat 8 &&
  match scalarForm x i with
  | some a => fine s x a.use a.size ⟨0, a.addr.toNat, false, a.data⟩
  | none => match i with
    | .pref sa _ => fine s x .cacheOp 1 ⟨0, (x.s sa.toNat).toNat, false, []⟩
    | _ => false

theorem witness_scalar_memory : ∀ i ∈ ([.sld 5 4 8 1, .sld 0 4 0 0, .sst 6 4 4 0, .sst 6 4 4 1, .satom 5 4 6 10 0 0, .satom 5 4 6 0 0 1, .clock 7 4, .cunlk 4,
    .cinv 4, .cwb 4] : List Instr), ∃ x a, Issues (leased (seg 0 (place i))) x i ∧ SegFeatsOn x ∧ scalarForm x i = some a
      ∧ ∀ n, n < 7 → ¬(Ask.mk 0 a.addr.toNat false a.data).Fails (leased (seg 0 (place i))) x a.use a.size n := fun i hi => by
  obtain ⟨x, h1, h2⟩ := meets_each (f := fun i => leased (seg 0 (place i))) (p := fun i x => scalarFine (leased (seg 0 (place i))) x i
    && (scalarForm x i).isSome) (by decide +kernel) i hi
  simp only [scalarFine, Bool.and_eq_true] at h2
  obtain ⟨a, ha⟩ := Option.isSome_iff_exists.mp h2.2
  rw [ha] at h2
  exact ⟨x, a, h1, h2.1.1, ha, fine_passes h2.1.2⟩

theorem witness_pref : (∃ x, Issues (leased (seg 0 (place (.pref 4 1)))) x (.pref 4 1) ∧ SegFeatsOn x
      ∧ ∀ n, n < 7 → ¬(Ask.mk 0 (x.s 4).toNat false []).Fails (leased (seg 0 (place (.pref 4 1)))) x .cacheOp 1 n)
    ∧ ∃ x, Issues (scal [(4, 2 ^ 48)] (place (.pref 4 0))) x (.pref 4 0)
      ∧ (Ask.mk 0 (x.s 4).toNat false []).Fails (scal [(4, 2 ^ 48)] (place (.pref 4 0))) x .cacheOp 1 0 := by
  refine ⟨?_, meets (p := fun x => false = false ∧ 2 ^ 48 ≤ (x.s 4).toNat) (by decide +kernel)⟩
  obtain ⟨x, h1, h2⟩ := meets_each (L := [.pref 4 1]) (f := fun i => leased (seg 0 (place i)))
    (p := fun i x => scalarFine (leased (seg 0 (place i))) x i) (by decide +kernel) _ (List.mem_singleton.mpr rfl)
  simp only [scalarFine, scalarForm, Bool.and_eq_true] at h2
  exact ⟨x, h1, h2.1, fine_passes h2.2⟩

/-- AccessRefused, a scalar access: each check, none before it failing. -/
def ScalarFails (s : State) (i : Instr) (n : Nat) : Prop := ∃ x a, Issues s x i ∧ SegFeatsOn x ∧ scalarForm x i = some a
  ∧ (Ask.mk 0 a.addr.toNat false a.data).Fails s x a.use a.size n ∧ ∀ c, c < n → ¬(Ask.mk 0 a.addr.toNat false a.data).Fails s x a.use a.size c

theorem scalarFails {s : State} {i : Instr} {n : Nat} (h : (looks s fun x => decide (Issues s x i) && (featOn x.l.feat 6 && featOn x.l.feat 8 &&
    match scalarForm x i with
    | some a => fails s x a.use a.size ⟨0, a.addr.toNat, false, a.data⟩ n
      && (List.range n).all fun c => !fails s x a.use a.size ⟨0, a.addr.toNat, false, a.data⟩ c
    | none => false)) = true) : ScalarFails s i n := by
  obtain ⟨x, -, hx⟩ := looks_spec h
  rw [Bool.and_eq_true, decide_eq_true_eq, Bool.and_eq_true, Bool.and_eq_true] at hx
  obtain ⟨h1, h2, h3⟩ := hx
  split at h3
  · rename_i a ha
    rw [Bool.and_eq_true, List.all_eq_true] at h3
    refine ⟨x, a, h1, h2, ha, (fails_iff n).mp h3.1, fun c hc hf => ?_⟩
    have := h3.2 c (List.mem_range.mpr hc)
    rw [(fails_iff c).mpr hf] at this; cases this
  · cases h3

/-- The segment without permissions. -/
def closed (s : State) : State := s.modCtx 4 fun c => { c with segs := [(1, 0x0000FFFFFFFF0000), (3, 0x8000000000000000)] }

theorem witness_scalar_refused : ScalarFails (scal [(4, 2 ^ 48)] (place (.sld 5 4 0 1))) (.sld 5 4 0 1) 0
    ∧ ScalarFails (place (.sld 5 4 0 1)) (.sld 5 4 0 1) 1 ∧ ScalarFails (leased (place (.sld 5 4 0 1))) (.sld 5 4 0 1) 2
    ∧ ScalarFails (leased (closed (place (.sst 5 4 0 1)))) (.sst 5 4 0 1) 3 ∧ ScalarFails (leased (seg 2 (place (.sst 5 4 0 0)))) (.sst 5 4 0 0) 4
    ∧ ScalarFails (scal [(4, 65536)] (leased (seg 1 (place (.sld 5 4 0 1))))) (.sld 5 4 0 1) 5
    ∧ ScalarFails (scal [(4, 4)] (leased (seg 0 (place (.sld 5 4 0 1))))) (.sld 5 4 0 1) 6 :=
  ⟨scalarFails (by decide +kernel), scalarFails (by decide +kernel), scalarFails (by decide +kernel), scalarFails (by decide +kernel),
    scalarFails (by decide +kernel), scalarFails (by decide +kernel), scalarFails (by decide +kernel)⟩


/-- A lane access: the lowest lane that fails the check, none failing an earlier one. -/
def LaneFails (s : State) (i : Instr) (l n : Nat) : Prop := ∃ x a, laneForm i = some a ∧ Issues s x i ∧ SegFeatsOn x ∧ bit (x.exec a.m) l = true
  ∧ (a.ask x l).Fails s x a.use a.size n ∧ (∀ j, bit (x.exec a.m) j = true → j < l → ¬(a.ask x j).Fails s x a.use a.size n)
  ∧ ∀ j c, bit (x.exec a.m) j = true → c < n → ¬(a.ask x j).Fails s x a.use a.size c

theorem laneFails {s : State} {i : Instr} {l n : Nat} (h : (looks s fun x => decide (Issues s x i) && (featOn x.l.feat 6 && featOn x.l.feat 8 &&
    match laneForm i with
    | some a => bit (x.exec a.m) l && fails s x a.use a.size (a.ask x l) n && ((List.range l).all fun j => !fails s x a.use a.size (a.ask x j) n)
      && (List.range 64).all fun j => !bit (x.exec a.m) j || (List.range n).all fun c => !fails s x a.use a.size (a.ask x j) c
    | none => false)) = true) : LaneFails s i l n := by
  obtain ⟨x, -, hx⟩ := looks_spec h
  rw [Bool.and_eq_true, decide_eq_true_eq, Bool.and_eq_true, Bool.and_eq_true] at hx
  obtain ⟨h1, h2, h3⟩ := hx
  split at h3
  · rename_i a ha
    rw [Bool.and_eq_true, Bool.and_eq_true, Bool.and_eq_true, List.all_eq_true, List.all_eq_true] at h3
    obtain ⟨⟨⟨h3, h4⟩, h5⟩, h6⟩ := h3
    refine ⟨x, a, ha, h1, h2, h3, (fails_iff n).mp h4, fun j _ hj hf => ?_, fun j c hb hc hf => ?_⟩
    · have := h5 j (List.mem_range.mpr hj)
      rw [(fails_iff n).mpr hf] at this; cases this
    · have := h6 j (List.mem_range.mpr (bit_small hb))
      rw [hb, Bool.not_true, Bool.false_or, List.all_eq_true] at this
      have := this c (List.mem_range.mpr hc)
      rw [(fails_iff c).mpr hf] at this; cases this
  · cases h3

/-- Two lanes live, and words by register and lane. -/
def twain (l : List (Nat × Nat × W32)) : State → State :=
  onG fun g => { g with regs := { g.regs with live := 3, lanes := l.map fun e => (64 * e.1 + e.2.1, e.2.2) } }

theorem witness_lane_refused : LaneFails (twain [(6, 1, 65536)] (place (.vst 8 6 4 1 0 0))) (.vst 8 6 4 1 0 0) 1 5
    ∧ LaneFails (twain [(6, 0, 2)] (place (.vld 8 6 4 1 0 0))) (.vld 8 6 4 1 0 0) 0 6
    ∧ LaneFails (twain [] (place (.vatom 8 4 6 0))) (.vatom 8 4 6 0) 0 1 :=
  ⟨laneFails (by decide +kernel), laneFails (by decide +kernel), laneFails (by decide +kernel)⟩

/-- UNIFORM, from lane 0 on: by the address of lane 1; by its data; by its data, where lane 2 lies outside the aperture. -/
def NotUniform (s : State) (i : Instr) (l d : Nat) : Prop := ∃ x a, laneForm i = some a ∧ Issues s x i ∧ SegFeatsOn x ∧ a.use.writes = true
  ∧ (∀ j n, bit (x.exec a.m) j = true → n < 7 → ¬(a.ask x j).Fails s x a.use a.size n)
  ∧ (∃ j va o, bit (x.exec a.m) j = true ∧ (a.ask x j).target x (s.ctx x.l.cid) = some (.aperture va o)) ∧ bit (x.exec a.m) 0 = true
  ∧ bit (x.exec a.m) l = true
  ∧ (let same (j : Nat) : Prop := (a.ask x j).addr = (a.ask x 0).addr ∧ (a.ask x j).data = (a.ask x 0).data
    let elsewhere := ∃ j, bit (x.exec a.m) j = true ∧ ∀ va o, (a.ask x j).target x (s.ctx x.l.cid) ≠ some (.aperture va o)
    ¬same l ∧ (∀ j, bit (x.exec a.m) j = true → j < l → same j)
      ∧ if d = 1 then (a.ask x l).addr ≠ (a.ask x 0).addr ∨ elsewhere else (a.ask x l).addr = (a.ask x 0).addr ∧ ¬elsewhere)

/-- The access lies in an aperture. -/
def apert (s : State) (x : Iss) (k : Ask) : Bool := match k.target x (s.ctx x.l.cid) with | some (.aperture _ _) => true | _ => false

theorem apert_iff {s : State} {x : Iss} {k : Ask} : apert s x k = true ↔ ∃ va o, k.target x (s.ctx x.l.cid) = some (.aperture va o) := by
  unfold apert
  split
  · exact ⟨fun _ => ⟨_, _, ‹_›⟩, fun _ => rfl⟩
  · rename_i n
    exact ⟨fun h => (by cases h), fun ⟨va, o, h⟩ => absurd h (n va o)⟩

theorem notUniform {s : State} {i : Instr} {l d : Nat} (h : (looks s fun x => decide (Issues s x i) && (featOn x.l.feat 6 && featOn x.l.feat 8 &&
    match laneForm i with
    | some a =>
      let on (p : Nat → Bool) : Bool := (List.range 64).all fun j => !bit (x.exec a.m) j || p j
      a.use.writes && bit (x.exec a.m) 0 && apert s x (a.ask x 0) && bit (x.exec a.m) l && on (fun j => fine s x a.use a.size (a.ask x j))
      && decide ¬((a.ask x l).addr = (a.ask x 0).addr ∧ (a.ask x l).data = (a.ask x 0).data)
      && on (fun j => decide (l ≤ j) || decide ((a.ask x j).addr = (a.ask x 0).addr ∧ (a.ask x j).data = (a.ask x 0).data))
      && if d = 1 then decide ((a.ask x l).addr ≠ (a.ask x 0).addr) || !on fun j => apert s x (a.ask x j)
        else decide ((a.ask x l).addr = (a.ask x 0).addr) && on fun j => apert s x (a.ask x j)
    | none => false)) = true) : NotUniform s i l d := by
  obtain ⟨x, -, hx⟩ := looks_spec h
  rw [Bool.and_eq_true, decide_eq_true_eq, Bool.and_eq_true, Bool.and_eq_true] at hx
  obtain ⟨h1, h2, h3⟩ := hx
  split at h3
  · rename_i a ha
    have hon : ∀ p : Nat → Bool, ((List.range 64).all fun j => !bit (x.exec a.m) j || p j) = true ↔ ∀ j, bit (x.exec a.m) j = true → p j = true := by
      intro p
      rw [List.all_eq_true]
      exact ⟨fun h j hb => by simpa [hb] using h j (List.mem_range.mpr (bit_small hb)),
        fun h j _ => by cases hb : bit (x.exec a.m) j <;> simp [h, hb]⟩
    simp only [Bool.and_eq_true, hon] at h3
    obtain ⟨⟨⟨⟨⟨⟨⟨hw, b0⟩, p0⟩, bl⟩, hf⟩, hd⟩, hs⟩, hk⟩ := h3
    refine ⟨x, a, ha, h1, h2, hw, fun j n hb => fine_passes (hf j hb) n, ?_, b0, bl, of_decide_eq_true hd, fun j hb hl => ?_, ?_⟩
    · obtain ⟨va, o, k⟩ := apert_iff.mp p0
      exact ⟨0, va, o, b0, k⟩
    · have := hs j hb
      rw [Bool.or_eq_true, decide_eq_true_eq, decide_eq_true_eq] at this
      exact this.resolve_left (by omega)
    · split at hk
      · rw [if_pos ‹_›]
        rw [Bool.or_eq_true, decide_eq_true_eq, Bool.not_eq_true', ← Bool.not_eq_true, hon] at hk
        refine hk.imp id fun k => ?_
        obtain ⟨j, k⟩ := not_forall.mp k
        obtain ⟨hb, k⟩ := Classical.not_imp.mp k
        exact ⟨j, hb, fun va o e => k (apert_iff.mpr ⟨va, o, e⟩)⟩
      · rw [if_neg ‹_›]
        rw [Bool.and_eq_true, decide_eq_true_eq, hon] at hk
        exact ⟨hk.1, fun ⟨j, hb, k⟩ => by obtain ⟨va, o, e⟩ := apert_iff.mp (hk.2 j hb); exact k va o e⟩
  · cases h3

/-- An aperture in the lowest 64 KiB, ordinary memory above it, and three lanes live. -/
def beside (s : State) : State := s.modCtx 4 fun c => { c with
  segs := [(1, 0), (3, 0x8000000000000207), (4, 0x10000), (5, 0x0000FFFFFFFF0000), (7, 0x8000000000000007)] }
def three (s : State) : State := onG (fun g => { g with regs := { g.regs with live := 7 } }) s

theorem witness_uniform : NotUniform (leased (seg 2 (twain [(4, 1, 64)] (place (.vst 8 4 5 0 0 0))))) (.vst 8 4 5 0 0 0) 1 1
    ∧ NotUniform (leased (seg 2 (twain [(4, 1, 64), (8, 1, 1)] (place (.vst 8 4 5 0 0 0))))) (.vst 8 4 5 0 0 0) 1 1
    ∧ NotUniform (leased (seg 2 (twain [(8, 1, 1)] (place (.vst 8 4 5 0 0 0))))) (.vst 8 4 5 0 0 0) 1 2
    ∧ NotUniform (leased (seg 2 (three (twain [(8, 1, 1), (4, 2, 64)] (place (.vst 8 4 5 0 0 0)))))) (.vst 8 4 5 0 0 0) 1 2
    ∧ NotUniform (leased (beside (three (twain [(8, 1, 1), (4, 2, 65536)] (place (.vst 8 4 5 0 0 0)))))) (.vst 8 4 5 0 0 0) 1 1 :=
  ⟨notUniform (by decide +kernel), notUniform (by decide +kernel), notUniform (by decide +kernel), notUniform (by decide +kernel),
    notUniform (by decide +kernel)⟩

/-! ### In flight -/

/-- The base state with one instruction in flight, its accesses and its destination. -/
def aloft (i : Instr) (accs : List LaneAcc) (file : RegFile) (dst ndst : Nat) : State :=
  onG (fun g => { g with flights := [{ fl i with exec := 3, accs := accs, file := file, dst := dst, ndst := ndst }] }) (place .nop)

/-- A line of the tenant's page 0 in the L1 of core 0, its byte k holding k; the same in L2; and a translation of the page to frame 32. -/
def line1 : L1Line := ⟨gia 1 0 / 128, BitVec.allOnes 32, 0, true, false, 0, 32, lineOf fun k => BitVec.ofNat 8 k⟩
def inL1 (s : State) : State := s.modCore 0 fun c => { c with l1 := [line1] }
def inL2 (s : State) : State := { s with l2 := [⟨gia 1 0 / 128, line1.data, 0, true, false, 32, 0⟩] }
def paged (kind : Nat) (s : State) : State := { s with tlb := [⟨gia 1 0 / 128, 1, 0, 32, kind, true, false, false⟩] }

/-- The turn of the instruction in flight, looked at by evaluation. -/
theorem turns {s : State} {p : Group → Flight → Team → Launch → Bool} (h : (match s.flightAt 3 0 with
    | some (g, f, t, l) => decide (g.ref = 3 ∧ f.fid = 0 ∧ s.performable g f l.tid = true ∧ g.trap.replay = [] ∧ g.busy = []
      ∧ (f.accs.map (·.lane)).Nodup ∧ f.failed = 0 ∧ ∀ a ∈ f.accs, a.lane < 64 ∧ a.last = true ∧ a.reg = 0) && p g f t l
    | none => false) = true) : ∃ g f t l, Turn s g f t l ∧ p g f t l = true := by
  split at h
  · rename_i g f t l hf
    rw [Bool.and_eq_true, decide_eq_true_eq] at h
    obtain ⟨⟨h1, h2, h3, h4, h5, h6, h7, h8⟩, hp⟩ := h
    exact ⟨g, f, t, l, ⟨by rw [h1, h2]; exact hf, h3, h4, h7, fun b hb => (by rw [h5] at hb; cases hb), ⟨h6, fun a ha => (h8 a ha).1⟩,
      fun a ha => (h8 a ha).2⟩, hp⟩
  · cases h

/-- The same with a pacer that stays and what else is asked of them. -/
theorem turnsTo {s : State} {P : Group → Flight → Team → Launch → Prop} [∀ g f t l, Decidable (P g f t l)] (h : (match s.flightAt 3 0 with
    | some (g, f, t, l) => decide (g.ref = 3 ∧ f.fid = 0 ∧ s.performable g f l.tid = true ∧ g.trap.replay = [] ∧ g.busy = []
      ∧ (f.accs.map (·.lane)).Nodup ∧ f.failed = 0 ∧ ∀ a ∈ f.accs, a.lane < 64 ∧ a.last = true ∧ a.reg = 0) && (calm s t && decide (P g f t l))
    | none => false) = true) : ∃ g f t l, Turn s g f t l ∧ PacerStays s t ∧ P g f t l := by
  obtain ⟨g, f, t, l, h, h2⟩ := turns h
  rw [Bool.and_eq_true, decide_eq_true_eq] at h2
  exact ⟨g, f, t, l, h, calm_spec h2.1, h2.2⟩

/-- One access in flight, of lane 0. -/
def one (i : Instr) (tgt : Target) (size : Nat) (data : List W32) (file : RegFile) (dst ndst : Nat) : State :=
  aloft i [⟨0, tgt, size, data, 0, 0, true⟩] file dst ndst

/-- What is in flight lies in the scratchpad. -/
def inSpad (f : Flight) : Bool := f.left.all fun a => match a.target with | .spad _ => true | _ => false

theorem inSpad_spec {f : Flight} (h : inSpad f = true) : ∀ a ∈ f.left, ∃ o, a.target = .spad o := fun a ha => by
  have := List.all_eq_true.mp h a ha
  split at this
  · exact ⟨_, ‹_›⟩
  · cases this

/-- A load finds its bytes, the k-th being k. -/
def finds (s : State) (core tid tia n : Nat) : Bool :=
  let gline := gia tid tia / 128
  let good (d : BitVec 1024) : Bool := (List.range n).all fun k => decide (lineByte d (tia % 128 + k) = BitVec.ofNat 8 k)
  decide (tia % 128 + n ≤ 128 ∧ tia < 2 ^ 48)
    && match (s.coreOf core).l1? gline with
      | some l => l.has (tia % 128) n && good l.data
      | none => decide (s.bad = []) && match s.l2.find? (fun k => k.gline = gline) with
        | some l => decide (l.withheld = 0 ∧ (s.frame l.stamp).damaged = false) && good l.data
        | none => match (s.translate tid (glineTia gline)).2 with
          | .ok leaf => decide (s.l2 = [] ∧ leaf.host = false ∧ leaf.nc = false ∧ leaf.kind = 0 ∧ (s.frame leaf.frame).damaged = false)
            && (List.range n).all fun k => decide (s.dram.get (leaf.frame * 65536 + tia % 65536 + k) = BitVec.ofNat 8 k)
          | .error _ => false

theorem finds_spec {s : State} {core tid tia n : Nat} (h : finds s core tid tia n = true) :
    Finds s core tid tia n ((List.range n).map fun k => BitVec.ofNat 8 k) := by
  have bs : ∀ d : Nat → Byte, (∀ k, k < n → d k = BitVec.ofNat 8 k) →
      ((List.range n).map fun k => BitVec.ofNat 8 k) = (List.range n).map d := fun d hd =>
    List.map_congr_left fun k hk => (hd k (List.mem_range.mp hk)).symm
  unfold finds at h
  simp only [Bool.and_eq_true, decide_eq_true_eq] at h
  refine ⟨h.1.1, h.1.2, ?_⟩
  replace h := h.2
  split at h
  · rename_i l hl
    simp only [Bool.and_eq_true, List.all_eq_true, List.mem_range, decide_eq_true_eq] at h
    exact .inl ⟨l, hl, h.1, bs _ h.2⟩
  · rename_i h1
    rw [Bool.and_eq_true, decide_eq_true_eq] at h
    obtain ⟨hb, h⟩ := h
    split at h
    · rename_i l hl
      simp only [Bool.and_eq_true, List.all_eq_true, List.mem_range, decide_eq_true_eq] at h
      exact .inr (.inl ⟨h1, hb, ⟨l, hl, h.1.1, bs _ h.2⟩, fun m hm => (by rw [hl] at hm; cases hm; exact h.1.2)⟩)
    · split at h
      · rename_i leaf hl
        simp only [Bool.and_eq_true, List.all_eq_true, List.mem_range, decide_eq_true_eq] at h
        obtain ⟨⟨e, h3, h4, h5, h6⟩, hd⟩ := h
        exact .inr (.inr ⟨h1, fun k hk => (by rw [e] at hk; cases hk), by rw [e]; decide, hb, leaf, hl, h3, h4, h5, h6, bs _ hd⟩)
      · cases h

/-- LoadReturn: two lanes and a scalar from the scratchpad. -/
theorem witness_load_spad : ∃ g f t l, Turn (aloft (.vld 8 6 4 1 0 0) [⟨0, .spad 0, 4, [], 0, 0, true⟩, ⟨1, .spad 65532, 4, [], 0, 0, true⟩] .lane 8 1) g f t l
    ∧ isLoad f.instr = true ∧ PacerStays (aloft (.vld 8 6 4 1 0 0) [⟨0, .spad 0, 4, [], 0, 0, true⟩, ⟨1, .spad 65532, 4, [], 0, 0, true⟩] .lane 8 1) t
    ∧ (∀ a ∈ f.left, ∃ o, a.target = .spad o) ∧ f.left.length = 2 ∧ f.inLanes g := by
  obtain ⟨g, f, t, l, h, h2⟩ := turns (s := aloft (.vld 8 6 4 1 0 0) [⟨0, .spad 0, 4, [], 0, 0, true⟩, ⟨1, .spad 65532, 4, [], 0, 0, true⟩] .lane 8 1)
    (p := fun g f t _ => decide (isLoad f.instr = true ∧ f.left.length = 2 ∧ f.file = .lane ∧ f.dst + f.ndst ≤ g.nregs) && inSpad f
      && calm (aloft (.vld 8 6 4 1 0 0) [⟨0, .spad 0, 4, [], 0, 0, true⟩, ⟨1, .spad 65532, 4, [], 0, 0, true⟩] .lane 8 1) t) (by decide +kernel)
  rw [Bool.and_eq_true, Bool.and_eq_true, decide_eq_true_eq] at h2
  exact ⟨g, f, t, l, h, h2.1.1.1, calm_spec h2.2, inSpad_spec h2.1.2, h2.1.1.2.1, h2.1.1.2.2.1, .inl h2.1.1.2.2.2⟩

theorem witness_load_spad_scalar : ∃ g f t l a o, Turn (aloft (.sld 5 4 0 1) [⟨0, .spad 65528, 8, [], 0, 0, true⟩] .scalar 5 1) g f t l ∧ isLoad f.instr = true
    ∧ f.left = [a] ∧ a.target = .spad o ∧ f.instr = .sld 5 4 0 1
    ∧ PacerStays (aloft (.sld 5 4 0 1) [⟨0, .spad 65528, 8, [], 0, 0, true⟩] .scalar 5 1) t := by
  obtain ⟨g, f, t, l, h, h2⟩ := turns (s := aloft (.sld 5 4 0 1) [⟨0, .spad 65528, 8, [], 0, 0, true⟩] .scalar 5 1)
    (p := fun _ f t _ => decide (isLoad f.instr = true ∧ f.left = [⟨0, .spad 65528, 8, [], 0, 0, true⟩] ∧ f.instr = .sld 5 4 0 1
      ∧ calm (aloft (.sld 5 4 0 1) [⟨0, .spad 65528, 8, [], 0, 0, true⟩] .scalar 5 1) t = true)) (by decide +kernel)
  obtain ⟨a, b, c, d⟩ := of_decide_eq_true h2
  exact ⟨g, f, t, l, _, _, h, a, b, rfl, c, calm_spec d⟩

/-- From global memory: the last word of a line in the L1, in L2, and in DRAM. -/
def GlobalLoad (i : Instr) (s : State) : Prop := ∃ g f t l a va tia bs, Turn s g f t l ∧ f.instr = i ∧ isLoad i = true ∧ f.left = [a]
  ∧ a.target = .glob va tia ∧ Finds s t.core l.tid tia a.size bs ∧ (loadMode f.instr).2 = false ∧ 0 < a.size ∧ a.size ≠ 16 ∧ PacerStays s t
  ∧ (f.file = .scalar ∨ f.inLanes g)

theorem globalLoad {i : Instr} {s : State} (h : (match s.flightAt 3 0 with
    | some (g, f, t, l) => decide (g.ref = 3 ∧ f.fid = 0 ∧ s.performable g f l.tid = true ∧ g.trap.replay = [] ∧ g.busy = []
      ∧ (f.accs.map (·.lane)).Nodup ∧ f.failed = 0 ∧ ∀ a ∈ f.accs, a.lane < 64 ∧ a.last = true ∧ a.reg = 0) && (decide (f.instr = i ∧ isLoad i = true ∧ f.left = [⟨0, .glob 0 0, 4, [], 0, 0, true⟩]
      ∧ (loadMode f.instr).2 = false ∧ calm s t = true ∧ (f.file = .scalar ∨ f.file = .lane ∧ f.dst + f.ndst ≤ g.nregs)) && finds s t.core l.tid 0 4)
    | none => false) = true) : GlobalLoad i s := by
  obtain ⟨g, f, t, l, h, h2⟩ := turns h
  rw [Bool.and_eq_true, decide_eq_true_eq] at h2
  obtain ⟨⟨a, b, c, d, k, e⟩, hf⟩ := h2
  exact ⟨g, f, t, l, _, _, _, _, h, a, b, c, rfl, finds_spec hf, d, by decide, by decide, calm_spec k, e.imp id fun e => ⟨e.1, .inl e.2⟩⟩

/-- Bytes of frame 32, the k-th holding k. -/
def inDram (s : State) : State := { s with dram := [(0x200001, 1), (0x200002, 2), (0x200003, 3)] }

theorem witness_load_global : GlobalLoad (.vld 8 4 4 0 0 0) (inL1 (aloft (.vld 8 4 4 0 0 0) [⟨0, .glob 0 0, 4, [], 0, 0, true⟩] .lane 8 1))
    ∧ GlobalLoad (.sld 5 4 0 0) (inL2 (aloft (.sld 5 4 0 0) [⟨0, .glob 0 0, 4, [], 0, 0, true⟩] .scalar 5 1))
    ∧ GlobalLoad (.vld 8 4 4 0 0 0) (inDram (paged 0 (aloft (.vld 8 4 4 0 0 0) [⟨0, .glob 0 0, 4, [], 0, 0, true⟩] .lane 8 1))) :=
  ⟨globalLoad (by decide +kernel), globalLoad (by decide +kernel), globalLoad (by decide +kernel)⟩

/-- The page is host memory. -/
def hosted (s : State) : State := { s with tlb := [⟨gia 1 0 / 128, 1, 0, 32, 0, true, false, true⟩] }

/-- Bytes of the line, in L1 and in L2. -/
theorem heldL1 {s : State} {core tid off n : Nat} (h : (s.coreOf core).l1? (gia tid 0 / 128) = some line1 ∧ line1.has off n = true) :
    HeldInL1 s core (gia tid 0 / 128) off n ((List.range n).map fun k => lineByte line1.data (off + k)) := ⟨line1, h.1, h.2, rfl⟩
theorem heldL2 (s : State) (off n : Nat) :
    HeldInL2 (inL2 s) (gia 1 0 / 128) off n ((List.range n).map fun k => lineByte line1.data (off + k)) := 
  ⟨_, List.find?_cons_of_pos (decide_eq_true rfl), rfl, rfl⟩

/-- LoadReturn, several lanes, the first and the last word of a line of the L1. -/
def loadLines : State := inL1 (aloft (.vld 8 4 4 0 0 0) [⟨0, .glob 0 0, 4, [], 0, 0, true⟩, ⟨1, .glob 124 124, 4, [], 0, 0, true⟩] .lane 8 1)
theorem witness_load_lines : ∃ g f t l, Turn loadLines g f t l ∧ PacerStays loadLines t ∧ isLoad f.instr = true ∧ f.inLanes g ∧ (loadMode f.instr).2 = false
    ∧ f.left.length = 2 ∧ ∀ a ∈ f.left, ∃ va tia, a.target = .glob va tia ∧ 0 < a.size ∧ a.size ≠ 16
      ∧ HeldInL1 loadLines t.core (gia l.tid tia / 128) (tia % 128) a.size ((List.range a.size).map fun k => lineByte line1.data (tia % 128 + k)) := by
  obtain ⟨g, f, t, l, h, hc, a, b, c, d, e, k⟩ := turnsTo (s := loadLines) (P := fun g f t l => isLoad f.instr = true
    ∧ (f.file = .lane ∧ f.dst + f.ndst ≤ g.nregs) ∧ (loadMode f.instr).2 = false
    ∧ f.left = [⟨0, .glob 0 0, 4, [], 0, 0, true⟩, ⟨1, .glob 124 124, 4, [], 0, 0, true⟩] ∧ l.tid = 1
    ∧ (loadLines.coreOf t.core).l1? (gia 1 0 / 128) = some line1) (by decide +kernel)
  refine ⟨g, f, t, l, h, hc, a, ⟨b.1, .inl b.2⟩, c, by rw [d]; rfl, fun m hm => ?_⟩
  rw [d] at hm
  simp only [List.mem_cons, List.not_mem_nil, or_false] at hm
  rcases hm with rfl | rfl
  · exact ⟨0, 0, rfl, by decide, by decide, by rw [e]; exact heldL1 ⟨k, by decide +kernel⟩⟩
  · exact ⟨124, 124, rfl, by decide, by decide, by rw [e]; exact heldL1 (tid := 1) (off := 124) ⟨k, by decide +kernel⟩⟩

/-- One lane beyond the core: an acquire at dev scope, a host window, a fabric window with a port up. -/
def acquiring : State := inL2 (one (.vlda 8 4 4 1 0 0) (.glob 124 124) 4 [] .lane 8 1)
def hostLoad : State := hosted (one (.vld 8 4 4 0 0 0) (.host 65532 124) 4 [] .lane 8 1)
def awayLoad : State := one (.vld 8 4 4 0 0 0) (.fabric 0 3 4096) 4 [] .lane 8 1

theorem witness_load_beyond :
    (∃ g f t l, Turn acquiring g f t l ∧ PacerStays acquiring t ∧ isLoad f.instr = true ∧ (f.file = .lane ∧ f.dst + f.ndst ≤ g.nregs)
      ∧ f.left = [⟨0, .glob 124 124, 4, [], 0, 0, true⟩] ∧ (loadMode f.instr).2 = true ∧ l.tid = 1
      ∧ (acquiring.coreOf t.core).l1? (gia 1 124 / 128) = none)
    ∧ HeldInL2 acquiring (gia 1 124 / 128) (124 % 128) 4 ((List.range 4).map fun k => lineByte line1.data (124 + k))
    ∧ (∃ g f t l, Turn hostLoad g f t l ∧ PacerStays hostLoad t ∧ isLoad f.instr = true ∧ (f.file = .lane ∧ f.dst + f.ndst ≤ g.nregs)
      ∧ f.left = [⟨0, .host 65532 124, 4, [], 0, 0, true⟩] ∧ reportMask f.instr = none
      ∧ (hostLoad.translate l.tid (glineTia (gia l.tid 124 / 128))).2.toOption = some ⟨32, 0, true, false, true⟩ ∧ hostLoad.linkDown hostLink = false)
    ∧ ∃ g f t l, Turn awayLoad g f t l ∧ PacerStays awayLoad t ∧ isLoad f.instr = true ∧ (f.file = .lane ∧ f.dst + f.ndst ≤ g.nregs)
      ∧ f.left = [⟨0, .fabric 0 3 4096, 4, [], 0, 0, true⟩] ∧ reportMask f.instr = none ∧ g.run ≠ .retired ∧ f.trap = none
      ∧ ∃ p ∈ fabricPorts, awayLoad.linkDown p = false :=
  ⟨turnsTo (by decide +kernel), heldL2 _ 124 4, turnsTo (by decide +kernel), turnsTo (by decide +kernel)⟩

/-- StoreComplete beyond the L1's own lines: a line without write permission, which L2 has or may have; a release; a host window; a fabric
window. -/
def storeL2 (wp : Bool) (i : Instr) : State :=
  paged 0 { one i (.glob 124 124) 4 [7] .lane 0 0 with l2 := [⟨gia 1 0 / 128, line1.data, 0, wp, false, 32, 0⟩] }
def hostStore : State := hosted (one (.vst 8 4 4 0 0 0) (.host 65532 124) 4 [7] .lane 0 0)
def awayStore : State := one (.vst 8 4 4 0 0 0) (.fabric 0 3 4096) 4 [7] .lane 0 0

theorem witness_store_beyond : (∀ e ∈ ([(true, .vst 8 4 4 0 0 0, 0), (false, .vst 8 4 4 0 0 0, 0), (true, .vstl 8 4 4 1 0 0, 1)] : List (Bool × Instr × Nat)),
      ∃ g f t l, Turn (storeL2 e.1 e.2.1) g f t l ∧ PacerStays (storeL2 e.1 e.2.1) t ∧ isStore f.instr = true ∧ storeScope f.instr = e.2.2
      ∧ f.left = [⟨0, .glob 124 124, 4, [7], 0, 0, true⟩] ∧ l.tid = 1 ∧ (storeL2 e.1 e.2.1).viewAt l.tid ⟨0, .glob 124 124, 4, [7], 0, 0, true⟩ = false
      ∧ ((storeL2 e.1 e.2.1).coreOf t.core).l1 = [])
    ∧ (∀ b i, (storeL2 b i).bad = [] ∧ (storeL2 b i).adms = []
      ∧ (storeL2 b i).l2.find? (fun n => n.gline = gia 1 124 / 128) = some ⟨gia 1 0 / 128, line1.data, 0, b, false, 32, 0⟩)
    ∧ (∀ b, ((storeL2 b (.vst 8 4 4 0 0 0)).translate 1 (glineTia (gia 1 124 / 128))).2.toOption = some ⟨32, 0, true, false, false⟩
      ∧ ((storeL2 b (.vst 8 4 4 0 0 0)).frame 32).damaged = false)
    ∧ (∃ g f t l, Turn hostStore g f t l ∧ PacerStays hostStore t ∧ isStore f.instr = true ∧ storeScope f.instr = 0
      ∧ f.left = [⟨0, .host 65532 124, 4, [7], 0, 0, true⟩]
      ∧ (hostStore.translate l.tid (glineTia (gia l.tid 124 / 128))).2.toOption = some ⟨32, 0, true, false, true⟩ ∧ hostStore.linkDown hostLink = false)
    ∧ ∃ g f t l, Turn awayStore g f t l ∧ PacerStays awayStore t ∧ isStore f.instr = true ∧ storeScope f.instr = 0
      ∧ f.left = [⟨0, .fabric 0 3 4096, 4, [7], 0, 0, true⟩] ∧ g.run ≠ .retired ∧ f.trap = none ∧ ∃ p ∈ fabricPorts, awayStore.linkDown p = false := by
  refine ⟨fun e he => ?_, fun b i => ⟨rfl, rfl, List.find?_cons_of_pos (decide_eq_true rfl)⟩, by decide +kernel, turnsTo (by decide +kernel),
    turnsTo (by decide +kernel)⟩
  simp only [List.mem_cons, List.not_mem_nil, or_false] at he
  rcases he with rfl | rfl | rfl <;> exact turnsTo (by decide +kernel)

/-- StoreComplete: the scratchpad, and a line of the L1 with write permission. -/
theorem witness_store_spad : ∃ g f t l, Turn (aloft (.vst 8 6 4 1 0 0) [⟨0, .spad 0, 4, [1], 0, 0, true⟩, ⟨1, .spad 65532, 4, [2], 0, 0, true⟩] .lane 0 0) g f t l
    ∧ isStore f.instr = true ∧ storeScope f.instr = 0 ∧ (∀ a ∈ f.left, a.size ≤ 4 * a.data.length) ∧ (∀ a ∈ f.left, ∃ o, a.target = .spad o)
    ∧ PacerStays (aloft (.vst 8 6 4 1 0 0) [⟨0, .spad 0, 4, [1], 0, 0, true⟩, ⟨1, .spad 65532, 4, [2], 0, 0, true⟩] .lane 0 0) t := by
  obtain ⟨g, f, t, l, h, h2⟩ := turns (s := aloft (.vst 8 6 4 1 0 0) [⟨0, .spad 0, 4, [1], 0, 0, true⟩, ⟨1, .spad 65532, 4, [2], 0, 0, true⟩] .lane 0 0)
    (p := fun g f t _ => decide (isStore f.instr = true ∧ storeScope f.instr = 0 ∧ ∀ a ∈ f.left, a.size ≤ 4 * a.data.length) && (inSpad f && calm
      (aloft (.vst 8 6 4 1 0 0) [⟨0, .spad 0, 4, [1], 0, 0, true⟩, ⟨1, .spad 65532, 4, [2], 0, 0, true⟩] .lane 0 0) t)) (by decide +kernel)
  simp only [Bool.and_eq_true, decide_eq_true_eq] at h2
  exact ⟨g, f, t, l, h, h2.1.1, h2.1.2.1, h2.1.2.2, inSpad_spec h2.2.1, calm_spec h2.2.2⟩

theorem witness_store_line : ∃ g f t l a va tia, Turn (inL1 (aloft (.sst 5 4 0 1) [⟨0, .glob 120 120, 8, [1, 2], 0, 0, true⟩] .lane 0 0)) g f t l
    ∧ isStore f.instr = true ∧ storeScope f.instr = 0 ∧ f.left = [a] ∧ a.target = .glob va tia ∧ tia % 128 + a.size ≤ 128 ∧ a.size ≤ 4 * a.data.length
    ∧ ((inL1 (aloft (.sst 5 4 0 1) [⟨0, .glob 120 120, 8, [1, 2], 0, 0, true⟩] .lane 0 0)).coreOf t.core).l1? (gia l.tid tia / 128) = some line1 ∧ line1.wp = true
    ∧ (inL1 (aloft (.sst 5 4 0 1) [⟨0, .glob 120 120, 8, [1, 2], 0, 0, true⟩] .lane 0 0)).viewAt l.tid a = false ∧ a.size ≠ 16
    ∧ PacerStays (inL1 (aloft (.sst 5 4 0 1) [⟨0, .glob 120 120, 8, [1, 2], 0, 0, true⟩] .lane 0 0)) t := by
  obtain ⟨g, f, t, l, h, h2⟩ := turns (s := inL1 (aloft (.sst 5 4 0 1) [⟨0, .glob 120 120, 8, [1, 2], 0, 0, true⟩] .lane 0 0))
    (p := fun _ f t l => decide (calm (inL1 (aloft (.sst 5 4 0 1) [⟨0, .glob 120 120, 8, [1, 2], 0, 0, true⟩] .lane 0 0)) t = true
      ∧ isStore f.instr = true ∧ storeScope f.instr = 0 ∧ f.left = [⟨0, .glob 120 120, 8, [1, 2], 0, 0, true⟩]
      ∧ ((inL1 (aloft (.sst 5 4 0 1) [⟨0, .glob 120 120, 8, [1, 2], 0, 0, true⟩] .lane 0 0)).coreOf t.core).l1? (gia l.tid 120 / 128) = some line1
      ∧ (inL1 (aloft (.sst 5 4 0 1) [⟨0, .glob 120 120, 8, [1, 2], 0, 0, true⟩] .lane 0 0)).viewAt l.tid ⟨0, .glob 120 120, 8, [1, 2], 0, 0, true⟩ = false)) (by decide +kernel)
  obtain ⟨k, a, b, c, d, e⟩ := of_decide_eq_true h2
  exact ⟨g, f, t, l, _, _, _, h, a, b, c, rfl, by decide, by decide, d, rfl, e, by decide, calm_spec k⟩

/-- AtomicPerform: 32 and 64 bits, a scalar and a lane. -/
def SpadAtomic (n : Nat) (s : State) : Prop := ∃ g f t l a o, Turn s g f t l ∧ isAtomic f.instr = true ∧ f.left = [a] ∧ a.target = .spad o
  ∧ s.team? t.ref = some t ∧ PacerStays s t ∧ (n = 32 ∨ n = 64 ∧ atomicOp f.instr < 12)
  ∧ a.size = n / 8 ∧ a.data.length = n / 32 * (if atomicOp f.instr = 10 then 2 else 1)

theorem spadAtomic {n o : Nat} {d : List W32} {s : State} (h : (match s.flightAt 3 0 with
    | some (g, f, t, l) => decide (g.ref = 3 ∧ f.fid = 0 ∧ s.performable g f l.tid = true ∧ g.trap.replay = [] ∧ g.busy = []
      ∧ (f.accs.map (·.lane)).Nodup ∧ f.failed = 0 ∧ ∀ a ∈ f.accs, a.lane < 64 ∧ a.last = true ∧ a.reg = 0) && (decide (isAtomic f.instr = true ∧ f.left = [⟨0, .spad o, n / 8, d, 0, 0, true⟩]
      ∧ s.team? t.ref = some t ∧ (n = 32 ∨ n = 64 ∧ atomicOp f.instr < 12) ∧ d.length = n / 32 * (if atomicOp f.instr = 10 then 2 else 1)) && calm s t)
    | none => false) = true) : SpadAtomic n s := by
  obtain ⟨g, f, t, l, h, h2⟩ := turns h
  rw [Bool.and_eq_true, decide_eq_true_eq] at h2
  obtain ⟨⟨a, b, c, d, e⟩, hc⟩ := h2
  exact ⟨g, f, t, l, _, _, h, a, b, rfl, c, calm_spec hc, d, rfl, e⟩

theorem witness_atomic : SpadAtomic 32 (aloft (.vatom 8 4 6 0) [⟨0, .spad 65532, 4, [1], 0, 0, true⟩] .lane 8 1)
    ∧ SpadAtomic 32 (aloft (.vatomAr 8 4 6 10) [⟨0, .spad 0, 4, [1, 2], 0, 0, true⟩] .lane 8 1)
    ∧ SpadAtomic 64 (aloft (.satom 5 4 6 11 0 1) [⟨0, .spad 65528, 8, [1, 2], 0, 0, true⟩] .scalar 5 1) :=
  ⟨spadAtomic (o := 65532) (d := [1]) (by decide +kernel), spadAtomic (o := 0) (d := [1, 2]) (by decide +kernel),
    spadAtomic (o := 65528) (d := [1, 2]) (by decide +kernel)⟩

/-- On global memory: a scalar atomic and a lane's, at the last word of a line that L2 holds. -/
theorem witness_atomic_global : ∀ e ∈ ([(.satom 5 4 6 0 0 0, .scalar, 5), (.vatom 8 4 6 0, .lane, 8)] : List (Instr × RegFile × Nat)),
    ∃ g f t l, Turn (inL2 (one e.1 (.glob 124 124) 4 [1] e.2.1 e.2.2 1)) g f t l ∧ PacerStays (inL2 (one e.1 (.glob 124 124) 4 [1] e.2.1 e.2.2 1)) t
      ∧ isAtomic f.instr = true ∧ f.left = [⟨0, .glob 124 124, 4, [1], 0, 0, true⟩]
      ∧ (inL2 (one e.1 (.glob 124 124) 4 [1] e.2.1 e.2.2 1)).team? t.ref = some t ∧ (atomicOrder f.instr).1 = false ∧ l.tid = 1
      ∧ (inL2 (one e.1 (.glob 124 124) 4 [1] e.2.1 e.2.2 1)).l2.find? (fun m => m.gline = gia 1 124 / 128)
        = some ⟨gia 1 0 / 128, line1.data, 0, true, false, 32, 0⟩ := by
  intro e he
  simp only [List.mem_cons, List.not_mem_nil, or_false] at he
  rcases he with rfl | rfl <;> exact turnsTo (by decide +kernel)

/-- Nothing in these states is known to be unreadable, and no word of the scratchpad fails its check. -/
theorem aloft_whole (i : Instr) (accs : List LaneAcc) (file : RegFile) (dst ndst : Nat) : ∀ t ∈ (aloft i accs file dst ndst).teams,
    SpadWhole (aloft i accs file dst ndst) t ∧ (aloft i accs file dst ndst).team? t.ref = some t := by
  have h : (place .nop).teams.all (fun t => decide (t.lost = []) && decide ((place .nop).team? t.ref = some t)) = true := by decide +kernel
  intro t ht
  have k := List.all_eq_true.mp h t ht
  rw [Bool.and_eq_true, decide_eq_true_eq, decide_eq_true_eq] at k
  exact ⟨⟨fun p hp => (by cases hp), k.1⟩, k.2⟩
theorem aloft_bad (i : Instr) (accs : List LaneAcc) (file : RegFile) (dst ndst : Nat) : (aloft i accs file dst ndst).bad = [] := rfl

/-- FencesAndBarrier: a fence with an access in flight, and with none; FENCE.HV with another group's store in flight. -/
theorem witness_fence : ∀ i ∈ ([.fence 1, .fence 3, .fenceAcq 2, .fenceRel 2, .fenceHv 1, .fenceHv 3, .mofence, .fenceLt, .fbar] : List Instr),
    ∃ x, Issues (place i) x i ∧ x.q.hold = none ∧ x.g.flights = [] ∧ (((place i).coreOf x.t.core).l1.map (·.gline)).Nodup
      ∧ ∀ k ∈ (place i).groups, k.flights = [] := meets_all (by decide +kernel)

theorem witness_fence_waits : ∀ i ∈ ([.fence 1, .fenceAcq 2, .mofence, .fenceHv 1] : List Instr), ∃ x, Issues (flying (.vld 8 4 4 0 15 0) (place i)) x i
    ∧ x.q.hold = none ∧ ∃ f ∈ x.g.flights, f.fid < (flying (.vld 8 4 4 0 15 0) (place i)).next ∧ f.accesses = true ∧ f.reads = true
      ∧ mofenceWaits f = true := meets_all (by decide +kernel)

/-- The other group of the team has a store in flight that its FENCE.LT has marked. -/
def theirs (s : State) : State :=
  { s with groups := s.groups ++ s.groups.map fun g => { g with ref := 99, gix := 1, ltMark := 1, flights := [fl (.vst 8 4 4 0 0 0)] } }

theorem witness_fence_hv : ∃ x, Issues (theirs (place (.fenceHv 1))) x (.fenceHv 1) ∧ x.q.hold = none
    ∧ ∃ k ∈ (theirs (place (.fenceHv 1))).groups, k.ref ≠ x.g.ref ∧ (theirs (place (.fenceHv 1))).homeOf k = some (x.t, x.l)
      ∧ ∃ f ∈ k.unfinished, f.fid < k.ltMark ∧ f.accesses = true := meets (by decide +kernel)

/-- CacheOperations: each on a line of an ordinary segment; CLOCK of a line that is locked, and outside the ordinary segments. -/
def locked (s : State) : State := s.modCore 0 fun c => { c with l1 := [{ line1 with lock := 1 }] }
def CacheOn (i : Instr) (tgt : Target) (s : State) : Prop := ∃ g f t l a, Turn s g f t l ∧ f.left = [a] ∧ a.target = tgt ∧ f.instr = i

theorem cacheOn {i : Instr} {a : LaneAcc} {s : State} (h : (match s.flightAt 3 0 with
    | some (g, f, _, l) => decide (g.ref = 3 ∧ f.fid = 0 ∧ s.performable g f l.tid = true ∧ g.trap.replay = [] ∧ g.busy = []
      ∧ (f.accs.map (·.lane)).Nodup ∧ f.failed = 0 ∧ ∀ a ∈ f.accs, a.lane < 64 ∧ a.last = true ∧ a.reg = 0) && decide (f.left = [a] ∧ f.instr = i)
    | none => false) = true) : CacheOn i a.target s := by
  obtain ⟨g, f, t, l, h, h2⟩ := turns h
  obtain ⟨b, c⟩ := of_decide_eq_true h2
  exact ⟨g, f, t, l, a, h, b, rfl, c⟩

theorem witness_cache_operations : ∀ i ∈ ([.cunlk 4, .cinv 4, .cwb 4, .pref 4 0, .clock 7 4] : List Instr),
    CacheOn i (.glob 0 0) (locked (aloft i [⟨0, .glob 0 0, 1, [], 0, 0, true⟩] .scalar 7 1)) ∧ CacheOn i (.spad 0) (aloft i [⟨0, .spad 0, 1, [], 0, 0, true⟩] .scalar 7 1) := by
  have h : ([.cunlk 4, .cinv 4, .cwb 4, .pref 4 0, .clock 7 4] : List Instr).all (fun i => [locked (aloft i [⟨0, .glob 0 0, 1, [], 0, 0, true⟩] .scalar 7 1)].all
      fun s => match s.flightAt 3 0 with
      | some (g, f, _, l) => decide (g.ref = 3 ∧ f.fid = 0 ∧ s.performable g f l.tid = true ∧ g.trap.replay = [] ∧ g.busy = []
        ∧ (f.accs.map (·.lane)).Nodup ∧ f.failed = 0 ∧ ∀ a ∈ f.accs, a.lane < 64 ∧ a.last = true ∧ a.reg = 0) && decide (f.left = [⟨0, .glob 0 0, 1, [], 0, 0, true⟩] ∧ f.instr = i)
      | none => false) = true := by decide +kernel
  have k : ([.cunlk 4, .cinv 4, .cwb 4, .pref 4 0, .clock 7 4] : List Instr).all (fun i => [aloft i [⟨0, .spad 0, 1, [], 0, 0, true⟩] .scalar 7 1].all
      fun s => match s.flightAt 3 0 with
      | some (g, f, _, l) => decide (g.ref = 3 ∧ f.fid = 0 ∧ s.performable g f l.tid = true ∧ g.trap.replay = [] ∧ g.busy = []
        ∧ (f.accs.map (·.lane)).Nodup ∧ f.failed = 0 ∧ ∀ a ∈ f.accs, a.lane < 64 ∧ a.last = true ∧ a.reg = 0) && decide (f.left = [⟨0, .spad 0, 1, [], 0, 0, true⟩] ∧ f.instr = i)
      | none => false) = true := by decide +kernel
  intro i hi
  have h := List.all_eq_true.mp h i hi
  have k := List.all_eq_true.mp k i hi
  exact ⟨cacheOn (a := ⟨0, .glob 0 0, 1, [], 0, 0, true⟩) (by simpa only [List.all_cons, List.all_nil, Bool.and_true] using h),
    cacheOn (a := ⟨0, .spad 0, 1, [], 0, 0, true⟩) (by simpa only [List.all_cons, List.all_nil, Bool.and_true] using k)⟩

/-- CLOCK of a line that is not locked yet: L2 holds it, with a quota of none, of one, and with four locked lines in its set; and a line of a page
that is not cached. -/
def quotaOf (n : Nat) (s : State) : State := s.modCtx 4 fun c => { c with lockq := n }
def lockedSet (s : State) : State := s.modCore 0 fun c => { c with
  l1 := (List.range 4).map fun i => { line1 with gline := gia 2 0 / 128 + 128 * i, lock := 1 } }
def clocking : State := one (.clock 7 4) (.glob 0 0) 1 [] .scalar 7 1
def uncached (s : State) : State := { s with tlb := [⟨gia 1 0 / 128, 1, 0, 32, 0, true, true, false⟩] }

abbrev ClockOf (s : State) (mine inSet : Nat) : Prop := ∃ g f t l, Turn s g f t l ∧ PacerStays s t
  ∧ f.instr = .clock 7 4 ∧ f.left = [⟨0, .glob 0 0, 1, [], 0, 0, true⟩] ∧ l.tid = 1 ∧ l.cid = 4 ∧ (s.coreOf t.core).l1? (gia 1 0 / 128) = none
  ∧ ((s.coreOf t.core).l1.filter fun n => glineTid n.gline = 1 ∧ n.lock.getLsbD 0 = true).length = mine
  ∧ ((s.coreOf t.core).l1.filter fun n => n.gline % 128 = gia 1 0 / 128 % 128 ∧ n.lock ≠ 0).length = inSet

theorem witness_clock : ClockOf (inL2 (quotaOf 0 clocking)) 0 0 ∧ ClockOf (inL2 (quotaOf 1 clocking)) 0 0
    ∧ ClockOf (lockedSet (inL2 (quotaOf 1 clocking))) 0 4 ∧ (∀ s, HeldInL2 (inL2 s) (gia 1 0 / 128) 0 128
      ((List.range 128).map fun k => lineByte line1.data (0 + k)))
    ∧ (∀ n, n < 2 → ((quotaOf n clocking).ctx 4).lockq = n ∧ (quotaOf n clocking).bad = [] ∧ ((quotaOf n clocking).frame 32).damaged = false)
    ∧ (∃ g f t l, Turn (uncached clocking) g f t l ∧ PacerStays (uncached clocking) t ∧ f.instr = .clock 7 4 ∧ f.left = [⟨0, .glob 0 0, 1, [], 0, 0, true⟩]
      ∧ ((uncached clocking).coreOf t.core).l1? (gia l.tid 0 / 128) = none
      ∧ ((uncached clocking).translate (glineTid (gia l.tid 0 / 128)) (glineTia (gia l.tid 0 / 128))).2.toOption = some ⟨32, 0, true, true, false⟩)
    ∧ (uncached clocking).l2 = [] :=
  ⟨turnsTo (by decide +kernel), turnsTo (by decide +kernel), turnsTo (by decide +kernel), fun s => heldL2 s 0 128, by decide +kernel,
    turnsTo (by decide +kernel), by decide +kernel⟩

theorem witness_clock_locked : ∃ n, ((locked (place .nop)).coreOf 0).l1? (gia 1 0 / 128) = some n ∧ n.lock.getLsbD (4 % 4) = true :=
  ⟨{ line1 with lock := 1 }, by decide +kernel⟩

/-! ### Division -/

theorem witness_divide : ∀ i ∈ ([.sdiv 10 11 12 2 0, .sdivu 10 11 12 0 1, .srem 0 11 12 15 0, .sremu 10 11 12 0 1, .vfdiv 6 4 5 0 0 1, .vfdiv 6 4 8 0 1 0] :
    List Instr), ∃ x, Issues (place i) x i ∧ x.exec 0 ≠ 0 ∧ x.g.hlevel = 0 := meets_all (by decide +kernel)

theorem witness_divide_none : ∃ x, Issues (place (.vfdiv 6 4 5 1 0 1)) x (.vfdiv 6 4 5 1 0 1) ∧ x.exec 1 = 0 := meets (by decide +kernel)

/-- The most negative number over −1 in flight, and a quotient of lane 0. -/
def divided (i : Instr) (opnds : List W64) (accs : List LaneAcc) (file : RegFile) (dst ndst : Nat) : State :=
  onG (fun g => { g with flights := [{ fl i with exec := 1, opnds := opnds, accs := accs, file := file, dst := dst, ndst := ndst }] }) (place .nop)

theorem witness_divide_scalar : ∀ i ∈ ([.sdiv 10 11 12 2 0, .sdivu 10 11 12 0 1, .srem 0 11 12 15 0, .sremu 10 11 12 0 1] : List Instr),
    ∃ g f, (divided i [0x8000000000000000, BitVec.allOnes 64] [] .scalar 10 1).group? g.ref = some g ∧ g.flight? f.fid = some f ∧ g.busy = []
      ∧ f.instr = i ∧ f.opnds = [0x8000000000000000, BitVec.allOnes 64] := fun i hi =>
  have h : ([.sdiv 10 11 12 2 0, .sdivu 10 11 12 0 1, .srem 0 11 12 15 0, .sremu 10 11 12 0 1] : List Instr).all (fun i =>
    match (divided i [0x8000000000000000, BitVec.allOnes 64] [] .scalar 10 1).groups with
    | [g] => match g.flights with
      | [f] => decide ((divided i [0x8000000000000000, BitVec.allOnes 64] [] .scalar 10 1).group? g.ref = some g ∧ g.flight? f.fid = some f ∧ g.busy = []
        ∧ f.instr = i ∧ f.opnds = [0x8000000000000000, BitVec.allOnes 64])
      | _ => false
    | _ => false) = true := by decide +kernel
  by
    have h := List.all_eq_true.mp h i hi
    split at h
    · split at h
      · exact ⟨_, _, of_decide_eq_true h⟩
      · cases h
    · cases h

theorem witness_divide_lanes : ∃ g f, (divided (.vfdiv 6 4 5 0 0 1) [] [⟨0, .spad 0, 4, [0x3F800000, 0], 0, 0, true⟩] .lane 6 1).group? g.ref = some g
    ∧ g.flight? f.fid = some f ∧ g.busy = [] ∧ f.instr = .vfdiv 6 4 5 0 0 1 ∧ f.inLanes g ∧ (f.accs.map (·.lane)).Nodup
    ∧ (∀ a ∈ f.accs, a.lane < 64 ∧ a.data.length = 2) ∧ f.ndst = 1 := by
  have h : (match (divided (.vfdiv 6 4 5 0 0 1) [] [⟨0, .spad 0, 4, [0x3F800000, 0], 0, 0, true⟩] .lane 6 1).groups with
    | [g] => match g.flights with
      | [f] => decide ((divided (.vfdiv 6 4 5 0 0 1) [] [⟨0, .spad 0, 4, [0x3F800000, 0], 0, 0, true⟩] .lane 6 1).group? g.ref = some g
        ∧ g.flight? f.fid = some f ∧ g.busy = [] ∧ f.instr = .vfdiv 6 4 5 0 0 1 ∧ (f.file = .lane ∧ f.dst + f.ndst ≤ g.nregs)
        ∧ (f.accs.map (·.lane)).Nodup ∧ (∀ a ∈ f.accs, a.lane < 64 ∧ a.data.length = 2) ∧ f.ndst = 1)
      | _ => false
    | _ => false) = true := by decide +kernel
  split at h
  · split at h
    · obtain ⟨a, b, c, d, ⟨e, e'⟩, f, g, i⟩ := of_decide_eq_true h
      exact ⟨_, _, a, b, c, d, ⟨e, .inl e'⟩, f, g, i⟩
    · cases h
  · cases h

/-! ### The matrix engine -/

/-- FMT of a quad-set. -/
def fmt (w : W64) : State → State := onQ fun q => { q with fmt := w }

/-- I8 by I8 into I32, I4 by I4, and I8 by Z8; and side data every nibble of which has two bits set. -/
def int8 : W64 := 0x31CE
def int4 : W64 := 0x3210
def int8z : W64 := 0x328E
def sided : State → State := onT fun t => { t with tables := [(0, ⟨[], (List.range 256).map fun i => (i, 0x33), [], []⟩)] }

/-- MatrixIssue: every check passed. -/
abbrev MatrixPasses (s : State) (mms : Bool) (vc : BitVec 7) (sA : Option (BitVec 5)) (va : BitVec 7) (sB : BitVec 5) (o : MOp) (x : Iss) : Prop :=
  matrixAcc o.af o.bf (x.q.fmt.getLsbD 18) = some o.cf ∧ (mms = true → isCplxFmt o.af = false) ∧ x.g.hlevel = 0 ∧ x.g.nregs ≤ 128
    ∧ (vc.toNat % 8 = 0 ∧ vc.toNat + (if o.cf = 0x00 ∨ o.cf = 0x1F then 32 else 16) ≤ x.g.nregs)
    ∧ (sA = none → va.toNat % 8 = 0 ∧ va.toNat + (if mms then 32 else 16) ≤ x.g.nregs)
    ∧ (∀ n ∈ [1, 2, 7], featOn x.l.feat n = true) ∧ (mms = true → ∀ f ∈ x.g.flights, isTableOp f.instr = false)
    ∧ (sA.bind fun a => layoutCheck o x.t (x.s a.toNat) (x.exec 0)) = none
    ∧ descriptorCheck o (x.t.tableSet x.g.part) (fun a => s.bad.contains (9, whereTable x.t.core x.g.part 1 a)) (x.s sB.toNat) (x.exec 0) = none

theorem witness_matrix_issue :
    (∃ x, Issues (fmt int8 (place (.mma 32 8 9 1 15))) x (.mma 32 8 9 1 15) ∧ x.q.hold = none ∧ x.exec 0 ≠ 0
      ∧ MatrixPasses (fmt int8 (place (.mma 32 8 9 1 15))) false 32 (some 8) 0 9 (mop false x.q.fmt (x.s 9)) x)
    ∧ (∃ x, Issues (fmt int8 (place (.mmaR 112 64 9 0 0))) x (.mmaR 112 64 9 0 0) ∧ x.q.hold = none ∧ x.exec 0 ≠ 0
      ∧ MatrixPasses (fmt int8 (place (.mmaR 112 64 9 0 0))) false 112 none 64 9 (mop false x.q.fmt (x.s 9)) x)
    ∧ (∃ x, Issues (sided (fmt int8 (place (.mms 32 8 9 0 3)))) x (.mms 32 8 9 0 3) ∧ x.q.hold = none ∧ x.exec 0 ≠ 0
      ∧ MatrixPasses (sided (fmt int8 (place (.mms 32 8 9 0 3)))) true 32 (some 8) 0 9 (mop true x.q.fmt (x.s 9)) x)
    ∧ (∃ x, Issues (sided (fmt int8 (place (.mmsR 32 96 9 1 0)))) x (.mmsR 32 96 9 1 0) ∧ x.q.hold = none ∧ x.exec 0 ≠ 0
      ∧ MatrixPasses (sided (fmt int8 (place (.mmsR 32 96 9 1 0)))) true 32 none 96 9 (mop true x.q.fmt (x.s 9)) x)
    ∧ ∃ x, Issues (onG (fun g => { g with regs := { g.regs with live := 0 } }) (fmt int8 (place (.mma 32 8 9 1 15)))) x (.mma 32 8 9 1 15)
      ∧ x.q.hold = none ∧ x.exec 0 = 0 ∧ MatrixPasses (onG (fun g => { g with regs := { g.regs with live := 0 } }) (fmt int8 (place (.mma 32 8 9 1 15)))) false 32 (some 8) 0 9 (mop false x.q.fmt (x.s 9)) x :=
  ⟨meets (by decide +kernel), meets (by decide +kernel), meets (by decide +kernel), meets (by decide +kernel), meets (by decide +kernel)⟩

theorem witness_mms_waits : ∃ x, Issues (flying (.spload 4 6 0) (fmt int8 (place (.mms 32 8 9 0 3)))) x (.mms 32 8 9 0 3)
    ∧ ∃ f ∈ x.g.flights, isTableOp f.instr = true := meets (by decide +kernel)

/-- MatrixChecks: an operation in layout form on one lane, its formats and the words of s8 and s9; what its statement assumes; and each check
in turn. -/
def mat (i : Instr) (f lw bd : W64) : State := scal [(8, lw), (9, bd)] (lone (fmt f (place i)))
def fieldOf (w : W64) (lo n : Nat) : Nat := (w.extractLsb' lo n).toNat
abbrev Judged (mms : Bool) (s : State) (x : Iss) : Prop := matrixUndef mms 32 none 9 x s = false ∧ (∀ n ∈ [1, 2, 7], featOn x.l.feat n = true)
  ∧ (mms = true → ∀ k ∈ x.g.flights, isTableOp k.instr = false) ∧ x.exec 0 ≠ 0 ∧ s.bad = []
abbrev LayoutHolds (x : Iss) : Prop := fieldOf (x.s 8) 40 24 = 0 ∧ fieldOf (x.s 8) 0 20 % 16 = 0 ∧ fieldOf (x.s 8) 20 16 % 16 = 0
  ∧ (x.s 8).getLsbD 36 = false
abbrev AFine (o : MOp) (x : Iss) : Prop := LayoutHolds x ∧ ∀ a ∈ aOffsets o (x.s 8) (x.exec 0), a < x.t.spadBytes
  ∧ (tget 0 x.t.tags (a / 2048)).toNat = fieldOf (x.s 8) 37 3
abbrev WordHolds (x : Iss) : Prop := fieldOf (x.s 9) 53 11 = 0 ∧ (x.s 9).getLsbD 23 = false ∧ fieldOf (x.s 9) 0 18 % 64 = 0
  ∧ fieldOf (x.s 9) 24 14 % 8 = 0

theorem witness_layout_words :
    (∃ x, Issues (mat (.mma 32 8 9 0 0) int8 1 0) x (.mma 32 8 9 0 0) ∧ Judged false (mat (.mma 32 8 9 0 0) int8 1 0) x ∧ fieldOf (x.s 8) 0 20 % 16 ≠ 0)
    ∧ (∃ x, Issues (mat (.mma 32 8 9 0 0) int4 0x1000000000 0) x (.mma 32 8 9 0 0) ∧ Judged false (mat (.mma 32 8 9 0 0) int4 0x1000000000 0) x
      ∧ (x.s 8) = 0x1000000000 ∧ mContainer (mop false x.q.fmt (x.s 9)).af < 8)
    ∧ (∃ x, Issues (mat (.mma 32 8 9 0 0) int8 0x10000 0) x (.mma 32 8 9 0 0) ∧ Judged false (mat (.mma 32 8 9 0 0) int8 0x10000 0) x
      ∧ LayoutHolds x ∧ ∃ a ∈ aOffsets (mop false x.q.fmt (x.s 9)) (x.s 8) (x.exec 0), x.t.spadBytes ≤ a)
    ∧ ∃ x, Issues (mat (.mma 32 8 9 0 0) int8 0x2000000000 0) x (.mma 32 8 9 0 0) ∧ Judged false (mat (.mma 32 8 9 0 0) int8 0x2000000000 0) x
      ∧ LayoutHolds x ∧ (∀ a ∈ aOffsets (mop false x.q.fmt (x.s 9)) (x.s 8) (x.exec 0), a < x.t.spadBytes)
      ∧ ∃ a ∈ aOffsets (mop false x.q.fmt (x.s 9)) (x.s 8) (x.exec 0), (tget 0 x.t.tags (a / 2048)).toNat ≠ fieldOf (x.s 8) 37 3 :=
  ⟨meets (by decide +kernel), meets (by decide +kernel), meets (by decide +kernel), meets (by decide +kernel)⟩

theorem witness_descriptors :
    (∃ x, Issues (mat (.mma 32 8 9 0 0) int8 0 1) x (.mma 32 8 9 0 0) ∧ Judged false (mat (.mma 32 8 9 0 0) int8 0 1) x
      ∧ AFine (mop false x.q.fmt (x.s 9)) x ∧ fieldOf (x.s 9) 0 18 % 64 ≠ 0)
    ∧ (∃ x, Issues (mat (.mma 32 8 9 0 0) int8 0 0x3FFC0) x (.mma 32 8 9 0 0) ∧ Judged false (mat (.mma 32 8 9 0 0) int8 0 0x3FFC0) x
      ∧ AFine (mop false x.q.fmt (x.s 9)) x ∧ WordHolds x ∧ 262144 < fieldOf (x.s 9) 0 18 + (mop false x.q.fmt (x.s 9)).tileBytes)
    ∧ (∃ x, Issues (mat (.mma 32 8 9 0 0) int8z 0 0x3FFC000000000) x (.mma 32 8 9 0 0) ∧ Judged false (mat (.mma 32 8 9 0 0) int8z 0 0x3FFC000000000) x
      ∧ AFine (mop false x.q.fmt (x.s 9)) x ∧ WordHolds x ∧ fieldOf (x.s 9) 0 18 + (mop false x.q.fmt (x.s 9)).tileBytes ≤ 262144
      ∧ isZFmt (mop false x.q.fmt (x.s 9)).bf = true ∧ 4096 < fieldOf (x.s 9) 38 12 + 16 * (mop false x.q.fmt (x.s 9)).blocks)
    ∧ (∃ x, Issues (mat (.mms 32 8 9 0 0) int8 0 0x3FF8000000) x (.mms 32 8 9 0 0) ∧ Judged true (mat (.mms 32 8 9 0 0) int8 0 0x3FF8000000) x
      ∧ AFine (mop true x.q.fmt (x.s 9)) x ∧ WordHolds x ∧ fieldOf (x.s 9) 0 18 + (mop true x.q.fmt (x.s 9)).tileBytes ≤ 262144
      ∧ isZFmt (mop true x.q.fmt (x.s 9)).bf = false ∧ 16384 < fieldOf (x.s 9) 24 14 + 2 * (mop true x.q.fmt (x.s 9)).k)
    ∧ ∃ x, Issues (mat (.mms 32 8 9 0 0) int8 0 0) x (.mms 32 8 9 0 0) ∧ Judged true (mat (.mms 32 8 9 0 0) int8 0 0) x
      ∧ AFine (mop true x.q.fmt (x.s 9)) x ∧ WordHolds x ∧ fieldOf (x.s 9) 0 18 + (mop true x.q.fmt (x.s 9)).tileBytes ≤ 262144
      ∧ isZFmt (mop true x.q.fmt (x.s 9)).bf = false ∧ fieldOf (x.s 9) 24 14 + 2 * (mop true x.q.fmt (x.s 9)).k ≤ 16384
      ∧ 0 < (mop true x.q.fmt (x.s 9)).k / 4 ∧ onesBelow (nibble (x.t.tableSet x.g.part).side 0 0 0) 4 ≠ 2 :=
  ⟨meets (by decide +kernel), meets (by decide +kernel), meets (by decide +kernel), meets (by decide +kernel), meets (by decide +kernel)⟩

/-- An option holds something that meets a condition. -/
theorem holds {α : Type} {o : Option α} {p : α → Prop} [DecidablePred p] (h : (o.any fun a => decide (p a)) = true) :
    ∃ a, o = some a ∧ p a := by
  cases o with
  | none => cases h
  | some a => exact ⟨a, rfl, of_decide_eq_true h⟩

/-- MatrixWork: the oldest operation of the partition, whose set is the team's; one consumed, whose result is to be written. -/
def owned (s : State) : State := s.modCore 0 fun c => { c with owner := [(0, 3)] }
def matOp (consumed : Bool) : State := onG (fun g => { g with flights := [{ fl (.mma 32 8 9 1 15) with
  fmt := int8, exec := 1, opnds := [0, 0], file := .lane, dst := 32, ndst := 16, consumed := consumed }] }) (owned (place .nop))

theorem witness_consume : ∃ r, (matOp false).flightAt 3 0 = some r ∧ r.1.ref = 3 ∧ r.2.1.fid = 0 ∧ consumeDue (matOp false) 3 0 = true
    ∧ (matOp false).bad = [] ∧ r.2.2.1.lost = [] ∧ PacerStays (matOp false) r.2.2.1 ∧ (let o := mop (isMms r.2.1.instr) r.2.1.fmt (r.2.1.opnds.headD 0)
      o.mms = false ∧ o.cf = 0x0C ∧ isIntFmt o.af = true ∧ isIntFmt o.bf = true ∧ r.2.1.fmt.getLsbD 17 = false ∧ r.2.1.fmt.getLsbD 18 = false) :=
  have ⟨r, h, p⟩ := holds (o := (matOp false).flightAt 3 0) (p := fun r => r.1.ref = 3 ∧ r.2.1.fid = 0 ∧ consumeDue (matOp false) 3 0 = true
    ∧ (matOp false).bad = [] ∧ r.2.2.1.lost = [] ∧ calm (matOp false) r.2.2.1 = true ∧ (mop (isMms r.2.1.instr) r.2.1.fmt (r.2.1.opnds.headD 0)).mms = false
    ∧ (mop (isMms r.2.1.instr) r.2.1.fmt (r.2.1.opnds.headD 0)).cf = 0x0C ∧ isIntFmt (mop (isMms r.2.1.instr) r.2.1.fmt (r.2.1.opnds.headD 0)).af = true
    ∧ isIntFmt (mop (isMms r.2.1.instr) r.2.1.fmt (r.2.1.opnds.headD 0)).bf = true ∧ r.2.1.fmt.getLsbD 17 = false ∧ r.2.1.fmt.getLsbD 18 = false)
    (by decide +kernel)
  ⟨r, h, p.1, p.2.1, p.2.2.1, p.2.2.2.1, p.2.2.2.2.1, calm_spec p.2.2.2.2.2.1, p.2.2.2.2.2.2⟩

theorem witness_matrix_result : ∃ g, (matOp true).group? 3 = some g ∧ g.ref = 3 ∧ g.busy = [] ∧ ∃ f, g.flight? 0 = some f ∧ f.fid = 0
    ∧ isMatrixOp f.instr = true ∧ f.consumed = true ∧ (∀ e ∈ g.before f.fid, isMatrixOp e.instr = false) ∧ f.inLanes g := by
  obtain ⟨g, h, h1, h2, h3⟩ := holds (o := (matOp true).group? 3) (p := fun g => g.ref = 3 ∧ g.busy = [] ∧ ((g.flight? 0).any fun f => decide (f.fid = 0
    ∧ isMatrixOp f.instr = true ∧ f.consumed = true ∧ (∀ e ∈ g.before f.fid, isMatrixOp e.instr = false)
    ∧ f.file = .lane ∧ f.dst + f.ndst ≤ g.nregs)) = true) (by decide +kernel)
  obtain ⟨f, k, k1, k2, k3, k4, k5⟩ := holds h3
  exact ⟨g, h, h1, h2, f, k, k1, k2, k3, k4, k5.1, .inl k5.2⟩

/-- TableLoads: bytes to load, none, a refusal, no lease; MZERO; a set of another team; a load and an MZERO that are due. -/
theorem witness_table_loads : ∀ i ∈ ([.wbload 4 5 15, .spload 4 5 0, .cbload 4 5 0, .zpload 4 5 0, .mzero 0] : List Instr),
    ∃ x, Issues (scal [(4, 2 ^ 63), (5, 64 * 2 ^ 32)] (place i)) x i
      ∧ ∀ arr ∈ [0, 1, 2, 3], loadCheck x ((scal [(4, 2 ^ 63), (5, 64 * 2 ^ 32)] (place i)).ctx x.l.cid) arr (x.s 4) (x.s 5) = none :=
  meets_all (by decide +kernel)

theorem witness_table_loads_not :
    (∃ x, Issues (scal [(4, 2 ^ 63), (5, 4096 * 2 ^ 32)] (place (.zpload 4 5 0))) x (.zpload 4 5 0)
      ∧ loadCheck x ((scal [(4, 2 ^ 63), (5, 4096 * 2 ^ 32)] (place (.zpload 4 5 0))).ctx x.l.cid) 3 (x.s 4) (x.s 5) = none)
    ∧ (∃ x, Issues (scal [(4, 2 ^ 63)] (place (.wbload 4 5 0))) x (.wbload 4 5 0) ∧ ((x.s 5).extractLsb' 32 19).toNat = 0
      ∧ loadCheck x ((scal [(4, 2 ^ 63)] (place (.wbload 4 5 0))).ctx x.l.cid) 0 (x.s 4) (x.s 5) = none)
    ∧ (∃ x, Issues (scal [(5, 2 ^ 63)] (place (.wbload 4 5 0))) x (.wbload 4 5 0)
      ∧ loadCheck x ((scal [(5, 2 ^ 63)] (place (.wbload 4 5 0))).ctx x.l.cid) 0 (x.s 4) (x.s 5) = some (.trap 6 0 8))
    ∧ ∃ x, Issues (scal [(5, 64 * 2 ^ 32)] (place (.wbload 4 5 0))) x (.wbload 4 5 0)
      ∧ loadCheck x ((scal [(5, 64 * 2 ^ 32)] (place (.wbload 4 5 0))).ctx x.l.cid) 0 (x.s 4) (x.s 5) = some .lease :=
  ⟨meets (by decide +kernel), meets (by decide +kernel), meets (by decide +kernel), meets (by decide +kernel)⟩

theorem witness_table_switch : ∃ t, (onG (fun g => { g with flights := [fl (.mzero 0)] }) (place .nop)).team? 2 = some t ∧ t.ref = 2
    ∧ switchDue (onG (fun g => { g with flights := [fl (.mzero 0)] }) (place .nop)) 2 0 = true := holds (by decide +kernel)

theorem witness_table_write : ∀ i ∈ ([.wbload 4 5 15, .mzero 0] : List Instr), ∃ r,
    (onG (fun g => { g with flights := [{ fl i with opnds := [2 ^ 63, 64 * 2 ^ 32] }] }) (owned (place .nop))).flightAt 3 0 = some r
    ∧ r.1.ref = 3 ∧ r.2.1.fid = 0 ∧ r.2.1.instr = i ∧ r.2.1.opnds = [2 ^ 63, 64 * 2 ^ 32] ∧ r.1.trap.replay = [] ∧ r.1.busy = [] ∧ r.2.2.1.lost = []
    ∧ tableDue (onG (fun g => { g with flights := [{ fl i with opnds := [2 ^ 63, 64 * 2 ^ 32] }] }) (owned (place .nop))) 3 0 = true
    ∧ PacerStays (onG (fun g => { g with flights := [{ fl i with opnds := [2 ^ 63, 64 * 2 ^ 32] }] }) (owned (place .nop))) r.2.2.1 := by
  have h : ([.wbload 4 5 15, .mzero 0] : List Instr).all (fun i =>
    ((onG (fun g => { g with flights := [{ fl i with opnds := [2 ^ 63, 64 * 2 ^ 32] }] }) (owned (place .nop))).flightAt 3 0).any fun r => decide (r.1.ref = 3 ∧ r.2.1.fid = 0 ∧ r.2.1.instr = i ∧ r.2.1.opnds = [2 ^ 63, 64 * 2 ^ 32] ∧ r.1.trap.replay = [] ∧ r.1.busy = [] ∧ r.2.2.1.lost = []
      ∧ tableDue (onG (fun g => { g with flights := [{ fl i with opnds := [2 ^ 63, 64 * 2 ^ 32] }] }) (owned (place .nop))) 3 0 = true
      ∧ calm (onG (fun g => { g with flights := [{ fl i with opnds := [2 ^ 63, 64 * 2 ^ 32] }] }) (owned (place .nop))) r.2.2.1 = true)) = true := by decide +kernel
  intro i hi
  obtain ⟨r, h, a, b, c, d, e, f, n, k, m⟩ := holds (List.all_eq_true.mp h i hi)
  exact ⟨r, h, a, b, c, d, e, f, n, k, calm_spec m⟩

/-- MatrixWork: integers with and without SAT, floats, block-scaled integers, F64, complex numbers, and a sparse operation. -/
def matOf (i : Instr) (w : W64) (n : Nat) : State := sided (onG (fun g => { g with flights := [{ fl i with
  fmt := w, exec := 1, opnds := [0, 0], file := .lane, dst := 32, ndst := n }] }) (owned (place .nop)))

theorem witness_consume_formats : ∀ e ∈ ([(.mma 32 8 9 0 15, int8 + 0x20000, 0x0C, 16), (.mma 32 8 9 0 15, 0x442, 0x01, 16),
      (.mma 32 8 9 0 15, 0x4068E, 0x01, 16), (.mma 32 8 9 0 15, 0, 0x00, 32), (.mma 32 8 9 0 15, 0x7FDE, 0x1F, 32), (.mms 32 8 9 0 3, int8, 0x0C, 16)] :
      List (Instr × W64 × Nat × Nat)), ∃ r, (matOf e.1 e.2.1 e.2.2.2).flightAt 3 0 = some r ∧ r.1.ref = 3 ∧ r.2.1.fid = 0
    ∧ consumeDue (matOf e.1 e.2.1 e.2.2.2) 3 0 = true ∧ (matOf e.1 e.2.1 e.2.2.2).bad = [] ∧ r.2.2.1.lost = []
    ∧ PacerStays (matOf e.1 e.2.1 e.2.2.2) r.2.2.1 ∧ bit r.2.1.exec 0 = true ∧ r.2.1.fmt = e.2.1
    ∧ (mop (isMms r.2.1.instr) r.2.1.fmt (r.2.1.opnds.headD 0)).cf = e.2.2.1
    ∧ (matrixAcc (mop false r.2.1.fmt 0).af (mop false r.2.1.fmt 0).bf (r.2.1.fmt.getLsbD 18)) = some e.2.2.1 := by
  intro e he
  have h : ∃ r, (matOf e.1 e.2.1 e.2.2.2).flightAt 3 0 = some r ∧ r.1.ref = 3 ∧ r.2.1.fid = 0
      ∧ consumeDue (matOf e.1 e.2.1 e.2.2.2) 3 0 = true ∧ (matOf e.1 e.2.1 e.2.2.2).bad = [] ∧ r.2.2.1.lost = []
      ∧ calm (matOf e.1 e.2.1 e.2.2.2) r.2.2.1 = true ∧ bit r.2.1.exec 0 = true ∧ r.2.1.fmt = e.2.1
      ∧ (mop (isMms r.2.1.instr) r.2.1.fmt (r.2.1.opnds.headD 0)).cf = e.2.2.1
      ∧ (matrixAcc (mop false r.2.1.fmt 0).af (mop false r.2.1.fmt 0).bf (r.2.1.fmt.getLsbD 18)) = some e.2.2.1 := by
    simp only [List.mem_cons, List.not_mem_nil, or_false] at he
    rcases he with rfl | rfl | rfl | rfl | rfl | rfl <;> exact holds (by decide +kernel)
  obtain ⟨r, h, a, b, c, d, k, m, n⟩ := h
  exact ⟨r, h, a, b, c, d, k, calm_spec m, n⟩

/-- TableLoads, a refused WBLOAD: the words of s4 and s5, and what is true of the bytes from ADDR on. -/
abbrev addrOf (x : Iss) : Nat := fieldOf (x.s 4) 0 48
abbrev lenOf (x : Iss) : Nat := fieldOf (x.s 5) 32 19
abbrev WordsFine (x : Iss) : Prop := (x.s 4).extractLsb' 48 12 = 0 ∧ (x.s 5).extractLsb' 51 13 = 0 ∧ (x.s 5).extractLsb' 19 13 = 0
  ∧ ((x.s 4).getLsbD 63 = false → (x.s 4).extractLsb' 60 3 = 0) ∧ ((x.s 4).getLsbD 63 = true → addrOf x < 2 ^ 32)
abbrev GrainFine (x : Iss) : Prop := fieldOf (x.s 5) 0 19 % 64 = 0 ∧ lenOf x % 64 = 0
abbrev ArrayFine (x : Iss) : Prop := fieldOf (x.s 5) 0 19 + lenOf x ≤ 262144
abbrev LeasedAll (x : Iss) (a : Nat) : Prop := (x.l.leases.any fun e => decide (e.base ≤ a) && decide (a < e.base + e.len)) = true
/-- Byte k of those read is the first with a property. -/
abbrev FirstAt (n : Nat) (p : Nat → Bool) (k : Nat) : Prop := k < n ∧ p k = true ∧ ∀ j, j < k → p j = false
def wbload (src dst : W64) : State := scal [(4, src), (5, dst)] (place (.wbload 4 5 0))
abbrev LoadMeets (s : State) (p : Iss → Prop) : Prop := ∃ x, Issues s x (.wbload 4 5 0) ∧ p x

theorem witness_table_words : LoadMeets (wbload (2 ^ 48) 0) (fun x => (x.s 4).extractLsb' 48 12 ≠ 0)
    ∧ LoadMeets (wbload (2 ^ 60) 0) (fun x => (x.s 4).getLsbD 63 = false ∧ (x.s 4).extractLsb' 60 3 ≠ 0)
    ∧ LoadMeets (wbload (2 ^ 63) 1) (fun x => WordsFine x ∧ fieldOf (x.s 5) 0 19 % 64 ≠ 0)
    ∧ LoadMeets (wbload (2 ^ 63) (2 ^ 32)) (fun x => WordsFine x ∧ lenOf x % 64 ≠ 0)
    ∧ LoadMeets (wbload (2 ^ 63) (262080 + 2 ^ 39)) (fun x => WordsFine x ∧ GrainFine x ∧ 262144 < fieldOf (x.s 5) 0 19 + lenOf x) :=
  ⟨meets (by decide +kernel), meets (by decide +kernel), meets (by decide +kernel), meets (by decide +kernel), meets (by decide +kernel)⟩

theorem witness_table_global : LoadMeets (wbload (2 ^ 48 - 16) (2 ^ 38))
      (fun x => WordsFine x ∧ GrainFine x ∧ ArrayFine x ∧ (x.s 4).getLsbD 63 = false ∧ FirstAt (lenOf x) (fun k => decide (2 ^ 48 ≤ addrOf x + k)) 16)
    ∧ LoadMeets (wbload 0 (2 ^ 38)) (fun x => WordsFine x ∧ GrainFine x ∧ ArrayFine x ∧ (x.s 4).getLsbD 63 = false ∧ addrOf x + lenOf x < 2 ^ 48
      ∧ FirstAt (lenOf x) (fun k => decide ¬LeasedAll x (addrOf x + k)) 0)
    ∧ LoadMeets (leased (wbload 0 (2 ^ 38))) (fun x => WordsFine x ∧ GrainFine x ∧ ArrayFine x ∧ (x.s 4).getLsbD 63 = false
      ∧ addrOf x + lenOf x < 2 ^ 48 ∧ (∀ k, k < lenOf x → LeasedAll x (addrOf x + k)) ∧ ((wbload 0 (2 ^ 38)).ctx x.l.cid).segOf (addrOf x) = none)
    ∧ LoadMeets (leased (closed (wbload 0 (2 ^ 38)))) (fun x => WordsFine x ∧ GrainFine x ∧ ArrayFine x ∧ (x.s 4).getLsbD 63 = false
      ∧ addrOf x + lenOf x < 2 ^ 48 ∧ (∀ k, k < lenOf x → LeasedAll x (addrOf x + k))
      ∧ (((closed (wbload 0 (2 ^ 38))).ctx x.l.cid).segOf (addrOf x)).any (fun n => !(((closed (wbload 0 (2 ^ 38))).ctx x.l.cid).seg n 3).getLsbD 0) = true)
    ∧ LoadMeets (leased (beside (wbload 0 (2 ^ 38)))) (fun x => WordsFine x ∧ GrainFine x ∧ ArrayFine x ∧ (x.s 4).getLsbD 63 = false
      ∧ addrOf x + lenOf x < 2 ^ 48 ∧ (∀ k, k < lenOf x → LeasedAll x (addrOf x + k)
        ∧ (((beside (wbload 0 (2 ^ 38))).ctx x.l.cid).segOf (addrOf x + k)).any (fun n => (((beside (wbload 0 (2 ^ 38))).ctx x.l.cid).seg n 3).getLsbD 0) = true)
      ∧ FirstAt (lenOf x) (fun k => match ((beside (wbload 0 (2 ^ 38))).ctx x.l.cid).place (addrOf x + k) with | some (_, .aperture _ _) => true | _ => false) 0) :=
  ⟨meets (by decide +kernel), meets (by decide +kernel), meets (by decide +kernel), meets (by decide +kernel), meets (by decide +kernel)⟩

theorem witness_table_spad : LoadMeets (wbload (2 ^ 63 + 65520) (2 ^ 38)) (fun x => WordsFine x ∧ GrainFine x ∧ ArrayFine x ∧ (x.s 4).getLsbD 63 = true
      ∧ FirstAt (lenOf x) (fun k => decide (x.t.spadBytes ≤ addrOf x + k)) 16)
    ∧ LoadMeets (leased (seg 1 (wbload 65520 (2 ^ 38)))) (fun x => WordsFine x ∧ GrainFine x ∧ ArrayFine x ∧ (x.s 4).getLsbD 63 = false
      ∧ (∀ k, k < lenOf x → LeasedAll x (addrOf x + k)) ∧ FirstAt (lenOf x) (fun k =>
        match ((seg 1 (wbload 65520 (2 ^ 38))).ctx x.l.cid).place (addrOf x + k) with | some (_, .spad o) => decide (x.t.spadBytes ≤ o) | _ => false) 16)
    ∧ LoadMeets (wbload (2 ^ 63 + 8) (2 ^ 38)) (fun x => WordsFine x ∧ GrainFine x ∧ ArrayFine x ∧ (x.s 4).getLsbD 63 = true
      ∧ addrOf x + lenOf x ≤ x.t.spadBytes ∧ addrOf x % 16 ≠ 0)
    ∧ LoadMeets (wbload (2 ^ 63 + 2 ^ 60 + 2016) (2 ^ 38)) (fun x => WordsFine x ∧ GrainFine x ∧ ArrayFine x ∧ (x.s 4).getLsbD 63 = true
      ∧ addrOf x + lenOf x ≤ x.t.spadBytes ∧ addrOf x % 16 = 0
      ∧ FirstAt (lenOf x) (fun k => decide ((tget 0 x.t.tags ((addrOf x + k) / 2048)).toNat ≠ fieldOf (x.s 4) 60 3)) 0)
    ∧ LoadMeets (wbload (2 ^ 63) 0) (fun x => WordsFine x ∧ GrainFine x ∧ ArrayFine x ∧ lenOf x = 0)
    ∧ LoadMeets (wbload (2 ^ 63) (2 ^ 38)) (fun x => WordsFine x ∧ GrainFine x ∧ ArrayFine x ∧ (x.s 4).getLsbD 63 = true ∧ lenOf x = 64
      ∧ addrOf x + lenOf x ≤ x.t.spadBytes ∧ addrOf x % 16 = 0
      ∧ ∀ k, k < 64 → (tget 0 x.t.tags ((addrOf x + k) / 2048)).toNat = fieldOf (x.s 4) 60 3) :=
  ⟨meets (by decide +kernel), meets (by decide +kernel), meets (by decide +kernel), meets (by decide +kernel), meets (by decide +kernel), meets (by decide +kernel)⟩

/-- WordRefused, by operands: a store at an aperture without BTE, an atomic in a host and in a fabric window without SYSATOM, of lanes and scalar;
F64, CPLX and K5 of a matrix operation. -/
abbrev Lies (s : State) (x : Iss) (va : Nat) (kind : Nat) : Prop := va < 2 ^ 48 ∧ ((s.ctx x.l.cid).segOf va).any (fun n =>
  decide ((((s.ctx x.l.cid).seg n 3).extractLsb' 8 3).toNat = kind)) = true

theorem lies {s : State} {x : Iss} {va kind : Nat} (h : Lies s x va kind) :
    va < 2 ^ 48 ∧ ∃ n, (s.ctx x.l.cid).segOf va = some n ∧ (((s.ctx x.l.cid).seg n 3).extractLsb' 8 3).toNat = kind := ⟨h.1, holds h.2⟩

abbrev LaneOff (i : Instr) (kind f : Nat) (w : W64) : Prop := ∃ x, Issues (feats w (seg (BitVec.ofNat 64 kind) (place i))) x i
  ∧ featOn x.l.feat f = false ∧ (laneForm i).any (fun a => !a.offset && bit (x.exec a.m) 31
    && decide (Lies (feats w (seg (BitVec.ofNat 64 kind) (place i))) x (a.ask x 31).addr kind)) = true

theorem witness_masked_lanes : LaneOff (.vst 8 4 4 0 0 0) 2 6 0x1BF ∧ LaneOff (.vstl 8 4 4 0 0 0) 2 6 0x1BF ∧ LaneOff (.vatom 8 4 6 0) 3 8 0xFF
    ∧ LaneOff (.vatom 8 4 6 0) 4 8 0xFF ∧ LaneOff (.vlda 8 4 4 1 0 0) 3 8 0xFF ∧ LaneOff (.vstl 8 4 4 1 0 0) 4 8 0xFF :=
  ⟨meets (by decide +kernel), meets (by decide +kernel), meets (by decide +kernel), meets (by decide +kernel), meets (by decide +kernel),
    meets (by decide +kernel)⟩

abbrev ScalarOff (i : Instr) (kind f : Nat) (w : W64) : Prop := ∃ x, Issues (feats w (seg (BitVec.ofNat 64 kind) (place i))) x i
  ∧ featOn x.l.feat f = false ∧ (scalarForm x i).any (fun a =>
    decide (Lies (feats w (seg (BitVec.ofNat 64 kind) (place i))) x a.addr.toNat kind)) = true

theorem witness_masked_scalar : ScalarOff (.sst 6 4 4 0) 2 6 0x1BF ∧ ScalarOff (.satom 5 4 6 0 0 0) 3 8 0xFF ∧ ScalarOff (.satom 5 4 6 0 0 0) 4 8 0xFF :=
  ⟨meets (by decide +kernel), meets (by decide +kernel), meets (by decide +kernel)⟩

theorem witness_masked_matrix :
    (∃ x, Issues (feats 0x1FD (fmt 0 (place (.mma 32 8 9 0 0)))) x (.mma 32 8 9 0 0)
      ∧ matrixUndef false 32 none 9 x (feats 0x1FD (fmt 0 (place (.mma 32 8 9 0 0)))) = false
      ∧ (mop false x.q.fmt (x.s 9)).af = 0 ∧ featOn x.l.feat 1 = false)
    ∧ (∃ x, Issues (feats 0x1FB (fmt 0x7FDE (place (.mma 32 8 9 0 0)))) x (.mma 32 8 9 0 0)
      ∧ matrixUndef false 32 none 9 x (feats 0x1FB (fmt 0x7FDE (place (.mma 32 8 9 0 0)))) = false
      ∧ isCplxFmt (mop false x.q.fmt (x.s 9)).af = true ∧ featOn x.l.feat 1 = true ∧ featOn x.l.feat 2 = false)
    ∧ ∃ x, Issues (feats 0x17F (fmt 0x782 (place (.mma 32 8 9 0 0)))) x (.mma 32 8 9 0 0)
      ∧ matrixUndef false 32 none 9 x (feats 0x17F (fmt 0x782 (place (.mma 32 8 9 0 0)))) = false
      ∧ (mop false x.q.fmt (x.s 9)).bf = 0x1C ∧ featOn x.l.feat 1 = true ∧ featOn x.l.feat 2 = true ∧ featOn x.l.feat 7 = false :=
  ⟨meets (by decide +kernel), meets (by decide +kernel), meets (by decide +kernel)⟩

/-! ### Words, steps, the invariant -/

/-- EncodeDecode and DecodeEncode, over words and over what is no instruction. -/
theorem witness_encode : Instr.wellFormed (.vadd 4 5 6 0 0) = true ∧ encode (.vadd 4 5 6 0 0) = some 0x02102860
    ∧ decodeWord 0x02102860 = .ok (.vadd 4 5 6 0 0) ∧ (0xDC000000#32).extractLsb' 25 7 = 0x6E ∧ (0xFC000000#32).extractLsb' 25 7 = 0x7E
    ∧ (0x3C000000#32).extractLsb' 25 7 = 0x1E := by decide +kernel

/-- StepRuns: a word that is an instruction, one that is none, no word, a quad-set passed over, and a step chosen from outside. -/
theorem witness_step : (∃ x, (place .nop).iss = some x ∧ (place .nop).agenda = [] ∧ (place .nop).mayIssue x = true
      ∧ ∃ w, x.q.word? = some w ∧ decodeWord w = .ok .nop)
    ∧ (∃ x, (State.reset.withFetchWord 32 0).iss = some x ∧ (State.reset.withFetchWord 32 0).mayIssue x = true
      ∧ ∃ w, x.q.word? = some w ∧ decodeWord w = .error .unlistedOpcode)
    ∧ (∃ x, (onQ (fun q => { q with clause := none }) (place .nop)).iss = some x
      ∧ (onQ (fun q => { q with clause := none }) (place .nop)).mayIssue x = true ∧ x.q.word? = none)
    ∧ (∃ x, (onG (fun g => { g with run := .halted }) (place .nop)).iss = some x
      ∧ (onG (fun g => { g with run := .halted }) (place .nop)).mayIssue x = false)
    ∧ (place .nop).focus.tail = [] ∧ ({ place .nop with focus := [⟨3, 0⟩, ⟨3, 0⟩] } : State).focus.tail ≠ []
    ∧ ({ place .nop with agenda := [.droopEvent 0] } : State).agenda = .droopEvent 0 :: [] ∧ ∀ t ∈ (place .nop).teams, t.asked = false := by
  refine ⟨?_, ?_, holds (by decide +kernel), holds (by decide +kernel), by decide +kernel, by decide +kernel, rfl, by decide +kernel⟩
  · obtain ⟨x, h, h2, h4, h3⟩ := holds (o := (place .nop).iss) (p := fun x => (place .nop).agenda = [] ∧ (place .nop).mayIssue x = true ∧ (x.q.word?.any fun w => decide (decodeWord w = .ok .nop)) = true) (by decide +kernel)
    exact ⟨x, h, h2, h4, holds h3⟩
  · obtain ⟨x, h, h4, h3⟩ := holds (o := (State.reset.withFetchWord 32 0).iss) (p := fun x => (State.reset.withFetchWord 32 0).mayIssue x = true ∧ (x.q.word?.any fun w =>
      decide (decodeWord w = .error .unlistedOpcode)) = true) (by decide +kernel)
    exact ⟨x, h, h4, holds h3⟩

/-- MemoryStaysCanonical: a state that keeps the form, and its step. -/
theorem witness_canonical : (place .nop).memWf ∧ ∃ t, step (place .nop) = .next t := by
  refine ⟨by decide +kernel, ?_⟩
  have h : (match step (place .nop) with | .next _ => true | _ => false) = true := by decide +kernel
  split at h
  · exact ⟨_, ‹_›⟩
  · cases h

/-! ### Launches and teams -/

/-- LaunchInstructions: the drain, each status in turn, and a launch that is posted. -/
theorem witness_launch_drain : ∃ x, Issues (flying (.vst 8 4 4 0 0 0) (place (.launch 3 20))) x (.launch 3 20) ∧ x.q.hold = none
    ∧ ∃ f ∈ x.g.flights, f.fid < (flying (.vst 8 4 4 0 0 0) (place (.launch 3 20))).next ∧ f.accesses = true := meets (by decide +kernel)

theorem witness_launch_depth : ∃ x, Issues (onL (fun l => { l with depth := 9 }) (place (.launch 3 20))) x (.launch 3 20) ∧ x.q.hold = none
    ∧ x.g.flights = [] ∧ x.l.depth = 9 := meets (by decide +kernel)

theorem witness_launch_group : ∃ x, Issues (onG (fun g => { g with gix := 1 }) (place (.launch 3 20))) x (.launch 3 20) ∧ x.q.hold = none
    ∧ x.g.flights = [] ∧ x.l.depth ≠ 9 ∧ x.g.gix ≠ 0 := meets (by decide +kernel)

theorem witness_launch_record : (∃ x, Issues (scal [(20, 32)] (place (.launch 3 20))) x (.launch 3 20) ∧ x.q.hold = none ∧ x.g.flights = []
      ∧ x.l.depth ≠ 9 ∧ x.g.gix = 0 ∧ (x.s 20).toNat % 64 ≠ 0)
    ∧ ∃ x, Issues (place (.launch 3 20)) x (.launch 3 20) ∧ x.q.hold = none ∧ x.g.flights = [] ∧ x.l.depth ≠ 9 ∧ x.g.gix = 0
      ∧ ((((place (.launch 3 20)).prep x).releaseL1 x.t.core x.l.tid).schedWords x.l.cid (x.s 20).toNat 8 false).2 = none :=
  ⟨meets (by decide +kernel), meets (by decide +kernel)⟩

/-- 64 launches of the tenant that wait on the die. -/
def crowd (s : State) : State := { s with launches := s.launches ++ (List.range 64).map fun n => Launch.new (100 + n) (100 + n) 1 4 1 0 none .posted [] }

theorem witness_launch_posts : (∃ x, Issues (paged 0 (seg 0 (place (.launch 3 20)))) x (.launch 3 20) ∧ x.q.hold = none ∧ x.g.flights = []
      ∧ x.l.depth ≠ 9 ∧ x.g.gix = 0 ∧ (x.s 20).toNat % 64 = 0
      ∧ ((((paged 0 (seg 0 (place (.launch 3 20)))).prep x).releaseL1 x.t.core x.l.tid).schedWords x.l.cid (x.s 20).toNat 8 false).2
        = some [0, 0, 0, 0, 0, 0, 0, 0]
      ∧ ((paged 0 (seg 0 (place (.launch 3 20)))).launches.filter fun l => l.state = .posted ∧ l.die = x.t.core / 48).length < 64)
    ∧ ∃ x, Issues (crowd (paged 0 (seg 0 (place (.launch 3 20))))) x (.launch 3 20) ∧ x.q.hold = none ∧ x.g.flights = []
      ∧ x.l.depth ≠ 9 ∧ x.g.gix = 0 ∧ (x.s 20).toNat % 64 = 0
      ∧ ((((crowd (paged 0 (seg 0 (place (.launch 3 20))))).prep x).releaseL1 x.t.core x.l.tid).schedWords x.l.cid (x.s 20).toNat 8 false).2
        = some [0, 0, 0, 0, 0, 0, 0, 0]
      ∧ 64 ≤ (((crowd (paged 0 (seg 0 (place (.launch 3 20))))).launches.filter fun l => l.state = .posted ∧ l.die = x.t.core / 48).filter
        fun l => l.tid = x.l.tid).length :=
  ⟨meets (by decide +kernel), meets (by decide +kernel)⟩

/-- LWAIT: no child, one that runs, one that is complete. -/
def child (st : LaunchState) (s : State) : State := { s with launches := s.launches ++ [Launch.new 100 7 1 4 1 0 (some 1) st []] }

theorem witness_lwait : (∃ x, Issues (place (.lwait 4 3)) x (.lwait 4 3) ∧ ∀ l ∈ (place (.lwait 4 3)).launches, ¬(l.parent = some x.l.ref ∧ l.handle = (x.s 3).toNat))
    ∧ (∃ x, Issues (child .running (scal [(3, 7)] (place (.lwait 4 3)))) x (.lwait 4 3) ∧ ∃ l ∈ (child .running (scal [(3, 7)] (place (.lwait 4 3)))).launches,
      l.parent = some x.l.ref ∧ l.handle = (x.s 3).toNat ∧ l.state ≠ .complete)
    ∧ ∃ x, Issues (child .complete (scal [(3, 7)] (place (.lwait 4 3)))) x (.lwait 4 3) ∧ ∃ l ∈ (child .complete (scal [(3, 7)] (place (.lwait 4 3)))).launches,
      l.parent = some x.l.ref ∧ l.handle = (x.s 3).toNat ∧ l.state = .complete :=
  ⟨meets (by decide +kernel), meets (by decide +kernel), meets (by decide +kernel)⟩

/-- Paddock 0 is the tenant's alone, or shared with tenant 2; its cores have reported. -/
def laid (third : W64) (s : State) : State :=
  { s with lodge := { s.lodge with bank0 := [(0, (1, 0, third))], boot := .ok }, cores := [(0, { Core.reset with reported := true }),
    (1, { Core.reset with reported := true })] }

/-- LaunchSteps: a live tenant, and a ring with an entry. -/
def base : State := place .nop
def ringed (s : State) : State := s.modTenant 1 fun t => { t with rings := [(0, ⟨4, 0, false, 0, 0, 1⟩)] }

theorem witness_rings : (ringed base).tenant 1 = { (base.tenant 1) with rings := [(0, ⟨4, 0, false, 0, 0, 1⟩)] } ∧ ((ringed base).tenant 1).live = true ∧ base.lodge.boot ≠ .failed
    ∧ ((ringed base).ringOf 1 0).head ≠ ((ringed base).ringOf 1 0).tail ∧ ∀ k ∈ (ringed base).launches, k.ref ≠ (ringed base).next := by decide +kernel

/-- A launch of the base state in another state. -/
def stage (st : LaunchState) (dep lease : Bool) (s : State) : State :=
  onL (fun l => { l with state := st, depOk := dep, leaseOk := lease, kernel := { l.kernel with paced := false } }) { s with teams := [], groups := [] }

theorem witness_launch_states : (∃ l, (stage .posted true true base).launch? 1 = some l ∧ l.ref = 1 ∧ l.state = .posted)
    ∧ (∃ l, (stage .queued false true base).launch? 1 = some l ∧ l.ref = 1 ∧ l.state = .queued ∧ l.depOk = false)
    ∧ (∃ l, (stage .queued true false base).launch? 1 = some l ∧ l.ref = 1 ∧ l.state = .queued ∧ l.leaseOk = false ∧ l.waiting = false
      ∧ (match (stage .queued true false base).residentFate l with | .ok fs => fs = [] | _ => False))
    ∧ (∃ l, (stage .draining true true base).launch? 1 = some l ∧ l.ref = 1 ∧ completionReady (stage .draining true true base) 1 = true) := by
  refine ⟨holds (by decide +kernel), holds (by decide +kernel), ?_, holds (by decide +kernel)⟩
  obtain ⟨l, h, h1, h2, h3, h4, h5⟩ := holds (o := (stage .queued true false base).launch? 1) (p := fun l => l.ref = 1 ∧ l.state = .queued ∧ l.leaseOk = false
    ∧ l.waiting = false ∧ (match (stage .queued true false base).residentFate l with | .ok fs => decide (fs = []) | _ => false) = true) (by decide +kernel)
  exact ⟨l, h, h1, h2, h3, h4, by split at h5 <;> simp_all⟩

/-- A resident lease on a page that has no translation. -/
theorem witness_resident_fault : ∃ l, (onL (fun l => { l with leases := [⟨false, false, 0, 65536⟩] }) (stage .queued true false base)).launch? 1 = some l
    ∧ l.ref = 1 ∧ l.state = .queued ∧ l.leaseOk = false ∧ l.waiting = false := holds (by decide +kernel)

theorem witness_placement : ∃ l, (laid 0 (stage .queued true true base)).launch? 1 = some l ∧ l.ref = 1 ∧ placementDue (laid 0 (stage .queued true true base)) 1 = true
    ∧ l.kernel.paced = false ∧ l.pace = [] ∧ (laid 0 (stage .queued true true base)).chooseCore l = some 0
    ∧ (∀ k ∈ (laid 0 (stage .queued true true base)).teams, k.ref < (laid 0 (stage .queued true true base)).next)
    ∧ ∀ k ∈ (laid 0 (stage .queued true true base)).groups, k.ref < (laid 0 (stage .queued true true base)).next := holds (by decide +kernel)

theorem witness_team_end : ∃ t, (onT (fun t => { t with state := .ending, pacer := none }) base).team? 2 = some t ∧ t.ref = 2
    ∧ (∃ l, (onT (fun t => { t with state := .ending, pacer := none }) base).launch? t.launch = some l)
    ∧ teamEndDue (onT (fun t => { t with state := .ending, pacer := none }) base) 2 = true := by
  obtain ⟨t, h, h1, h2, h3⟩ := holds (o := (onT (fun t => { t with state := .ending, pacer := none }) base).team? 2) (p := fun t => t.ref = 2
    ∧ ((onT (fun t => { t with state := .ending, pacer := none }) base).launch? t.launch).isSome
    ∧ teamEndDue (onT (fun t => { t with state := .ending, pacer := none }) base) 2 = true) (by decide +kernel)
  exact ⟨t, h, h1, Option.isSome_iff_exists.mp h2, h3⟩

/-! ### Halts and slices -/

/-- A team asked to halt whose time is up; one halted; one saved, with a core to go to. -/
def askedNow : State := onG (fun g => { g with preq := true, pleft := 0 }) (onT (fun t => { t with asked := true }) base)
def teamIn (st : TeamState) (gr : GRun) (s : State) : State :=
  onG (fun g => { g with run := gr }) (onT (fun t => { t with state := st, pacer := none })
    (onL (fun l => { l with kernel := { l.kernel with paced := false } }) s))

theorem witness_halts : (∃ t, askedNow.team? 2 = some t ∧ t.ref = 2 ∧ forcedDue askedNow 2 = true ∧ t.state = .running
      ∧ ∀ g ∈ askedNow.groupsOf 2, g.run ≠ .saved ∧ g.flights = [])
    ∧ (∃ t, (teamIn .halted .halted (laid 0 base)).team? 2 = some t ∧ t.ref = 2 ∧ t.state = .halted ∧ t.pacer = none
      ∧ restoreDue (teamIn .halted .halted (laid 0 base)) 2 = true)
    ∧ ∃ t, (teamIn .saved .saved (laid 0 base)).team? 2 = some t ∧ t.ref = 2 ∧ t.state = .saved
      ∧ restoreDue (teamIn .saved .saved (laid 0 base)) 2 = true ∧ (teamIn .saved .saved (laid 0 base)).restoreCore t = some 0 :=
  ⟨holds (by decide +kernel), holds (by decide +kernel), holds (by decide +kernel)⟩

/-- Slices: the first of a shared paddock; the end of one with no other tenancy that wants the paddock, and with one that does. -/
def sliced (s : State) : State := { s with lodge := { s.lodge with slices := [(0, ⟨1, 0, false⟩)] } }
def rival (s : State) : State := { s with launches := s.launches ++ s.launches.map fun l => { l with ref := 50, tid := 2, cid := 8, state := .queued } }

theorem witness_slices : sliceBeginDue (laid 0x800 (stage .queued true true base)) 0 1 = true
    ∧ (sliceEndDue (sliced (laid 0x800 base)) 0 = true ∧ (sliced (laid 0x800 base)).skipped 0 2 = true ∧ (sliced (laid 0x800 base)).ring 0 = [1, 2])
    ∧ (sliceEndDue (sliced (laid 0x800 (rival (teamIn .running .run base)))) 0 = true
      ∧ (sliced (laid 0x800 (rival (teamIn .running .run base)))).skipped 0 2 = false
      ∧ ∃ t ∈ (sliced (laid 0x800 (rival (teamIn .running .run base)))).teamsOn 0 1, t.state = .running) := by decide +kernel

/-- Debuggers: a core open to its owner, one that is halting. -/
theorem witness_debug : (laid 0 base).debugOpen 1 11 = true ∧ (laid 0 base).lentOn 1 11 = false ∧ (0x110#64).getLsbD 8 = true ∧ (0x10#64).getLsbD 8 = false
    ∧ ((base.modCore 191 fun c => { c with dbg := ⟨true, false, 1⟩ }).coreOf 191).dbg.state = 1
    ∧ ∀ t ∈ base.teams, t.core = 191 → ∀ g ∈ base.groupsOf t.ref, g.flights = [] := by decide +kernel

/-! ### Copies -/

/-- One row of 16 bytes within the scratchpad, and what CPY asks for with the words of s4 to s7. -/
def row : List (Nat × W64) := [(4, 2 ^ 63 + 1024), (5, 2 ^ 63), (6, 0x1000001), (7, 0)]
def cpy (step seq zf : BitVec 1) : Instr := .cpy 4 5 6 0 0 0 step seq 0 zf
def askOf (x : Iss) (step seq zf : Bool) : CpyAsk := ⟨x.s 4, x.s 5, x.s 6, if seq then x.s 7 else 0, 0, false, false, step, seq, false, zf⟩

theorem witness_cpy_checks :
    (∃ x, Issues (scal [(4, 2 ^ 63 + 8), (5, 2 ^ 63), (6, 0x1000001)] (place (cpy 0 0 0))) x (cpy 0 0 0) ∧ x.q.hold = none
      ∧ cpyCheck x ((scal [(4, 2 ^ 63 + 8), (5, 2 ^ 63), (6, 0x1000001)] (place (cpy 0 0 0))).ctx x.l.cid) (askOf x false false false) = some (.trap 13 8 0))
    ∧ (∃ x, Issues (scal [(4, 2 ^ 63), (6, 0x1000001)] (place (cpy 0 0 0))) x (cpy 0 0 0) ∧ x.q.hold = none
      ∧ cpyCheck x ((scal [(4, 2 ^ 63), (6, 0x1000001)] (place (cpy 0 0 0))).ctx x.l.cid) (askOf x false false false) = some .lease)
    ∧ (∃ x, Issues (place (cpy 0 0 0)) x (cpy 0 0 0) ∧ x.q.hold = none ∧ (x.s 6).extractLsb' 0 12 = 0)
    ∧ ∃ x, Issues (scal [(6, 1)] (place (cpy 0 0 0))) x (cpy 0 0 0) ∧ x.q.hold = none ∧ (x.s 4).getLsbD 63 = false ∧ (x.s 5).getLsbD 63 = false
      ∧ (x.s 4).extractLsb' 52 10 = 0 ∧ (x.s 5).extractLsb' 52 10 = 0 ∧ (x.s 6).extractLsb' 0 12 ≠ 0 ∧ (x.s 6).extractLsb' 12 12 = 0 :=
  ⟨meets (by decide +kernel), meets (by decide +kernel), meets (by decide +kernel), meets (by decide +kernel)⟩

/-- A copy that moves one chunk within the scratchpad. -/
def cp : Copy := ⟨9, 1, 4, 1, 2, 3, 0, 0, false, false, false, 0, false, false, false, .own 0, .own 1024, 1, 16, 16, 0, 0, 0, .moving, none, [(0, 0, 16)], 9, 0, [], 0, []⟩
def copying (c : Copy) (s : State) : State := { s with copies := [c], next := 10 }
def fullUnit (s : State) : State := { s with copies := (List.range Config.copyQueueMax).map fun n => { cp with job := 100 + n } }

theorem witness_cpy : (∀ i ∈ ([(0, 0), (1, 1), (0, 1)] : List (BitVec 1 × BitVec 1)), ∃ x,
      Issues (onT (fun t => { t with stages := [(0, ⟨2, 2048, 0, 0, [⟨.free, 0, 0, false⟩, ⟨.free, 0, 0, false⟩], []⟩)] })
        (scal row (place (cpy i.1 i.2 0)))) x (cpy i.1 i.2 0) ∧ x.q.hold = none ∧ x.l.kernel.paced = true
      ∧ cpyCheck x ((onT (fun t => { t with stages := [(0, ⟨2, 2048, 0, 0, [⟨.free, 0, 0, false⟩, ⟨.free, 0, 0, false⟩], []⟩)] })
        (scal row (place (cpy i.1 i.2 0)))).ctx x.l.cid) (askOf x (i.1 = 1) (i.2 = 1) false) = none ∧ (scal row (place (cpy i.1 i.2 0))).copies = [])
    ∧ ∃ x, Issues (fullUnit (scal row (place (cpy 0 0 0)))) x (cpy 0 0 0) ∧ x.q.hold = none
      ∧ cpyCheck x ((fullUnit (scal row (place (cpy 0 0 0)))).ctx x.l.cid) (askOf x false false false) = none
      ∧ (fullUnit (scal row (place (cpy 0 0 0)))).copyRoom x.t.core false = false
      ∧ ∀ c ∈ (fullUnit (scal row (place (cpy 0 0 0)))).copies, c.job ≠ (fullUnit (scal row (place (cpy 0 0 0)))).next := by
  refine ⟨fun i hi => ?_, meets (by decide +kernel)⟩
  simp only [List.mem_cons, List.not_mem_nil, or_false] at hi
  rcases hi with rfl | rfl | rfl <;> exact meets (by decide +kernel)

theorem witness_cseal : (∃ x, Issues (place .cseal) x .cseal ∧ x.g.batch.sealed.length < 15)
    ∧ ∃ x, Issues (onG (fun g => { g with batch := { g.batch with sealed := List.replicate 15 ⟨0, [1]⟩ } }) (place .cseal)) x .cseal
      ∧ 15 ≤ x.g.batch.sealed.length := ⟨meets (by decide +kernel), meets (by decide +kernel)⟩

theorem witness_cyield : (∃ x, Issues (code noHdr (place (.cyield 0 5))) x (.cyield 0 5) ∧ ¬IsHeader (code noHdr (place (.cyield 0 5))) x 36
      ∧ x.g.batch.sealed.length ≤ 0)
    ∧ (∃ x, Issues (code hdr (place (.cyield 0 5))) x (.cyield 0 5) ∧ IsHeader (code hdr (place (.cyield 0 5))) x 36 ∧ x.g.batch.sealed.length ≤ 0)
    ∧ ∃ x, Issues (onG (fun g => { g with batch := { g.batch with sealed := [⟨0, [1]⟩] } }) (code hdr (place (.cyield 0 5)))) x (.cyield 0 5)
      ∧ 0 < x.g.batch.sealed.length :=
  ⟨meets (p := fun x => ¬((code noHdr (place (.cyield 0 5))).prep x).headerAt x.t.core x.l.cid 36 = true ∧ x.g.batch.sealed.length ≤ 0) (by decide +kernel),
    meets (p := fun x => ((code hdr (place (.cyield 0 5))).prep x).headerAt x.t.core x.l.cid 36 = true ∧ x.g.batch.sealed.length ≤ 0) (by decide +kernel),
    meets (by decide +kernel)⟩

/-! ### Sequence stages -/

/-- Stage 0 with two slots of 16 bytes at offset 0. -/
def staged (low : Nat) (a b : Slot) : State → State := onT fun t => { t with stages := [(0, ⟨2, 16, 0, low, [a, b], []⟩)] }
def slot (st : SlotState) (n : Nat) : Slot := ⟨st, n, 0, false⟩

theorem witness_sqinit : (∃ x, Issues (place (.sqinit 12)) x (.sqinit 12) ∧ ((x.s 12).extractLsb' 42 3).toNat + 1 = 1)
    ∧ (∃ x, Issues (scal [(12, 0x4000100FFC0)] (place (.sqinit 12))) x (.sqinit 12) ∧ x.t.stepBuffer 0 = false ∧ x.t.spadBytes < 65472 + 64 + 2 * 16)
    ∧ (∃ x, Issues (staged 0 (slot .filling 0) (slot .free 0) (scal [(12, 0x40001000000)] (place (.sqinit 12)))) x (.sqinit 12) ∧ x.t.stepBuffer 0 = false
      ∧ 0 + 64 + 2 * 16 ≤ x.t.spadBytes ∧ ∃ k ∈ (tget Stage.none x.t.stages 0).slots, k.state = .filling)
    ∧ ∃ x, Issues (scal [(12, 0x40001000000)] (place (.sqinit 12))) x (.sqinit 12) ∧ x.t.stepBuffer 0 = false
      ∧ 0 + 64 + 2 * 16 ≤ x.t.spadBytes ∧ ∀ k ∈ (tget Stage.none x.t.stages 0).slots, k.state ≠ .filling :=
  ⟨meets (by decide +kernel), meets (by decide +kernel), meets (by decide +kernel), meets (by decide +kernel)⟩

/-- SQWAIT: no stage; filled; released, the nearest and the farthest; not yet, one beyond the farthest. -/
theorem witness_sqwait : (∃ x, Issues (place (.sqwait 12 13)) x (.sqwait 12 13) ∧ (tget Stage.none x.t.stages 0).depth = 0)
    ∧ (∃ x, Issues (staged 0 (slot .filled 0) (slot .free 0) (place (.sqwait 12 13))) x (.sqwait 12 13) ∧ x.t.stepBuffer 0 = false
      ∧ ((tget Stage.none x.t.stages 0).slotOf 0).state = .filled ∧ ((tget Stage.none x.t.stages 0).slotOf 0).seq = 0)
    ∧ (∀ low ∈ [1, 2 ^ 23], ∃ x, Issues (staged low (slot .free 0) (slot .free 0) (place (.sqwait 12 13))) x (.sqwait 12 13) ∧ x.t.stepBuffer 0 = false
      ∧ (tget Stage.none x.t.stages 0).low = low ∧ (low + 2 ^ 24 - 0) % 2 ^ 24 = low)
    ∧ ∃ x, Issues (staged (2 ^ 23 + 1) (slot .free 0) (slot .free 0) (place (.sqwait 12 13))) x (.sqwait 12 13) ∧ x.t.stepBuffer 0 = false
      ∧ ((tget Stage.none x.t.stages 0).slotOf 0).state = .free ∧ (tget Stage.none x.t.stages 0).low = 2 ^ 23 + 1 := by
  refine ⟨meets (by decide +kernel), meets (by decide +kernel), fun low hl => ?_, meets (by decide +kernel)⟩
  simp only [List.mem_cons, List.not_mem_nil, or_false] at hl
  rcases hl with rfl | rfl <;> exact meets (by decide +kernel)

/-- SQREL: no stage; loads in flight; its fill on the way; below and beyond the window; within it; at its low end. -/
theorem witness_sqrel : (∃ x, Issues (place (.sqrel 12 13)) x (.sqrel 12 13) ∧ x.q.hold = none ∧ (tget Stage.none x.t.stages 0).depth = 0)
    ∧ (∃ x, Issues (flying (.vld 2 4 4 0 15 0) (staged 0 (slot .filled 0) (slot .free 0) (place (.sqrel 12 13)))) x (.sqrel 12 13) ∧ x.q.hold = none
      ∧ ∃ f ∈ x.g.flights, f.fid < (flying (.vld 2 4 4 0 15 0) (staged 0 (slot .filled 0) (slot .free 0) (place (.sqrel 12 13)))).next
        ∧ (isReadAccess f.instr || isTableLoad f.instr) = true)
    ∧ (∃ x, Issues (staged 0 (slot .filling 0) (slot .free 0) (place (.sqrel 12 13))) x (.sqrel 12 13) ∧ x.q.hold = none ∧ x.g.flights = []
      ∧ ((tget Stage.none x.t.stages 0).slotOf 0).state = .filling ∧ ((tget Stage.none x.t.stages 0).slotOf 0).seq = 0)
    ∧ (∃ x, Issues (scal [(13, 2)] (staged 0 (slot .filled 0) (slot .free 0) (place (.sqrel 12 13)))) x (.sqrel 12 13) ∧ x.q.hold = none ∧ x.g.flights = []
      ∧ 2 ≤ (((x.s 13).extractLsb' 0 24).toNat + 2 ^ 24 - (tget Stage.none x.t.stages 0).low) % 2 ^ 24)
    ∧ (∃ x, Issues (scal [(13, 1)] (staged 0 (slot .filled 0) (slot .filled 1) (place (.sqrel 12 13)))) x (.sqrel 12 13) ∧ x.q.hold = none ∧ x.g.flights = []
      ∧ ((tget Stage.none x.t.stages 0).slotOf 1).released = false ∧ ((tget Stage.none x.t.stages 0).slotOf 0).released = false
      ∧ (tget Stage.none x.t.stages 0).slots.length = (tget Stage.none x.t.stages 0).depth)
    ∧ ∃ x, Issues (staged 0 (slot .filled 0) (slot .filled 1) (place (.sqrel 12 13))) x (.sqrel 12 13) ∧ x.q.hold = none ∧ x.g.flights = []
      ∧ (tget Stage.none x.t.stages 0).low = ((x.s 13).extractLsb' 0 24).toNat ∧ ((tget Stage.none x.t.stages 0).slotOf 1).released = false
      ∧ (tget Stage.none x.t.stages 0).slots.length = (tget Stage.none x.t.stages 0).depth :=
  ⟨meets (by decide +kernel), meets (by decide +kernel), meets (by decide +kernel), meets (by decide +kernel), meets (by decide +kernel),
    meets (by decide +kernel)⟩

/-! ### The copy unit's steps -/

theorem witness_copy_accept : ∃ x, (copying { cp with phase := .offered, chunks := [] } (onQ (fun q => { q with hold := some ⟨.copyq 9, false, 9, 0, []⟩ }) base)).issAt 3 0
      = some x ∧ x.g.ref = 3 ∧ x.q.tag = 0 ∧ x.q.offered = some 9
    ∧ (copying { cp with phase := .offered, chunks := [] } (onQ (fun q => { q with hold := some ⟨.copyq 9, false, 9, 0, []⟩ }) base)).copy? 9
      = some { cp with phase := .offered, chunks := [] }
    ∧ (copying { cp with phase := .offered, chunks := [] } (onQ (fun q => { q with hold := some ⟨.copyq 9, false, 9, 0, []⟩ }) base)).copyRoom 0 false = true
    ∧ (copying { cp with phase := .offered, chunks := [] } (onQ (fun q => { q with hold := some ⟨.copyq 9, false, 9, 0, []⟩ }) base)).suspended 0 = false :=
  holds (by decide +kernel)

/-- A chunk within the allocation and one beyond it; a commit with its version, and with another. -/
theorem witness_copy_chunk : ∀ c ∈ ([cp, { cp with dst := .own 65536 }] : List Copy), ∃ r, (copying c base).copyAt 9 = some r ∧ r.1 = c ∧ c.job = 9
    ∧ chunkDue (copying c base) 9 0 = true ∧ c.chunks = [(0, 0, 16)] ∧ c.src = .own 0 ∧ c.slot = none ∧ c.z = 0 ∧ c.srow = c.drow ∧ 0 + 16 ≤ c.drow
    ∧ (copying c base).bad = [] ∧ (r.2.1.spadBytes < 65552) := by
  intro c hc
  simp only [List.mem_cons, List.not_mem_nil, or_false] at hc
  rcases hc with rfl | rfl <;> exact holds (by decide +kernel)

theorem witness_version : ∀ c ∈ ([{ cp with ver := true }, { cp with ver := true, ext := 1 }] : List Copy), ∃ r, (copying c base).copyAt 9 = some r
    ∧ r.1 = c ∧ versionDue (copying c base) 9 = true ∧ c.chunks = [(0, 0, 16)] ∧ c.src = .own 0 ∧ c.dst = .own 1024 ∧ c.slot = none ∧ c.srow = c.drow
    ∧ (copying c base).bad = [] ∧ 1024 + 16 ≤ r.2.1.spadBytes
    ∧ (BitVec.ofNat 64 (leNat (r.2.1.spad.read 1016 8)) = c.ext ↔ c.ext = 0) := by
  intro c hc
  simp only [List.mem_cons, List.not_mem_nil, or_false] at hc
  rcases hc with rfl | rfl <;> exact holds (by decide +kernel)

/-- Completions: of a sealed batch, failed; of the open one; of a fill, filled. -/
def batched (s : State) : State := onG (fun g => { g with batch := { g.batch with sealed := [⟨0, [9]⟩], next := 1 } }) s

theorem witness_completion : (∃ g, (batched (copying { cp with phase := .ended 6 } base)).group? 3 = some g ∧ g.run ≠ .retired
      ∧ (batched (copying { cp with phase := .ended 6 } base)).copy? 9 = some { cp with phase := .ended 6 }
      ∧ completionDue (batched (copying { cp with phase := .ended 6 } base)) 9 = true ∧ ({ cp with phase := .ended 6 } : Copy).outcome ≠ 0
      ∧ g.batch.sealed.find? (fun b => b.jobs.contains 9) = some ⟨0, [9]⟩)
    ∧ (∃ g, (copying { cp with chunks := [] } base).group? 3 = some g ∧ g.run ≠ .retired ∧ completionDue (copying { cp with chunks := [] } base) 9 = true
      ∧ ({ cp with chunks := [] } : Copy).outcome = 0)
    ∧ ∃ t, (copying { cp with chunks := [], seq := true, slot := some 0 } (staged 0 (slot .filling 0) (slot .free 0) base)).team? 2 = some t
      ∧ completionDue (copying { cp with chunks := [], seq := true, slot := some 0 } (staged 0 (slot .filling 0) (slot .free 0) base)) 9 = true
      ∧ 0 < (tget Stage.none t.stages 0).slots.length
      ∧ ((tget Stage.none t.stages 0).slotOf (tget Stage.none t.stages 0).low).released = false := ⟨holds (by decide +kernel), holds (by decide +kernel), holds (by decide +kernel)⟩

def parked : State := code hdr (onQ (fun q => { q with hold := some ⟨.cyield 36 0, false, 0, 0, []⟩ }) base)
def strayed : State := code noHdr (onQ (fun q => { q with hold := some ⟨.cyield 36 0, false, 0, 0, []⟩ }) base)
theorem witness_cyield_wake : ∀ s ∈ [(parked, true), (strayed, false)], ∃ x, s.1.issAt 3 0 = some x ∧ x.g.ref = 3 ∧ x.q.tag = 0 ∧ x.g.run = .run
    ∧ x.mayRun = true ∧ x.g.trap.waits = false ∧ s.1.suspended x.t.core = false ∧ x.q.hold = some ⟨.cyield 36 0, false, 0, 0, []⟩
    ∧ x.g.batch.sealed.length ≤ 0 ∧ s.1.headerAt x.t.core x.l.cid 36 = s.2 := by
  intro s hs
  simp only [List.mem_cons, List.not_mem_nil, or_false] at hs
  rcases hs with rfl | rfl <;> exact holds (by decide +kernel)

/-- A fill: no stage; too long for a slot; a slot that is not free; behind the window; ahead of it, at both ends; accepted. -/
def fill (n : W64) (drow : Nat) : Copy := { cp with seq := true, phase := .present, dst := .own 0, drow := drow, ext := n }
theorem witness_fill : (copying (fill 0 16) base).copyRuns (fill 0 16) = true
    ∧ (∃ t, base.team? 2 = some t ∧ (tget Stage.none t.stages 0).depth = 0)
    ∧ (∃ t, (copying (fill 0 32) (staged 0 (slot .free 0) (slot .free 0) base)).team? 2 = some t ∧ t.stepBuffer 0 = false ∧ (tget Stage.none t.stages 0).depth = 2
      ∧ (tget Stage.none t.stages 0).slotBytes < 0 + (1 - 1) * 0 + 32)
    ∧ (∃ t, (copying (fill 1 16) (staged 0 (slot .free 0) (slot .filled 1) base)).team? 2 = some t ∧ t.stepBuffer 0 = false
      ∧ ((tget Stage.none t.stages 0).slotOf 1).state ≠ .free)
    ∧ (∀ e ∈ [(1, 0), (0, 2 ^ 23)], ∃ t, (copying (fill (BitVec.ofNat 64 e.2) 16) (staged e.1 (slot .free 0) (slot .free 0) base)).team? 2 = some t
      ∧ t.stepBuffer 0 = false ∧ 2 ^ 23 ≤ (e.2 + 2 ^ 24 - (tget Stage.none t.stages 0).low % 2 ^ 24) % 2 ^ 24)
    ∧ (∀ n ∈ [2, 2 ^ 23 - 1], ∃ t, (copying (fill (BitVec.ofNat 64 n) 16) (staged 0 (slot .free 0) (slot .free 0) base)).team? 2 = some t
      ∧ t.stepBuffer 0 = false ∧ 2 ≤ (n + 2 ^ 24 - (tget Stage.none t.stages 0).low % 2 ^ 24) % 2 ^ 24
      ∧ (n + 2 ^ 24 - (tget Stage.none t.stages 0).low % 2 ^ 24) % 2 ^ 24 < 2 ^ 23)
    ∧ ∃ t, (copying (fill 1 16) (staged 0 (slot .filled 0) (slot .free 0) base)).team? 2 = some t ∧ t.stepBuffer 0 = false
      ∧ ((tget Stage.none t.stages 0).slotOf 1).state = .free := by
  refine ⟨by decide +kernel, holds (by decide +kernel), holds (by decide +kernel), holds (by decide +kernel), fun e he => ?_, fun n hn => ?_,
    holds (by decide +kernel)⟩
  · simp only [List.mem_cons, List.not_mem_nil, or_false] at he
    rcases he with rfl | rfl <;> exact holds (by decide +kernel)
  · simp only [List.mem_cons, List.not_mem_nil, or_false] at hn
    rcases hn with rfl | rfl <;> exact holds (by decide +kernel)

/-- A held fill at its limit, and an armed copy whose step has come. -/
theorem witness_fill_limit : (copying { cp with phase := .held, limit := 4, waited := 4 } base).copy? 9 = some { cp with phase := .held, limit := 4, waited := 4 }
    ∧ ∃ r, (copying { cp with step := true, phase := .armed } base).copyAt 9 = some r ∧ r.1.phase = .armed ∧ r.2.1.pacer.isSome
      ∧ (r.2.1.pacer.all fun p => decide ((p.step - (r.1.ext >>> 32).setWidth 32).toNat < 2 ^ 31)) = true ∧ r.2.1.state ≠ .saved ∧ r.2.1.state ≠ .ended
      ∧ (copying { cp with step := true, phase := .armed } base).suspended r.1.core = false :=
  ⟨by decide +kernel, holds (by decide +kernel)⟩

/-! ### Channels -/

theorem witness_doorbell : ∃ g f t l a, Turn (aloft (.vst 8 4 5 0 0 0) [⟨0, .aperture 0 4096, 8, [0x10001, 0], 0, 0, true⟩] .lane 0 0) g f t l ∧ isStore f.instr = true
    ∧ f.left = [a] ∧ a.target = .aperture 0 4096
    ∧ ((aloft (.vst 8 4 5 0 0 0) [⟨0, .aperture 0 4096, 8, [0x10001, 0], 0, 0, true⟩] .lane 0 0).channel l.tid 1).queue.length < 16 ∧ PacerStays (aloft (.vst 8 4 5 0 0 0) [⟨0, .aperture 0 4096, 8, [0x10001, 0], 0, 0, true⟩] .lane 0 0) t := by
  obtain ⟨g, f, t, l, h, h2⟩ := turns (s := aloft (.vst 8 4 5 0 0 0) [⟨0, .aperture 0 4096, 8, [0x10001, 0], 0, 0, true⟩] .lane 0 0)
    (p := fun _ f t l => decide (calm (aloft (.vst 8 4 5 0 0 0) [⟨0, .aperture 0 4096, 8, [0x10001, 0], 0, 0, true⟩] .lane 0 0) t = true ∧ isStore f.instr = true ∧ f.left = [⟨0, .aperture 0 4096, 8, [0x10001, 0], 0, 0, true⟩]
      ∧ ((aloft (.vst 8 4 5 0 0 0) [⟨0, .aperture 0 4096, 8, [0x10001, 0], 0, 0, true⟩] .lane 0 0).channel l.tid 1).queue.length < 16)) (by decide +kernel)
  obtain ⟨k, a, b, c⟩ := of_decide_eq_true h2
  exact ⟨g, f, t, l, _, h, a, b, rfl, c, calm_spec k⟩

def chan (c : Channel) (s : State) : State := s.modTenant 1 fun t => { t with chans := [(63, c)] }
def linked (k : Chain) : Channel := ⟨1, 0, [], true, some k, none, Binding.reset⟩

theorem witness_channels : (base.tenant 1).live = true ∧ base.lodge.boot ≠ .failed ∧ 63 < (base.tenant 1).channels
    ∧ ((chan ⟨0, 0, List.replicate 16 0, false, none, none, Binding.reset⟩ base).channel 1 63).queue.length = 16
    ∧ ((chan ⟨0, 0, List.replicate 15 0, false, none, none, Binding.reset⟩ base).channel 1 63).queue.length < 16
    ∧ ((chan ⟨1, 0, [0], false, none, none, Binding.reset⟩ base).channel 1 63).queue = 0 :: [] ∧ ((chan ⟨1, 0, [0], false, none, none, Binding.reset⟩ base).channel 1 63).busy = false
    ∧ ((chan ⟨1, 0, [0], false, none, none, Binding.reset⟩ base).channel 1 63).chain = none
    ∧ ((chan (linked ⟨0, 0, 64, false, none, 0, 0, 0, []⟩) base).channel 1 63).chain = some ⟨0, 0, 64, false, none, 0, 0, 0, []⟩
    ∧ ((chan (linked ⟨0, 0, 63, false, none, 0, 0, 0, []⟩) base).channel 1 63).chain = some ⟨0, 0, 63, false, none, 0, 0, 0, []⟩
    ∧ (((chan (linked ⟨0, 0, 63, false, none, 0, 0, 0, []⟩) base).binding 1 63).word1.extractLsb' 48 16).toNat ≤ 0
    ∧ (∀ n ∈ [0xFFFF, 0], ((chan (linked ⟨0, 0, 1, true, none, 0, 0, n, []⟩) base).channel 1 63).chain = some ⟨0, 0, 1, true, none, 0, 0, n, []⟩)
    ∧ ((chan (linked ⟨0, 0, 1, true, none, 0, 0, 0xFFFF, [(0, 0)]⟩) base).channel 1 63).chain = some ⟨0, 0, 1, true, none, 0, 0, 0xFFFF, [(0, 0)]⟩
    ∧ ((chan ⟨1, 0, [], true, none, some (0, 0), Binding.reset⟩ base).channel 1 63).result.isSome = true := by decide +kernel

/-! ### Paced mode -/

/-- A second team of the launch, at pace index 1, that lends a slot of 64 bytes. -/
def producer (s : State) : State := { s with teams := s.teams ++ s.teams.map fun t =>
  { t with ref := 50, idx := 1, core := 1, pacer := some ⟨1, 1, [], [], 64, 0, 0, 0, [], 0, [], [], []⟩ } }

/-- PDONE: accesses in flight; a step that is finished already; the last of the team; one before the last. -/
theorem witness_pdone : (∃ x, Issues (flying (.vld 2 4 4 0 15 0) (place .pdone)) x .pdone ∧ x.q.hold = none ∧ x.t.pacer.isSome
      ∧ ∃ f ∈ x.g.flights, f.fid < (flying (.vld 2 4 4 0 15 0) (place .pdone)).next ∧ f.accesses = true)
    ∧ (∃ x, Issues (pacer (fun p => { p with fin := p.step }) (place .pdone)) x .pdone ∧ x.q.hold = none ∧ x.g.flights = []
      ∧ x.t.pacer.any (fun p => p.fin = p.step) = true)
    ∧ (∃ x, Issues (place .pdone) x .pdone ∧ x.q.hold = none ∧ x.g.flights = [] ∧ x.t.pacer.any (fun p => p.fin ≠ p.step && tget 0 p.quads x.g.gix = 0) = true
      ∧ x.g.running = x.q.quads ∧ x.g.run = .run ∧ x.g.running ≠ 0 ∧ x.g.gix < 32 ∧ (((place .pdone).groupsOf x.t.ref).filter fun k => k.ref ≠ x.g.ref) = [])
    ∧ ∃ x, Issues (pair (place .pdone)) x .pdone ∧ x.q.hold = none ∧ x.g.flights = []
      ∧ x.t.pacer.any (fun p => p.fin ≠ p.step && tget 0 p.quads 0 = 0 && tget 0 p.quads 1 = 0 && !p.arrived.getLsbD 1) = true
      ∧ ∃ k ∈ ((pair (place .pdone)).groupsOf x.t.ref).filter (fun k => k.ref ≠ x.g.ref), k.run ≠ .retired ∧ k.gix = 1 ∧ x.g.gix = 0 ∧ k.running = 0xFF :=
  ⟨meets (by decide +kernel), meets (by decide +kernel), meets (by decide +kernel), meets (by decide +kernel)⟩

/-- PWAIT past its value, at most 2³¹ − 1 ahead, and not past it; PFIN of a neighbour, and of none. -/
theorem witness_pwait : (∀ v ∈ [1#32, 0x7FFFFFFF], ∃ x, Issues (pacer (fun p => { p with step := v }) (place (.pwait 14))) x (.pwait 14)
      ∧ x.t.pacer.any (fun p => (p.step - (x.s 14).setWidth 32).toNat < 2 ^ 31 && p.step ≠ (x.s 14).setWidth 32) = true)
    ∧ (∃ x, Issues (place (.pwait 14)) x (.pwait 14) ∧ x.t.pacer.any (fun p => p.step = (x.s 14).setWidth 32) = true)
    ∧ (∃ x, Issues (place (.pfin 5 6)) x (.pfin 5 6) ∧ x.t.pacer.any (fun p => p.up = []) = true)
    ∧ ∃ x, Issues (pacer (fun p => { p with up := [1] }) (place (.pfin 5 6))) x (.pfin 5 6) ∧ x.t.pacer.any (fun p => p.up[0]? = some 1) = true := by
  refine ⟨fun v hv => ?_, meets (by decide +kernel), meets (by decide +kernel), meets (by decide +kernel)⟩
  simp only [List.mem_cons, List.not_mem_nil, or_false] at hv
  rcases hv with rfl | rfl <;> exact meets (by decide +kernel)

/-- In the emulation handler, for every lane. -/
def handling : State → State := onG fun g => { g with emu := { g.emu with level := 1, cur := { g.emu.cur with emask := BitVec.allOnes 64 } } }

/-- LDP: no lane; a bad word; no neighbour; passed; in a handler, a register that does not start a pair. -/
theorem witness_ldp : (∃ x, Issues (place (.ldp 8 2 22 0 1)) x (.ldp 8 2 22 0 1) ∧ x.t.pacer.isSome ∧ ldpUndef 8 22 1 x (place (.ldp 8 2 22 0 1)) = false
      ∧ x.exec 1 = 0)
    ∧ (∃ x, Issues (scal [(22, 2 ^ 44)] (place (.ldp 8 2 22 0 0))) x (.ldp 8 2 22 0 0) ∧ ldpUndef 8 22 0 x (place (.ldp 8 2 22 0 0)) = false ∧ x.exec 0 ≠ 0
      ∧ (x.s 22).extractLsb' 44 20 ≠ 0)
    ∧ (∃ x, Issues (place (.ldp 8 2 22 0 0)) x (.ldp 8 2 22 0 0) ∧ ldpUndef 8 22 0 x (place (.ldp 8 2 22 0 0)) = false ∧ x.exec 0 ≠ 0
      ∧ x.t.pacer.any (fun p => p.up = []) = true ∧ x.s 22 = 0)
    ∧ (∃ x, Issues (scal [(22, 2 ^ 42)] (handling (place (.ldp 9 2 22 0 0)))) x (.ldp 9 2 22 0 0)
      ∧ ldpUndef 9 22 0 x (scal [(22, 2 ^ 42)] (handling (place (.ldp 9 2 22 0 0)))) = false ∧ x.exec 0 ≠ 0 ∧ x.g.hlevel ≠ 0
      ∧ ldpAligned x 9 (x.s 22) = false)
    ∧ ∃ x, Issues (producer (pacer (fun p => { p with up := [1] }) (lone (place (.ldp 8 2 22 0 0))))) x (.ldp 8 2 22 0 0)
      ∧ ldpUndef 8 22 0 x (producer (pacer (fun p => { p with up := [1] }) (lone (place (.ldp 8 2 22 0 0))))) = false ∧ x.exec 0 ≠ 0 ∧ x.g.hlevel = 0
      ∧ ldpCheck x (producer (pacer (fun p => { p with up := [1] }) (lone (place (.ldp 8 2 22 0 0))))) 8 (x.s 22)
        (((List.range 64).filter fun l => bit (x.exec 0) l).map fun l => (l, (x.r 2 l).toNat)) = none :=
  ⟨meets (by decide +kernel), meets (by decide +kernel), meets (by decide +kernel), meets (by decide +kernel), meets (by decide +kernel)⟩

/-- STEP advances, or waits for the team itself; a message arrives. -/
def stepReady : State := pacer (fun p => { p with fin := p.step, up := [1], copies := [(1, 1)] }) base
theorem witness_step_advance : (∃ t, stepReady.team? 2 = some t ∧ t.state = .running ∧ stepReady.suspended t.core = false
      ∧ (∃ g ∈ stepReady.groupsOf 2, g.run ≠ .retired) ∧ t.pacer.any (fun p => p.fin = p.step && (p.up.all fun n => (p.finOf n - p.step).toNat < 2 ^ 31)
        && (p.down.all fun n => (p.finOf n - (p.step + 1 - BitVec.ofNat 32 p.window)).toNat < 2 ^ 31)) = true)
    ∧ (∃ t, base.team? 2 = some t ∧ t.pacer.any (fun p => p.fin ≠ p.step) = true)
    ∧ ∃ t, ({ base with finMsgs := [(2, 0, 0), (2, 1, 7)] } : State).team? 2 = some t ∧ t.pacer.isSome
      ∧ ({ base with finMsgs := [(2, 0, 0), (2, 1, 7)] } : State).finMsgs = [(2, 0, 0)] ++ (2, 1, 7) :: [] :=
  ⟨holds (by decide +kernel), holds (by decide +kernel), holds (by decide +kernel)⟩

/-- The read of a slot. -/
def reading : State := producer (pacer (fun p => { p with up := [1], copies := [(1, 1)] })
  (onG (fun g => { g with flights := [{ fl (.ldp 8 2 22 0 0) with exec := 1, accs := [⟨0, .matrix 15 0, 4, [], 0, 0, true⟩], opnds := [0], dst := 8, ndst := 1 }] }) base))

theorem witness_ldp_read : ∃ r, reading.ldpAt 3 0 = some r ∧ ldpDue reading 3 0 = true ∧ r.1.fid = 0 ∧ r.2.2.2.2.1.state ≠ .ended ∧ reading.bad = []
    ∧ (r.2.2.2.2.1.pacer.any fun p => decide (¬(p.step - (r.2.2.2.2.2.setWidth 32 + BitVec.ofNat 32 p.window)).toNat < 2 ^ 31 ∧ p.loose = [])) = true
    ∧ (r.1.accs.map (·.lane)).Nodup ∧ r.1.accs = [⟨0, .matrix 15 0, 4, [], 0, 0, true⟩] ∧ r.1.failed = 0 ∧ PacerStays reading r.2.1
    ∧ ∃ g, reading.group? 3 = some g ∧ g.ref = 3 ∧ g.trap.replay = [] ∧ g.busy = [] ∧ r.1.file = .lane ∧ r.1.dst + r.1.ndst ≤ g.nregs := by
  obtain ⟨r, h, h1, h2, h3, h4, h5, h6, h7, h9, h10, h8⟩ := holds (o := reading.ldpAt 3 0) (p := fun r => ldpDue reading 3 0 = true ∧ r.1.fid = 0
    ∧ r.2.2.2.2.1.state ≠ .ended ∧ reading.bad = []
    ∧ (r.2.2.2.2.1.pacer.any fun p => decide (¬(p.step - (r.2.2.2.2.2.setWidth 32 + BitVec.ofNat 32 p.window)).toNat < 2 ^ 31 ∧ p.loose = [])) = true
    ∧ (r.1.accs.map (·.lane)).Nodup ∧ r.1.accs = [⟨0, .matrix 15 0, 4, [], 0, 0, true⟩] ∧ r.1.failed = 0 ∧ calm reading r.2.1 = true
    ∧ ((reading.group? 3).any fun g => decide (g.ref = 3 ∧ g.trap.replay = [] ∧ g.busy = [] ∧ r.1.file = .lane ∧ r.1.dst + r.1.ndst ≤ g.nregs)) = true)
    (by decide +kernel)
  exact ⟨r, h, h1, h2, h3, h4, h5, h6, h7, h9, calm_spec h10, holds h8⟩

/-! ### Frames -/

/-- The tenant's allotment 0 is machine allotment 1, by the first entry of its array, which stands at address 0; frame 32 is a frame of it. -/
def granted (f : Frame) (s : State) : State :=
  ({ s with frames := [(32, f)], dram := [(0, 1), (3, 0x80)] }).modTenant 1 fun t => { t with alen := 1, held := 1 }
def fr (ftype : Nat) : Frame := { Frame.reset with ftype := ftype, owner := 1 }

theorem witness_frame_waits : ∀ i ∈ ([.fretype 8 4 5, .finfo 8 4, .fharvest 8 4 5, .fresume 8 4] : List Instr), ∃ x, Issues (flying (.vatom 8 4 6 0) (place i)) x i
    ∧ x.q.hold = none ∧ ∃ f ∈ x.g.flights, f.fid < (flying (.vatom 8 4 6 0) (place i)).next ∧ isWriteAccess f.instr = true ∧ f.accesses = true :=
  meets_all (by decide +kernel)

/-- FRETYPE and FINFO of what is no frame of the tenant, and of one; each status of FRETYPE. -/
theorem witness_no_frame : ∀ i ∈ ([.fretype 8 4 5, .finfo 8 4, .fharvest 8 4 5] : List Instr), ∃ x, Issues (place i) x i ∧ x.q.hold = none ∧ x.g.flights = []
    ∧ (place i).resolve x.l.tid (x.s 4) = none ∧ (place i).operandFails x.l.tid (x.s 4) = none := meets_all (by decide +kernel)

/-- The array's first word fails its check. -/
theorem witness_frame_killed : ∀ i ∈ ([.fretype 8 4 5, .finfo 8 4] : List Instr), ∃ x, Issues { granted (fr 1) (place i) with bad := [(10, 0)] } x i
    ∧ x.q.hold = none ∧ x.g.flights = [] ∧ ({ granted (fr 1) (place i) with bad := [(10, 0)] } : State).operandFails x.l.tid (x.s 4) = some (10, 0) :=
  meets_all (by decide +kernel)

theorem witness_retype : ∀ f ∈ ([fr 0, { fr 0 with damaged := true }, { fr 1 with use := 1 }, { fr 1 with pin := 1 }, fr 6] : List Frame),
    ∃ x, Issues (scal [(5, 2)] (granted f (place (.fretype 8 4 5)))) x (.fretype 8 4 5) ∧ x.q.hold = none ∧ x.g.flights = []
      ∧ (scal [(5, 2)] (granted f (place (.fretype 8 4 5)))).resolve x.l.tid (x.s 4) = some 32
      ∧ (scal [(5, 2)] (granted f (place (.fretype 8 4 5)))).frame 32 = f := by
  intro f hf
  simp only [List.mem_cons, List.not_mem_nil, or_false] at hf
  rcases hf with rfl | rfl | rfl | rfl | rfl <;> exact meets (by decide +kernel)

theorem witness_finfo : ∃ x, Issues (granted (fr 1) (place (.finfo 8 4))) x (.finfo 8 4) ∧ x.q.hold = none ∧ x.g.flights = []
    ∧ (granted (fr 1) (place (.finfo 8 4))).resolve x.l.tid (x.s 4) = some 32 := meets (by decide +kernel)

/-- FHARVEST of 0 frames and of 65, of 1 and of 64. -/
theorem witness_harvest : (∀ n ∈ [0#64, 65], ∃ x, Issues (scal [(5, n)] (place (.fharvest 6 4 5))) x (.fharvest 6 4 5) ∧ x.q.hold = none ∧ x.g.flights = []
      ∧ (x.s 5 = 0 ∨ 64 < (x.s 5).toNat))
    ∧ ∀ n ∈ [1#64, 64], ∃ x, Issues (scal [(5, n)] (granted { fr 1 with dirty := true } (place (.fharvest 6 4 5)))) x (.fharvest 6 4 5) ∧ x.q.hold = none
      ∧ x.g.flights = [] ∧ x.s 5 ≠ 0 ∧ (x.s 5).toNat ≤ 64
      ∧ ((List.range (x.s 5).toNat).filterMap fun k => (scal [(5, n)] (granted { fr 1 with dirty := true } (place (.fharvest 6 4 5)))).resolve x.l.tid
        (x.s 4 + BitVec.ofNat 64 k)).Nodup
      ∧ (∀ k, k < (x.s 5).toNat → (scal [(5, n)] (granted { fr 1 with dirty := true } (place (.fharvest 6 4 5)))).operandFails x.l.tid
        (x.s 4 + BitVec.ofNat 64 k) = none)
      ∧ (scal [(5, n)] (granted { fr 1 with dirty := true } (place (.fharvest 6 4 5)))).resolve x.l.tid (x.s 4) = some 32 := by
  refine ⟨fun n hn => ?_, fun n hn => ?_⟩
  all_goals
    simp only [List.mem_cons, List.not_mem_nil, or_false] at hn
    rcases hn with rfl | rfl <;> exact meets (by decide +kernel)

/-- FRESUME: no record of that token; one whose party does not wait; a copy, a launch and another group that do. -/
def halted : State → State := fun s =>
  { s with groups := s.groups ++ s.groups.map fun g => { g with ref := 99, gix := 1, trap := { g.trap with parked := true } } }
def recorded (w : RecordOf) (s : State) : State := s.modTenant 1 fun t => { t with recs := [⟨7, 0, w, [], true⟩] }

theorem witness_fresume : (∃ x, Issues (place (.fresume 3 7)) x (.fresume 3 7) ∧ x.q.hold = none ∧ x.g.flights = [] ∧ ((place (.fresume 3 7)).tenant x.l.tid).recs = [])
    ∧ (∃ x, Issues (recorded (.copy 9) (scal [(7, 7)] (place (.fresume 3 7)))) x (.fresume 3 7) ∧ x.q.hold = none ∧ x.g.flights = []
      ∧ ((recorded (.copy 9) (scal [(7, 7)] (place (.fresume 3 7)))).tenant x.l.tid).recs = [⟨7, 0, .copy 9, [], true⟩] ∧ (x.s 7).extractLsb' 0 32 = 7
      ∧ (recorded (.copy 9) (scal [(7, 7)] (place (.fresume 3 7)))).waits ⟨7, 0, .copy 9, [], true⟩ = false)
    ∧ (∃ x, Issues (copying { cp with phase := .waiting 7 } (recorded (.copy 9) (scal [(7, 7)] (place (.fresume 3 7))))) x (.fresume 3 7)
      ∧ (copying { cp with phase := .waiting 7 } (recorded (.copy 9) (scal [(7, 7)] (place (.fresume 3 7))))).waits ⟨7, 0, .copy 9, [], true⟩ = true)
    ∧ (∃ x, Issues (onL (fun l => { l with waiting := true }) (recorded (.launch 1) (scal [(7, 7)] (place (.fresume 3 7))))) x (.fresume 3 7)
      ∧ (onL (fun l => { l with waiting := true }) (recorded (.launch 1) (scal [(7, 7)] (place (.fresume 3 7))))).waits ⟨7, 0, .launch 1, [], true⟩ = true)
    ∧ ∃ x, Issues (halted (recorded (.group 99) (scal [(7, 7)] (place (.fresume 3 7))))) x (.fresume 3 7) ∧ 99 ≠ x.g.ref
      ∧ (halted (recorded (.group 99) (scal [(7, 7)] (place (.fresume 3 7))))).waits ⟨7, 0, .group 99, [], true⟩ = true :=
  ⟨meets (by decide +kernel), meets (by decide +kernel), meets (by decide +kernel), meets (by decide +kernel), meets (by decide +kernel)⟩

/-- Translations: a page that has one, a page that has none; a root, two tables and a page behind them. -/
def mapped : State :=
  { (granted (fr 5) base).modTenant 1 fun t => { t with rv := true, root := 0 } with
    frames := [(32, fr 5), (33, fr 4), (34, fr 3), (35, fr 1)]
    dram := [(0, 1), (3, 0x80), (0x200000, 5), (0x200001, 0x10), (0x210000, 5), (0x210001, 0x20), (0x220000, 1), (0x220001, 0x30)] }

theorem witness_walk : (base.tenant 1).live = true
    ∧ (∃ e ∈ (paged 0 base).tlb, e.tid = 1 ∧ e.page = 0 / 65536 ∧ sameSlice e.home (gia 1 0 / 128) = true) ∧ base.tlb = []
    ∧ (base.walk (gia 1 0 / 128) 1 0).toOption = none
    ∧ ((mapped.walk (gia 1 0 / 128) 1 0).toOption.map (·.2)) = some ⟨35, 0, false, false, false⟩ ∧ mapped.tlb.length + mapped.atlb.length + 5 ≤ 2048 := by
  decide +kernel

/-- Admission: refused; an entry that changes nothing, the last lane; a new one; an entry that cannot be read. -/
def admitting (w : W32) (dead : Bool) : State :=
  { granted (fr 3) (aloft (.vst 8 4 5 0 0 0) [⟨0, .glob 0 65528, 8, [w, 0], 0, 0, true⟩] .lane 0 0) with
    frames := [(32, fr 3), (33, fr 1)], bad := if dead then [(10, 32 * 65536 + 65504)] else [], tlb := [⟨gia 1 65528 / 128, 1, 0, 32, 3, true, false, false⟩] }

def Admitting (w : W32) (dead : Bool) : Prop := ∃ g f t l leaf, Turn (admitting w dead) g f t l ∧ admissionDue (admitting w dead) g.ref f.fid = true
  ∧ (admitting w dead).admitLanes f l.tid = [⟨0, .glob 0 65528, 8, [w, 0], 0, 0, true⟩] ∧ ((admitting w dead).translate l.tid 65528).2 = .ok leaf
  ∧ f.left = [⟨0, .glob 0 65528, 8, [w, 0], 0, 0, true⟩] ∧ f.failed = 0 ∧ (∀ b ∈ g.busy, b.fid = f.fid → b.hit = 0) ∧ PacerStays (admitting w dead) t

def admittingNow (w : W32) (dead : Bool) (f : Flight) (t : Team) (l : Launch) : Bool := decide (admissionDue (admitting w dead) 3 0 = true
  ∧ (admitting w dead).admitLanes f l.tid = [⟨0, .glob 0 65528, 8, [w, 0], 0, 0, true⟩] ∧ f.left = [⟨0, .glob 0 65528, 8, [w, 0], 0, 0, true⟩]
  ∧ f.failed = 0 ∧ calm (admitting w dead) t = true) && ((admitting w dead).translate l.tid 65528).2.toOption.isSome

theorem admittingOf {w : W32} {dead : Bool} (h : ∃ g f t l, Turn (admitting w dead) g f t l
    ∧ (admittingNow w dead f t l && decide (g.ref = 3 ∧ f.fid = 0 ∧ g.busy = [])) = true) : Admitting w dead := by
  obtain ⟨g, f, t, l, h, h2⟩ := h
  simp only [admittingNow, Bool.and_eq_true, decide_eq_true_eq] at h2
  obtain ⟨⟨⟨a, b, c, d, e⟩, k⟩, e1, e2, e3⟩ := h2
  cases m : ((admitting w dead).translate l.tid 65528).2 with
  | error w => rw [m] at k; cases k
  | ok leaf => exact ⟨g, f, t, l, leaf, h, by rw [e1, e2]; exact a, b, m, c, d, fun r hr => (by rw [e3] at hr; cases hr), calm_spec e⟩

theorem witness_admission : Admitting 1 false ∧ Admitting 0 false ∧ Admitting 0x1001 false ∧ Admitting 0x1001 true :=
  ⟨admittingOf (turns (p := fun g f t l => admittingNow 1 false f t l && decide (g.ref = 3 ∧ f.fid = 0 ∧ g.busy = [])) (by decide +kernel)),
    admittingOf (turns (p := fun g f t l => admittingNow 0 false f t l && decide (g.ref = 3 ∧ f.fid = 0 ∧ g.busy = [])) (by decide +kernel)),
    admittingOf (turns (p := fun g f t l => admittingNow 0x1001 false f t l && decide (g.ref = 3 ∧ f.fid = 0 ∧ g.busy = [])) (by decide +kernel)),
    admittingOf (turns (p := fun g f t l => admittingNow 0x1001 true f t l && decide (g.ref = 3 ∧ f.fid = 0 ∧ g.busy = [])) (by decide +kernel))⟩

theorem witness_admission_outcomes : (admitting 1 false).admitRefusal 1 32 8191 1 ≠ none ∧ (admitting 0 false).admitRefusal 1 32 8191 0 = none
    ∧ (admitting 0 false).admitFails 1 32 8191 0 = none ∧ (admitting 0 false).pte 32 8191 = 0
    ∧ (admitting 0x1001 false).admitRefusal 1 32 8191 0x1001 = none ∧ (admitting 0x1001 false).admitFails 1 32 8191 0x1001 = none
    ∧ (admitting 0x1001 false).pte 32 8191 ≠ 0x1001 ∧ (admitting 0x1001 true).admitFails 1 32 8191 0x1001 ≠ none := by decide +kernel

/-- The acknowledgement of an entry, and the host's writes. -/
def admitted : Admission := ⟨9, 1, 32, 0, 0, 1, [0], none, none, 0, none⟩
theorem witness_acknowledge : ({ base with adms := [admitted] } : State).adms.find? (fun b => b.adm = 9) = some admitted
    ∧ ({ base with adms := [admitted] } : State).ackDue admitted = true := by decide +kernel

theorem witness_host_writes : (∀ f, (base.resolve 1 (0 &&& 0x3FFFFF)) = some f → False)
    ∧ (granted (fr 5) (onL (fun l => { l with state := .complete }) base)).resolve 1 (0x8000000000000000 &&& 0x3FFFFF) = some 32
    ∧ ((granted (fr 5) (onL (fun l => { l with state := .complete }) base)).frame 32).ftype = 5
    ∧ (∀ l ∈ (granted (fr 5) (onL (fun l => { l with state := .complete }) base)).launches, l.tid = 1 → l.state = .complete)
    ∧ (base.tenant 1).live = true ∧ base.lodge.boot ≠ .failed ∧ base.ctxOn 1 0 = true ∧ base.ctxBusy 4 = true ∧ ({ base with teams := [], launches := [] } : State).ctxBusy 4 = false := by
  refine ⟨fun f h => ?_, by decide +kernel⟩
  have k : base.resolve 1 (0 &&& 0x3FFFFF) = none := by decide +kernel
  rw [k] at h; cases h

/-! ### The host -/

def args (a b c : W64) : State → State := fun s => s.modTenant 1 fun t => { t with fcarg0 := a, fcarg1 := b, fcarg2 := c }

/-- HostCommands: a command that runs and none; ADMIT of no frame, of no table, in a frame that cannot be read, refused, of the same entry, of a
new one. -/
theorem witness_commands : (base.tenant 1).live = true ∧ base.lodge.boot ≠ .failed ∧ base.adms = []
    ∧ (∃ a ∈ ({ base with adms := [admitted] } : State).adms, a.tid = 1 ∧ a.src = none)
    ∧ (∀ k ∈ [1, 2, 3, 4, 5, 6, 7, 0, 8, 15], ((BitVec.ofNat 64 k).extractLsb' 0 4).toNat = k) := by decide +kernel

theorem witness_admit : base.resolve 1 0 = none ∧ (granted (fr 1) base).resolve 1 0 = some 32 ∧ ((granted (fr 1) base).frame 32).ftype < 3
    ∧ (args 0 8192 0 (granted (fr 3) base)).resolve 1 0 = some 32 ∧ 8192 ≤ ((args 0 8192 0 (granted (fr 3) base)).tenant 1).fcarg1.toNat
    ∧ (args 0 8191 1 (granted { fr 3 with damaged := true } base)).admitFails 1 32 8191 1 ≠ none
    ∧ (args 0 8191 1 (granted (fr 3) base)).admitRefusal 1 32 8191 1 ≠ none ∧ (args 0 8191 1 (granted (fr 3) base)).admitFails 1 32 8191 1 = none
    ∧ (args 0 8191 0 (granted (fr 3) base)).admitFails 1 32 8191 0 = none ∧ ((args 0 8191 0 (granted (fr 3) base)).admitRefusal 1 32 8191 0 = none ∧ (args 0 8191 0 (granted (fr 3) base)).pte 32 8191 = 0)
    ∧ (let s : State := { args 0 8191 0x1001 (granted (fr 3) base) with frames := [(32, fr 3), (33, fr 1)] }
      s.resolve 1 0 = some 32 ∧ s.admitRefusal 1 32 8191 0x1001 = none ∧ s.admitFails 1 32 8191 0x1001 = none ∧ s.pte 32 8191 ≠ 0x1001) := by decide +kernel

/-- GRANT at the quota; of a host granule beyond the region, and within it; of a machine allotment, with none left and with some. -/
def quota (n : Nat) (hosts : Nat) : State → State := fun s => s.modTenant 1 fun t => { t with quota := n, hostCount := hosts }

theorem witness_grant : 0 = (base.tenant 1).alen ∧ (base.tenant 1).allotAddr 0 % 4 = 0 ∧ base.dramBad ((base.tenant 1).allotAddr 0) = false
    ∧ (let s := (granted (fr 1) base).modTenant 1 fun t => { t with alen := 2 }
      1 < (s.tenant 1).alen ∧ (s.allotRead 1 0).toOption.map (·.getLsbD 31) = some true ∧ (s.allotRead 1 1).toOption.map (·.getLsbD 31) = some false)
    ∧ ((quota 0 0 base).tenant 1).quota ≤ ((quota 0 0 base).tenant 1).held
    ∧ (let k := (args 1 5 0 (quota 9 5 base)).tenant 1
      k.held < k.quota ∧ k.fcarg0.getLsbD 0 = true ∧ k.hostCount ≤ k.fcarg1.toNat)
    ∧ (let k := (args 1 4 0 (quota 9 5 base)).tenant 1
      k.held < k.quota ∧ k.fcarg0.getLsbD 0 = true ∧ k.fcarg1.toNat < k.hostCount ∧ k.fcarg1.toNat < 131072)
    ∧ (trising none base.tenants = true ∧ (base.tenant 1).held < (base.tenant 1).quota ∧ (base.tenant 1).fcarg0.getLsbD 0 = false
      ∧ base.allotFree 131071 = true) := by decide +kernel

/-- The Lodge has taken every machine allotment. -/
def spent : State := { base with lodge := { base.lodge with sys := [(0, 32 * Config.machineAllotments)] } }

theorem spent_sys (n : Nat) (h : n < Config.machineAllotments) : n ∈ spent.sysAllots := by
  simp only [State.sysAllots, spent, List.mem_eraseDups, List.flatMap_cons, List.flatMap_nil, List.append_nil, List.mem_map, List.mem_range]
  exact ⟨n, by omega, by omega⟩

theorem witness_none_left : spent.allotFree 0 = false ∧ spent.noneFree = true ∧ trising none spent.tenants = true
    ∧ (spent.tenant 1).held < (spent.tenant 1).quota := by
  refine ⟨?_, ?_, by decide +kernel, by decide +kernel⟩
  · have h := spent_sys 0 (by decide)
    simp [State.allotFree, h]
  · rw [State.noneFree, decide_eq_true_eq]
    have h : List.range Config.machineAllotments ⊆ (spent.granted ++ spent.sysAllots).eraseDups := fun n hn => by
      rw [List.mem_eraseDups, List.mem_append]
      exact .inr (spent_sys n (List.mem_range.mp hn))
    simpa using (List.nodup_range.subperm h).length_le

/-- RETURN of nothing, of an entry that cannot be read, of one that is not valid, of an allotment in use, of a free one. -/
theorem witness_return : ((base.tenant 1).alen ≤ 0)
    ∧ (let s := { granted (fr 1) base with bad := [(10, 0)] }
      0 < (s.tenant 1).alen ∧ (match s.allotRead 1 0 with | .error (.abort 10 0) => true | _ => false) = true)
    ∧ (let s := (granted (fr 1) base).modTenant 1 fun t => { t with alen := 2 }
      1 < (s.tenant 1).alen ∧ (s.allotRead 1 1).toOption = some 0)
    ∧ (let s := granted (fr 1) base
      0 < (s.tenant 1).alen ∧ (s.allotRead 1 0).toOption = some 0x80000001 ∧ (s.tenant 1).allotAddr 0 % 4 = 0 ∧ (s.frame (1 * 32 + 0)).ftype ≠ 0)
    ∧ (let s := granted (fr 0) base
      0 < (s.tenant 1).alen ∧ (s.allotRead 1 0).toOption = some 0x80000001
        ∧ ∀ i, i < 32 → (s.frame (1 * 32 + i)).ftype = 0 ∧ (s.frame (1 * 32 + i)).use = 0 ∧ (s.frame (1 * 32 + i)).pin = 0)
    ∧ base.ctxOn 1 0 = true := by decide +kernel

/-! ### Access paths -/

/-- The host's window: closed; open on a page without a translation; on a page that is no data, and on one that is. -/
def window (w : W64) : State → State := fun s => s.modTenant 1 fun t => { t with hwbase := w }

theorem witness_window : (base.tenant 1).live = true ∧ base.lodge.boot ≠ .failed ∧ (base.tenant 1).hwbase.getLsbD 63 = false ∧ (base.tenant 1).l2cap ≠ 0 ∧ base.bad = []
    ∧ ((window (2 ^ 63) base).tenant 1).hwbase.getLsbD 63 = true
    ∧ (match ((window (2 ^ 63) base).translate 1 0).2 with | .error (.fail _ _) => true | _ => false) = true
    ∧ ((paged 1 (window (2 ^ 63) base)).translate 1 63).2.toOption = some ⟨32, 1, true, false, false⟩
    ∧ ((paged 0 (window (2 ^ 63) base)).translate 1 63).2.toOption = some ⟨32, 0, true, false, false⟩ := by decide +kernel

/-- Requests of another package: without an import; through one, where L2 or DRAM holds the bytes. -/
def imported (s : State) : State := { s with imports := [(0, 1)] }

theorem homeHolds {s : State} {leaf : Leaf} (h1 : s.bad = [] ∧ (s.tenant 1).l2cap ≠ 0 ∧ s.l2 = []
    ∧ (s.translate 1 (glineTia (gia 1 0 / 128))).2.toOption = some leaf ∧ leaf.host = false ∧ leaf.nc = false ∧ leaf.kind ≠ 3
    ∧ (s.frame leaf.frame).damaged = false)
    (h2 : ∀ k, k < 4 → s.dram.get (leaf.frame * 65536 + 0 % 65536 + k) = BitVec.ofNat 8 k) : HomeHolds s 1 0 4 [0, 1, 2, 3] := by
  obtain ⟨h1, hc, hl, ht, a, b, c, d⟩ := h1
  refine ⟨by decide, by decide, h1, hc, .inr ⟨fun k hk => (by rw [hl] at hk; cases hk), by rw [hl]; decide, leaf, ?_, a, b, c, d, ?_⟩⟩
  · cases h : (s.translate 1 (glineTia (gia 1 0 / 128))).2 with
    | error e => rw [h] at ht; cases ht
    | ok l => rw [h] at ht; cases ht; rfl
  · exact (List.map_congr_left (f := fun k => BitVec.ofNat 8 k) (l := List.range 4)
      fun k hk => (h2 k (List.mem_range.mp hk)).symm)

theorem witness_fabric : tget 0 base.imports 0 = 0 ∧ tget 0 (imported base).imports (0 * 64 + 0 % 64) = 1 ∧ ((imported base).tenant 1).live = true
    ∧ HomeHolds (inDram (paged 0 (imported base))) 1 0 4 [0, 1, 2, 3] ∧ ((paged 1 (imported base)).translate 1 0).2.toOption = some ⟨32, 1, true, false, false⟩ :=
  ⟨by decide +kernel, by decide +kernel, by decide +kernel,
    homeHolds (leaf := ⟨32, 0, true, false, false⟩) (by decide +kernel) (by decide +kernel), by decide +kernel⟩

/-- A fill into a line of the L1, and its write permission: from L2, of a page of data, of code, of data that may not be written, of a host
page, of an uncacheable one, and without a translation. -/
def reader (s : State) : State := s.modCore 0 fun c => { c with l1 := [{ line1 with wp := false, valid := 1 }] }

theorem witness_fill_line : glineTid (gia 1 0 / 128) = 1 ∧ (inL2 (reader base)).l2.find? (fun k => k.gline = gia 1 0 / 128) = some ⟨gia 1 0 / 128, line1.data, 0, true, false, 32, 0⟩
    ∧ ((inL2 (reader base)).coreOf 0).l1? (gia 1 0 / 128) = some { line1 with wp := false, valid := 1 }
    ∧ ((paged 0 base).translate 1 (glineTia (gia 1 0 / 128))).2.toOption = some ⟨32, 0, true, false, false⟩
    ∧ ((paged 1 base).translate 1 (glineTia (gia 1 0 / 128))).2.toOption = some ⟨32, 1, true, false, false⟩
    ∧ (({ base with tlb := [⟨gia 1 0 / 128, 1, 0, 32, 0, false, false, false⟩] } : State).translate 1 (glineTia (gia 1 0 / 128))).2.toOption
      = some ⟨32, 0, false, false, false⟩
    ∧ (({ base with tlb := [⟨gia 1 0 / 128, 1, 0, 32, 0, true, false, true⟩] } : State).translate 1 (glineTia (gia 1 0 / 128))).2.toOption
      = some ⟨32, 0, true, false, true⟩
    ∧ (({ base with tlb := [⟨gia 1 0 / 128, 1, 0, 32, 0, true, true, false⟩] } : State).translate 1 (glineTia (gia 1 0 / 128))).2.toOption
      = some ⟨32, 0, true, true, false⟩
    ∧ (base.translate 1 (glineTia (gia 1 0 / 128))).2.toOption = none := by decide +kernel

/-- Fetches: refused; no header; a bad header; a stray word; a clause. The context's first line holds one word throughout, or a header and
NOPs. -/
def lined (d : Nat → W32) (s : State) : State := onQ (fun q => { q with clause := none })
  (s.modCore 0 fun c => { c with ic := [⟨4, 0, 0, lineOf fun i => (d (i / 4)).extractLsb' (8 * (i % 4)) 8⟩] })
abbrev fetched (s : State) (x : Iss) : Option (BitVec 1024) := (s.fetchLine x.t.core x.l.cid x.q.pc.toNat).2.toOption

theorem witness_fetch : (∃ x, (onQ (fun q => { q with clause := none }) base).issAt 3 0 = some x ∧ x.g.ref = 3 ∧ x.q.tag = 0 ∧ x.q.hold = none ∧ x.g.run = .run ∧ x.mayRun = true
      ∧ x.g.trap.waits = false ∧ (onQ (fun q => { q with clause := none }) base).debugHeld x.t.core = false
      ∧ (onQ (fun q => { q with clause := none }) base).bad = [] ∧ fetched (onQ (fun q => { q with clause := none }) base) x = none)
    ∧ (∃ x, (lined (fun _ => noHdr) base).issAt 3 0 = some x ∧ x.q.clause = none ∧ x.q.pc = 16
      ∧ (fetched (lined (fun _ => noHdr) base) x).any (fun d => (d.extractLsb' 128 32).extractLsb' 25 7 ≠ 0x7F) = true)
    ∧ (∃ x, (lined (fun _ => 0xFF000000) base).issAt 3 0 = some x ∧ x.q.clause = none ∧ x.q.pc = 16
      ∧ (fetched (lined (fun _ => 0xFF000000) base) x).any (fun d => (d.extractLsb' 128 32).extractLsb' 25 7 = 0x7F && (d.extractLsb' 128 32).getLsbD 24) = true)
    ∧ (∃ x, (lined (fun i => if i = 4 then 0xFE000001 else hdr) base).issAt 3 0 = some x ∧ x.q.clause = none ∧ x.q.pc = 16
      ∧ (fetched (lined (fun i => if i = 4 then 0xFE000001 else hdr) base) x).any (fun d => (d.extractLsb' 160 32).extractLsb' 25 7 = 0x7F) = true)
    ∧ ∃ x, (lined (fun i => if i = 4 then 0xFE000003 else noHdr) base).issAt 3 0 = some x ∧ x.q.clause = none ∧ x.q.pc = 16
      ∧ (fetched (lined (fun i => if i = 4 then 0xFE000003 else noHdr) base) x).any (fun d => decide ((d.extractLsb' 128 32).extractLsb' 25 7 = 0x7F
        ∧ (d.extractLsb' 128 32).extractLsb' 0 4 = 3 ∧ (d.extractLsb' 160 32).extractLsb' 25 7 ≠ 0x7F ∧ (d.extractLsb' 192 32).extractLsb' 25 7 ≠ 0x7F
        ∧ (d.extractLsb' 224 32).extractLsb' 25 7 ≠ 0x7F)) = true :=
  ⟨holds (by decide +kernel), holds (by decide +kernel), holds (by decide +kernel), holds (by decide +kernel), holds (by decide +kernel)⟩

/-- The selection: nothing ready; a word of the lane engine; another word; one that has waited 256 clocks; a gang of two groups; more than
eight quads at once. -/
def idle (s : State) : State := { s with focus := [] }
def mayTake (s : State) (port : Nat) : List Group := (s.partGroups 0 0).filter fun g =>
  (turnOf g.lastQuad (s.readySets g)).any fun q => q.port = port && decide (s.portAt 0 0 port = []) && !(tget [] (s.coreOf 0).issued 0).contains g.ref
def lane : State := idle (place (.vadd 4 5 6 0 0))

theorem witness_selection : (idle base).lodge.drain = false ∧ (idle base).portWait 0 0 = 0 ∧ (idle base).portWait 191 3 = 0
    ∧ (∀ g ∈ (idle base).groups, (idle base).group? g.ref = some g ∧ ∀ q ∈ g.qsets, g.q? q.tag = some q)
    ∧ (idle base).partGroups 191 3 = [] ∧ (mayTake (idle base) 1).length = 1 ∧ mayTake (idle base) 0 = []
    ∧ lane.portWait 0 0 = 0 ∧ (mayTake lane 0).length = 1
    ∧ (∃ k ∈ mayTake (idle (onG (fun g => { g with ready := 256 }) base)) 1, 256 ≤ k.ready)
    ∧ (pair lane).portWait 0 0 = 0 ∧ (mayTake (pair lane) 0).length = 2
    ∧ (let s := onQ (fun q => { q with quads := 0xFFFF }) lane
      s.portWait 0 0 = 0 ∧ (mayTake s 0).length = 1 ∧ ∀ g ∈ mayTake s 0, ∀ q ∈ g.qsets, 8 < quadCount q.quads) := by decide +kernel

/-! ### Errors, links and power -/

/-- A dirty line of L2, and lines of the L1 whose last byte is dirty. -/
def dirtyL2 (s : State) : State := { s with l2 := [⟨gia 1 0 / 128, line1.data, 1, true, false, 32, 0⟩] }
def dirtyL1 (s : State) : State := s.modCore 0 fun c => { c with l1 := [{ line1 with dirty := 1#128 <<< 127 }] }

/-- What an abort falls on: a group with stores in flight, a copy, a chain; a word of DRAM that is bad already; in a line that is dirty. -/
def storing : State := onT (fun t => { t with pacer := none })
  (aloft (.vst 8 6 4 1 0 0) [⟨0, .spad 0, 4, [1], 0, 0, true⟩, ⟨1, .spad 65532, 4, [2], 0, 0, true⟩] .lane 0 0)

theorem witness_abort : base.lodge.log.length < Config.logMax
    ∧ (copying cp base).copy? cp.job = some cp ∧ cp.phase = .moving ∧ 0 < cp.chunks.length
    ∧ (tget Channel.reset ((chan (linked ⟨0, 0, 1, true, none, 0, 0, 0, [(0, 0)]⟩) base).tenant 1).chans 63).chain = some ⟨0, 0, 1, true, none, 0, 0, 0, [(0, 0)]⟩
    ∧ (10, errKey 10 64) ∈ ({ base with bad := [(10, 64)] } : State).bad ∧ (10, errKey 10 95) ∉ base.bad
    ∧ (dirtyL2 base).dirtyAt 6 (32 * 65536 + 127) false = true ∧ (dirtyL1 base).dirtyAt 3 (32 * 65536 + 127) false = true := by decide +kernel

/-- The lines of the L1 that a place of unit 3 names, as the statement has them. -/
def wordLines (s : State) (place : Nat) : List L1Line := (s.coreOf (place / 2 ^ 48)).l1.filter fun n =>
  n.stamp = place % 2 ^ 48 / 65536 ∧ glineTia n.gline % 65536 = place % 2 ^ 48 % 65536 / 128 * 128

/-- What a scrub finds: an empty log; a clean line of L2 and a dirty one; a clean line of the L1, one dirty in the word, one dirty elsewhere. -/
theorem witness_scrub : (∀ r ∈ base.lodge.log, ¬(r.cls = 1 ∧ r.unit = 10 ∧ r.place = 0)) ∧ (10, 0 / 32 * 32) ∉ base.bad
    ∧ ((inL2 base).l2At (32 * 65536 + 127)).map (·.dirty) = [0] ∧ ((dirtyL2 base).l2At (32 * 65536 + 127)).map (·.dirty) = [1]
    ∧ (wordLines (inL1 base) (32 * 65536 + 127)).map (·.dirty) = [0]
    ∧ (wordLines (dirtyL1 base) (32 * 65536 + 127)).map (·.dirty.getLsbD (8 * (127 / 8) + 7)) = [true]
    ∧ (wordLines (dirtyL1 base) (32 * 65536)).map (·.dirty.extractLsb' 0 64) = [0]
    ∧ (∃ e ∈ wordLines (dirtyL1 base) (32 * 65536), e.dirty ≠ 0) := by decide +kernel

/-- Links: up, at 7 failures, retraining, at the last retraining. -/
theorem witness_links : (tget Link.reset base.links 22).down = false ∧ (tget Link.reset base.links 22).retraining = false ∧ (tget Link.reset base.links 22).fails < 7
    ∧ (tget Link.reset ({ base with links := [(22, ⟨7, false, 0, false⟩)] } : State).links 22).fails = 7
    ∧ (tget Link.reset ({ base with links := [(22, ⟨0, true, 1, false⟩)] } : State).links 22).retraining = true
    ∧ (tget Link.reset ({ base with links := [(22, ⟨0, true, 2, false⟩)] } : State).links 22) = ⟨0, true, 2, false⟩ := by decide +kernel

theorem witness_damaged : ((granted { fr 0 with damaged := true } base).frame 32).damaged = true
    ∧ ((granted { fr 0 with damaged := true } base).frame 32).ftype = 0 := by decide +kernel

/-- Power: each stage with its condition; a declaration at its bound and one past it; before the drain and after it. -/
def lodge (f : Lodge → Lodge) (s : State) : State := { s with lodge := f s.lodge }

theorem witness_power : 0 < (lodge (fun d => { d with stage := 5 }) base).lodge.stage
    ∧ ((lodge (fun d => { d with stage := 4 }) base).lodge.drain = false ∧ (lodge (fun d => { d with stage := 4 }) base).lodge.loans = [])
    ∧ (lodge (fun d => { d with stage := 3, loans := [(2, 1)] }) base).lentTo 2 ≠ 0
    ∧ (let s := lodge (fun d => { d with boot := .ok }) base
      s.lodge.boot = .ok ∧ (s.tenant 1).live = true ∧ 1 ≤ 8192 ∧ 0 + 8192 * 65536 ≤ 2 ^ 48 ∧ s.lodge.regions.length < 32
        ∧ (s.lodge.regions.map fun r => r.2.2).sum + 8192 ≤ 8192 ∧ s.drainSum + 8192 * 65536 ≤ 32 * 24750000)
    ∧ (let s := lodge (fun d => { d with boot := .ok }) base
      ¬(s.lodge.regions.map fun r => r.2.2).sum + 8193 ≤ 8192)
    ∧ base.lodge.drain = false
    ∧ (let s := lodge (fun d => { d with drain := true, pwrfail := true }) base
      s.lodge.pwrfail = true ∧ s.lodge.drain = true) := by decide +kernel

/-! ### Tenancy and layout -/

/-- A flip of another generation, to a bank that is not well formed, that drives a team off, and one that takes effect. -/
def banks (b : Tbl (W64 × W64 × W64)) : State := lodge (fun d => { d with bank1 := b }) (laid 0 base)

theorem witness_flip : (banks []).lodge.boot = .ok ∧ (banks []).lodge.drain = false ∧ (0#64).extractLsb' 32 32 ≠ (banks []).lodge.gen + 1
    ∧ (0x100000000#64).extractLsb' 32 32 = (banks []).lodge.gen + 1 ∧ bankOk (banks [(0, (1, 0, 0x400))]).lodge.bank1 = false
    ∧ (banks []).losing (banks []).lodge.bank1 ≠ []
    ∧ bankOk (banks [(0, (1, 0, 0))]).lodge.bank1 = true ∧ (banks [(0, (1, 0, 0))]).losing (banks [(0, (1, 0, 0))]).lodge.bank1 = []
    ∧ ∀ c, ((banks [(0, (1, 0, 0))]).coreOf c).dbg = ⟨false, false, 0⟩ :=
  ⟨by decide +kernel, by decide +kernel, by decide +kernel, by decide +kernel, by decide +kernel, by decide +kernel, by decide +kernel, by decide +kernel,
    fun c => by simp only [State.coreOf, banks, lodge, laid, tget]; split <;> [rfl; split <;> rfl]⟩

/-- Paddock 1 is tenant 2's and may be lent to tenant 1; lent, its owner's tenancy gone; recalled and late. -/
def lender : State := { lodge (fun d => { d with bank0 := [(1, (0x82, 2, 0))], lidle := 0 }) (laid 0 base) with
  tenants := base.tenants ++ [(2, { Tenant.reset with live := true })] }

theorem witness_loan : lender.lodge.boot = .ok ∧ lendDue lender 1 1 = true
    ∧ recallDue (lodge (fun d => { d with loans := [(1, 1)] }) (laid 0 base)) 1 = true
    ∧ (∀ u ∈ base.teams, base.team? u.ref = some u)
    ∧ 1 ∈ (lodge (fun d => { d with loans := [(1, 1)], recalls := [1] }) (laid 0 base)).lodge.recalls
    ∧ 1 ∉ (lodge (fun d => { d with loans := [(1, 1)], recalls := [1] }) (laid 0 base)).lodge.late := by
  have h : decide (lender.lodge.lidle * Config.lodgeMs ≤ 1000 * tget 0 lender.lodge.idle 1) = true := by
    rw [decide_eq_true_eq, show lender.lodge.lidle = 0 from rfl, Nat.zero_mul]; exact Nat.zero_le _
  refine ⟨by decide +kernel, ?_, by decide +kernel, by decide +kernel, by decide +kernel, by decide +kernel⟩
  rw [lendDue, State.idlePaddock, h]
  decide +kernel

/-- Tenancies: none under number 63 yet; a live one whose launches are complete, with its frames free, and with one in use. -/
theorem witness_tenancy : (base.tenant 63).live = false ∧ (base.tenant 1).live = true ∧ base.channelsUsed + 64 ≤ 256
    ∧ (let s := granted (fr 0) (onL (fun l => { l with state := .complete }) base)
      (∀ l ∈ s.launches, l.tid = 1 → l.state = .complete) ∧ s.machines 1 = [1] ∧ s.cores = [] ∧ ∀ m ∈ s.machines 1, ∀ i, i < 32 → (s.frame (m * 32 + i)).ftype = 0 ∧ (s.frame (m * 32 + i)).use = 0 ∧ (s.frame (m * 32 + i)).pin = 0)
    ∧ (let s := granted (fr 1) (onL (fun l => { l with state := .complete }) base)
      (∀ l ∈ s.launches, l.tid = 1 → l.state = .complete) ∧ 1 ∈ s.machines 1 ∧ (s.frame (1 * 32 + 0)).ftype ≠ 0) := by decide +kernel

/-! ### Reset and attestation -/

def stagesOf (n : Nat) : List BootStage := (List.range n).map fun i => ⟨[BitVec.ofNat 8 i], [7], true⟩

/-- A part whose fuses hold the digest of the stages' key, restarted with a layout record that is PREPARED. -/
def restarted : State := lodge (fun d => { d with
  boot := .ok, fuses := ⟨sha3 [7], []⟩, meas := [(0, sha3 [0]), (1, sha3 [1])], journal := some ⟨1, false, []⟩ }) base

theorem witness_boot : (2 ≤ (stagesOf 3).length ∧ ∀ b ∈ stagesOf 3, sha3 b.key = restarted.lodge.fuses.keyDigest ∧ b.signed = true)
    ∧ (stagesOf 1).length ≤ 1 ∧ restarted.lodge.boot ≠ .off
    ∧ (∀ i, i < 2 → ∀ b, (stagesOf 3)[i]? = some b → sha3 b.image = tget 0 restarted.lodge.meas i)
    ∧ restarted.lodge.journal = some ⟨restarted.lodge.gen + 1, false, []⟩
    ∧ (lodge (fun d => { d with boot := .ok, journal := some ⟨0, false, []⟩ }) base).lodge.gen = 0
    ∧ (lodge (fun d => { d with boot := .failed }) base).lodge.boot = .failed
    ∧ (lodge (fun d => { d with boot := .ok }) base).lodge.boot = .ok := by
  refine ⟨⟨by decide, fun b hb => ?_⟩, by decide, by decide, fun i hi b hb => ?_, rfl, rfl, rfl, rfl⟩
  · obtain ⟨i, -, rfl⟩ := List.mem_map.mp hb
    exact ⟨rfl, rfl⟩
  · interval_cases i <;> cases hb <;> rfl

/-! ### Further states: launches, channels, the host, errors -/

/-- No drain is on in these states, nothing known is unreadable, and no team has lost a word. -/
theorem witness_awake : ∀ s ∈ [base, ringed base, laid 0 base, laid 0x800 base, askedNow, teamIn .halted .halted (laid 0 base),
      teamIn .saved .saved (laid 0 base), stepReady, reading, storing, stage .queued true true base],
    s.lodge.drain = false ∧ s.bad = [] ∧ (∀ c, c < 2 → s.debugHeld c = false) ∧ ∀ t ∈ s.teams, t.lost = [] := by decide +kernel

/-- A launch whose checks pass: a header and a lease table in a page of code, and a table of one pacer in a page of data. -/
def kernelLine (paced : Bool) : BitVec 1024 := lineOf fun i =>
  (([if paced then 0xA5022000 else 0xA5020000, 0x01010100, 16, 16] : List W32).getD (i / 4) 0).extractLsb' (8 * (i % 4)) 8
def checkable (st : LaunchState) (paced : Bool) (pace : W64) (s : State) : State :=
  let s := onL (fun l => { l with state := st, record := [2 ^ 48, 0, 0, 0, 0, 0, 0, pace], kernel := { l.kernel with paced := paced } })
    (seg 0 (laid 0 s))
  { s with
    l2 := [⟨gia 1 0 / 128, kernelLine paced, 0, true, false, 32, 0⟩, ⟨gia 1 65536 / 128, lineOf fun i => if i = 2 then 1 else 0, 0, true, false, 33, 0⟩]
    tlb := [⟨gia 1 0 / 128, 1, 0, 32, 1, true, false, false⟩, ⟨gia 1 65536 / 128, 1, 1, 33, 0, true, false, false⟩] }
def featured (w : W64) (s : State) : State := s.modTenant 1 fun t => { t with feat := w }

theorem witness_launch_checks : (∃ l, (checkable .posted false 0 base).launch? 1 = some l ∧ l.ref = 1 ∧ l.state = .posted
      ∧ ((checkable .posted false 0 base).checkLaunch l).2.any (fun c => !c.kernel.paced) = true)
    ∧ (∀ w ∈ [0x1FF#64, 0], ∀ va ∈ [65536#64, 8], ∃ l, (featured w (checkable .posted true va base)).launch? 1 = some l ∧ l.ref = 1 ∧ l.state = .posted
      ∧ ((featured w (checkable .posted true va base)).checkLaunch l).2.any (fun c => c.kernel.paced && decide (featOn w 4 = decide (w ≠ 0))
        && decide (((featured w (checkable .posted true va base)).readPace c.cid c.paceVa c.teamCount c.kernel.spadBytes).2.isSome = (va = 65536))) = true)
    ∧ ∃ l, (onL (fun l => { l with state := .posted, record := [] }) base).launch? 1 = some l ∧ l.ref = 1
      ∧ ((onL (fun l => { l with state := .posted, record := [] }) base).checkLaunch l).2 = none := by
  refine ⟨holds (by decide +kernel), fun w hw va hv => ?_, holds (by decide +kernel)⟩
  simp only [List.mem_cons, List.not_mem_nil, or_false] at hw hv
  rcases hw with rfl | rfl <;> rcases hv with rfl | rfl <;> exact holds (by decide +kernel)

/-- A resident lease: on no segment; on a page without a translation, with a fault queue for the record; on one whose entry of the allotment
array fails its check. Paced, with its table good and bad. -/
def resident (s : State) : State := onL (fun l => { l with state := .queued, leaseOk := false, waiting := false, leases := [⟨false, false, 131072, 65536⟩] }) s
def faulting (s : State) : State := (onT (fun t => { t with stages := [(0, ⟨2, 32, 0, 0, [⟨.free, 0, 0, false⟩, ⟨.free, 0, 0, false⟩], []⟩)] }) s).modTenant 1
  fun t => { t with faultq := 0x8000000000000001 }

theorem witness_resident : (∃ l, (resident base).launch? 1 = some l ∧ l.ref = 1 ∧ l.state = .queued ∧ l.leaseOk = false ∧ l.waiting = false
      ∧ (resident base).residentFate l = .lease none)
    ∧ (∀ va ∈ [65536#64, 8], ∃ l, (resident (checkable .queued true va { base with teams := [] })).launch? 1 = some l ∧ l.kernel.paced = true
      ∧ (((resident (checkable .queued true va { base with teams := [] })).readPace l.cid l.paceVa l.teamCount l.kernel.spadBytes).2.isSome = (va = 65536)))
    ∧ (∃ l, (faulting (resident (seg 0 base))).launch? 1 = some l ∧ l.ref = 1 ∧ l.state = .queued ∧ l.leaseOk = false ∧ l.waiting = false
      ∧ (match (faulting (resident (seg 0 base))).residentFate l with | .record _ _ _ _ _ => true | _ => false) = true
      ∧ ((faulting (resident (seg 0 base))).faultStage l.tid).isSome = true)
    ∧ ∃ l, (resident (seg 0 { mapped with bad := [(10, 0)] })).launch? 1 = some l ∧ l.ref = 1 ∧ l.state = .queued ∧ l.leaseOk = false ∧ l.waiting = false
      ∧ (resident (seg 0 { mapped with bad := [(10, 0)] })).residentFate l = .lease (some (10, 0)) := by
  refine ⟨holds (by decide +kernel), fun va hv => ?_, holds (by decide +kernel), holds (by decide +kernel)⟩
  simp only [List.mem_cons, List.not_mem_nil, or_false] at hv
  rcases hv with rfl | rfl <;> exact holds (by decide +kernel)

/-- A word that a channel reads. -/
theorem readsWord {s : State} {tid va : Nat} {c : Ctx} {w : W64} (h : (decide (va < 2 ^ 48) && match c.place va with
    | some (i, .glob va' tia) => decide (va' = va) && (c.seg i 3).getLsbD 0 && decide (tia < 2 ^ 48 ∧ tia % 128 + 8 ≤ 128)
      && (s.l2.find? fun l => l.gline = gia tid tia / 128).any fun l =>
        decide (l.withheld = 0 ∧ leBytes 8 w.toNat = (List.range 8).map fun k => lineByte l.data (tia % 128 + k))
    | _ => false) = true) : ReadsWord s tid c va w := by
  rw [Bool.and_eq_true, decide_eq_true_eq] at h
  obtain ⟨hv, h⟩ := h
  split at h
  · rename_i hp
    simp only [Bool.and_eq_true, decide_eq_true_eq] at h
    obtain ⟨⟨⟨rfl, hr⟩, h1, h2⟩, hl⟩ := h
    obtain ⟨l, hf, hw, hb⟩ := holds hl
    exact ⟨hv, _, _, hp, hr, h1, h2, l, hf, hw, hb⟩
  · cases h

/-- Channel 63 is bound to context 4, with one template at address 0 and parameters from 64 on; source and destination are lines of page 0. -/
def wordLine (ws : List W64) : BitVec 1024 := lineOf fun i => (ws.getD (i / 8) 0).extractLsb' (8 * (i % 8)) 8
def bound : Binding := ⟨0x0004000000000000, 0x0001000000000040, 0⟩
def template (kind len : W64) : List W64 := [0x00000102FFFF0000 + kind, 5, 0, 0, 0, 0, 0, 0, len, 256, 128]
def transfer (kind len : W64) (k : Chain) : State :=
  { chan { linked k with bind := bound } (seg 0 base) with
    tlb := [⟨gia 1 256 / 128, 1, 0, 32, 0, true, false, false⟩]
    l2 := [⟨gia 1 0 / 128, wordLine (template kind len), 0, true, false, 32, 0⟩, ⟨gia 1 128 / 128, line1.data, 0, true, false, 32, 0⟩,
      ⟨gia 1 256 / 128, line1.data, 0, true, false, 32, 0⟩] }

theorem witness_template : (∀ e ∈ [(1#64, 64#64), (2, 64), (1, 4), (0, 64)], let s := transfer e.1 e.2 ⟨0, 0, 63, false, none, 0, 0, 0, []⟩
      (∀ i, i < 4 → ReadsWord s 1 (s.xferCtx 1 bound) (0 + 32 * 0 + 8 * i) ((template e.1 e.2).getD i 0))
      ∧ ReadsWord s 1 (s.xferCtx 1 bound) 64 e.2 ∧ ReadsWord s 1 (s.xferCtx 1 bound) (64 + 8) 256 ∧ ReadsWord s 1 (s.xferCtx 1 bound) (64 + 16) 128)
    ∧ (let s := transfer 1 64 ⟨0, 0, 63, false, none, 0, 0, 0, []⟩
      (s.channel 1 63).chain = some ⟨0, 0, 63, false, none, 0, 0, 0, []⟩ ∧ (s.channel 1 63).bind = bound ∧ s.lodge.drain = false
        ∧ 0 < (bound.word1.extractLsb' 48 16).toNat ∧ (s.tenant 1).live = true) := by
  refine ⟨fun e he => ?_, by decide +kernel⟩
  simp only [List.mem_cons, List.not_mem_nil, or_false] at he
  rcases he with rfl | rfl | rfl | rfl <;> refine ⟨fun i hi => ?_, readsWord (by decide +kernel), readsWord (by decide +kernel), readsWord (by decide +kernel)⟩ <;>
    interval_cases i <;> exact readsWord (by decide +kernel)

theorem witness_line_move : ∀ p ∈ [none, some 5#64], let s := transfer 1 64 ⟨0, 0, 1, true, p, 128, 256, 0xFFFF, [(0, 64)]⟩
    (s.channel 1 63).chain = some ⟨0, 0, 1, true, p, 128, 256, 0xFFFF, [(0, 64)]⟩ ∧ (s.channel 1 63).bind = bound
    ∧ (s.xferCtx 1 bound).place (256 + 0) = some (0, .glob 256 256) ∧ ((s.xferCtx 1 bound).seg 0 3).getLsbD 1 = true
    ∧ (s.translate 1 256).2.toOption = some ⟨32, 0, true, false, false⟩
    ∧ s.l2.find? (fun l => l.gline = gia 1 256 / 128) = some ⟨gia 1 256 / 128, line1.data, 0, true, false, 32, 0⟩
    ∧ ∀ j, j < 8 → ReadsWord s 1 (s.xferCtx 1 bound) (128 + 0 + 8 * j) (BitVec.ofNat 64 (leNat ((List.range 8).map fun k => lineByte line1.data (8 * j + k)))) := by
  intro p hp
  simp only [List.mem_cons, List.not_mem_nil, or_false] at hp
  rcases hp with rfl | rfl <;> refine ⟨by decide +kernel, by decide +kernel, by decide +kernel, by decide +kernel, by decide +kernel, by decide +kernel,
    fun j hj => ?_⟩ <;> interval_cases j <;> exact readsWord (by decide +kernel)

/-- The read of a slot that is gone: one step past the window, and of a producer that has ended. -/
def late (ended : Bool) : State := { reading with teams := reading.teams.map fun t => if t.ref = 50 then
  { t with state := if ended then .ended else t.state, pacer := t.pacer.map fun p => if ended then p else { p with step := BitVec.ofNat 32 p.window } } else t }

theorem witness_ldp_stale : ∀ e ∈ [false, true], ∃ r, (late e).ldpAt 3 0 = some r ∧ ldpDue (late e) 3 0 = true ∧ r.1.fid = 0
    ∧ (r.2.2.2.2.1.pacer.any fun p => decide (r.2.2.2.2.1.state = .ended ∨ (p.step - (r.2.2.2.2.2.setWidth 32 + BitVec.ofNat 32 p.window)).toNat < 2 ^ 31)) = true
    ∧ (r.1.accs.map (·.lane)).Nodup ∧ r.1.accs = [⟨0, .matrix 15 0, 4, [], 0, 0, true⟩] ∧ r.1.failed = 0 ∧ PacerStays (late e) r.2.1
    ∧ r.1.left ≠ [] ∧ r.1.trap = none
    ∧ ∃ g, (late e).group? 3 = some g ∧ g.ref = 3 ∧ g.trap.replay = [] ∧ g.busy = [] ∧ g.run ≠ .retired := by
  intro e he
  have h : ∃ r, (late e).ldpAt 3 0 = some r ∧ ldpDue (late e) 3 0 = true ∧ r.1.fid = 0
      ∧ (r.2.2.2.2.1.pacer.any fun p => decide (r.2.2.2.2.1.state = .ended ∨ (p.step - (r.2.2.2.2.2.setWidth 32 + BitVec.ofNat 32 p.window)).toNat < 2 ^ 31)) = true
      ∧ (r.1.accs.map (·.lane)).Nodup ∧ r.1.accs = [⟨0, .matrix 15 0, 4, [], 0, 0, true⟩] ∧ r.1.failed = 0 ∧ calm (late e) r.2.1 = true
      ∧ r.1.left ≠ [] ∧ r.1.trap = none
      ∧ (((late e).group? 3).any fun g => decide (g.ref = 3 ∧ g.trap.replay = [] ∧ g.busy = [] ∧ g.run ≠ .retired)) = true := by
    simp only [List.mem_cons, List.not_mem_nil, or_false] at he
    rcases he with rfl | rfl <;> exact holds (by decide +kernel)
  obtain ⟨r, h, a, b, c, d, k, m, n, o, p, q⟩ := h
  exact ⟨r, h, a, b, c, d, k, m, calm_spec n, o, p, holds q⟩

/-- The accepted copy is its group's. -/
theorem witness_copy_group : cp.grp = 3 ∧ (copying { cp with phase := .offered, chunks := [] } base).lodge.drain = false
    ∧ ∀ t ∈ (copying cp base).teams, t.lost = [] := by decide +kernel

/-- The acknowledgement of an entry that had a target, and with a command that waits for its line. -/
def waitingFor (k : W64 × W64 × W64) (s : State) : State := s.modTenant 1 fun t => { t with fcwait := some k }
theorem witness_acknowledge_more : (∀ s ∈ [({ granted (fr 3) base with adms := [{ admitted with gone := some 33 }] } : State),
      waitingFor (0, 5, 0) { granted (fr 3) base with adms := [admitted] }],
      (∃ a ∈ s.adms, a.adm = 9 ∧ s.adms.find? (fun b => b.adm = a.adm) = some a ∧ s.ackDue a = true))
    ∧ (base.tenant 1).fcwait = none ∧ ((waitingFor (0, 5, 0) base).tenant 1).fcwait = some (0, 5, 0) := by decide +kernel

/-- The host: no tenancy, and a failed boot; an ADMIT to a line whose admission is not acknowledged; a GRANT whose entry cannot be read. -/
theorem witness_unsupported : (base.tenant 63).live = false ∧ (lodge (fun d => { d with boot := .failed }) base).lodge.boot = .failed := by decide +kernel

theorem witness_admit_waits : (let s : State := args 0 15 0 { granted (fr 3) base with adms := [{ admitted with src := some (3, 0) }] }
      s.admitFree 1 (0, 15, 0) = false ∧ (s.tenant 1).fcwait = none ∧ (∀ a ∈ s.adms, ¬(a.tid = 1 ∧ a.src = none)) ∧ (s.tenant 1).fcarg1 = 15)
    ∧ (let s : State := args 0 16 0 { granted (fr 3) base with adms := [{ admitted with src := some (3, 0) }] }
      s.admitFree 1 (0, 16, 0) = true) := by decide +kernel

theorem witness_grant_unread : let s : State := { args 1 4 0 (quota 9 5 base) with bad := [(10, 0)] }
    0 = (s.tenant 1).alen ∧ (s.tenant 1).held < (s.tenant 1).quota ∧ (s.tenant 1).fcarg0.getLsbD 0 = true
    ∧ (match s.allotRead 1 0 with | .error (.abort 10 0) => true | _ => false) = true := by decide +kernel

/-- Access paths: a page of host memory, with no line of it in L2; a fill of a line whose frame is whole. -/
theorem witness_host_page : ((hosted (imported (window (2 ^ 63) base))).translate 1 0).2.toOption = some ⟨32, 0, true, false, true⟩
    ∧ (∀ l ∈ (hosted (imported (window (2 ^ 63) base))).l2, l.gline ≠ gia 1 0 / 128)
    ∧ ((hosted (imported (window (2 ^ 63) base))).tenant 1).hwbase.getLsbD 63 = true ∧ ((inL2 (reader base)).frame 32).damaged = false := by decide +kernel

/-- The selection: a quad-set that wakes, and two groups of which one has issued in the clock. -/
theorem witness_selection_more : (let s := idle (onQ (fun q => { q with hold := some ⟨.cond, false, 0, 0, []⟩ }) (place (.waitSb 1)))
      s.portWait 0 0 = 0 ∧ (mayTake s 1).length = 1 ∧ ∀ g ∈ mayTake s 1, ∀ q ∈ g.qsets, q.hold ≠ none ∧ q.instr?.all (fun i => !isMms i) = true)
    ∧ (let s := (idle (pair base)).modCore 0 fun c => { c with issued := [(0, [3])] }
      s.portWait 0 0 = 0 ∧ (mayTake s 1).map (·.ref) = [99]) := by decide +kernel

/-- Aborts that answer a request: lanes by their registers, by a scratchpad word they store to or load from, by a DRAM word, by a dirty line of
L2 and of L1; a group by its registers and by a scalar load; a copy, a launch and a transfer. -/
def unpaced (s : State) : State := onT (fun t => { t with pacer := none }) s
def loadOf (off : Nat) : State := unpaced (one (.vld 8 4 4 0 0 0) (.glob off off) 4 [] .lane 8 1)
def storeOne : State := unpaced (one (.vst 8 6 4 1 0 0) (.spad 0) 4 [1] .lane 0 0)
def chaining : State := chan { linked ⟨0, 0, 1, false, none, 0, 0, 0, []⟩ with bind := bound } (seg 0 (paged 0 base))
def checking : State := stage .queued true false (resident (seg 0 mapped))

theorem witness_abort_lanes : storing.abortDue (.lanes 3 1) 0 0 = true ∧ storeOne.abortDue (.lanes 3 1) 2 0 = true
    ∧ (inDram (paged 0 (loadOf 0))).abortDue (.lanes 3 1) 10 0x200000 = true ∧ (dirtyL2 (paged 0 (loadOf 0))).abortDue (.lanes 3 1) 6 0x200000 = true
    ∧ (dirtyL1 (paged 0 (loadOf 124))).abortDue (.lanes 3 1) 3 (0x200000 + 120) = true ∧ placeCore 0 = 0 ∧ placePart 0 = 0 :=
  ⟨by decide +kernel, by decide +kernel, by decide +kernel, by decide +kernel, by decide +kernel, by decide, by decide⟩

theorem witness_abort_others : storing.abortDue (.group 3) 1 0 = true
    ∧ (unpaced (one (.sld 5 4 0 1) (.spad 0) 8 [] .scalar 5 1)).abortDue (.group 3) 2 0 = true
    ∧ (copying cp base).abortDue (.copy 9 0) 2 0 = true ∧ checking.abortDue (.launch 1) 10 0 = true ∧ chaining.abortDue (.transfer 1 63) 10 0x200000 = true
    ∧ (dirtyL2 base).abortDue (.frame 32) 6 (32 * 65536 + 127) = true :=
  ⟨by decide +kernel, by decide +kernel, by decide +kernel, by decide +kernel, by decide +kernel, by decide +kernel⟩

theorem witness_abort_store : ∃ g h l f, storeOne.group? 3 = some g ∧ g.ref = 3 ∧ storeOne.homeOf g = some (h, l) ∧ g.run ≠ .retired ∧ h.pacer = none
    ∧ storeOne.team? g.team = some h ∧ g.trap.mode = none ∧ storeOne.hitFlight 2 0 (.lanes 3 1) = some f ∧ isWriteAccess f.instr = true ∧ f.failed = 0
    ∧ (∀ a ∈ f.left, bit 1 a.lane = true) ∧ f.left ≠ [] := by
  obtain ⟨g, hg, a, b, c, d, e⟩ := holds (o := storeOne.group? 3) (p := fun g => g.ref = 3 ∧ g.run ≠ .retired ∧ g.trap.mode = none
    ∧ ((storeOne.homeOf g).any fun h => decide (h.1.pacer = none ∧ storeOne.team? g.team = some h.1)) = true
    ∧ ((storeOne.hitFlight 2 0 (.lanes 3 1)).any fun f => decide (isWriteAccess f.instr = true ∧ f.failed = 0 ∧ (∀ a ∈ f.left, bit 1 a.lane = true)
      ∧ f.left ≠ [])) = true) (by decide +kernel)
  obtain ⟨⟨h, l⟩, h1, h2, h3⟩ := holds d
  obtain ⟨f, f1, f2⟩ := holds e
  exact ⟨g, h, l, f, hg, a, h1, b, h2, h3, c, f1, f2⟩

/-- The drain with nothing in flight and no admission on the way, and one whose image holds. -/
theorem witness_drain : base.lodge.drain = false ∧ base.adms = [] ∧ (∀ g ∈ base.groups, g.flights = []) := by decide +kernel

/-- The array of a tenancy: it lies in the Lodge's frames. -/
def sysArray : State := lodge (fun d => { d with boot := .ok, sys := [(16, 1)], dbase := 2 ^ 26 }) base
theorem witness_array : sysArray.arrayOk (2 ^ 20) 8 = true ∧ sysArray.lodge.boot = .ok ∧ (sysArray.tenant 63).live = false ∧ sysArray.channelsUsed + 64 ≤ 256 := by
  decide +kernel

/-- Flips: of a paddock that was shared and is not, of one that stays shared, and of one that comes to be shared. -/
theorem witness_flip_slices : ((banks [(0, (1, 0, 0))]).ring 0).length = 1
    ∧ (let s := lodge (fun d => { d with bank1 := [(0, (1, 0, 0x800))] }) (laid 0x800 base)
      2 ≤ (s.ring 0).length) := by decide +kernel

end Sys2Proof.Tests
end

section
/-! PROOFS. What `step` does next (R113, R140), and what the passing of clocks leaves of a state (R350, R352, R404): StepRuns. -/

namespace Sys2Proof.Machine

/-! ## What `step` does next -/

/-- The instruction that `step` runs for the quad-set chosen to issue, by the word at its pc. -/
theorem State.move_of_iss {s : State} {x : Iss} (ha : s.agenda = []) (hx : s.iss = some x) :
    s.move = if s.mayIssue x then
      match x.q.word? with
      | none => .fetch ⟨x.g.ref, x.q.tag⟩
      | some w => match decodeWord w with | .ok i => .word i | .error _ => .undef w
    else .stale := by
  unfold State.iss at hx
  split at hx
  · cases hx
  case h_2 f fs hf =>
    obtain ⟨-, hg, -, hq, -⟩ := State.issAt_some hx
    simp only [State.move, ha, hf, State.focusMove, hx, hg, hq]
    cases s.mayIssue x <;> rfl

theorem step_of_word {s : State} {x : Iss} {w : W32} {i : Instr} (ha : s.agenda = []) (hx : s.iss = some x) (hm : s.mayIssue x = true)
    (hw : x.q.word? = some w) (hi : decodeWord w = .ok i) : step s = afterwards (exec i s) State.afterFocus := by
  simp only [step, State.move_of_iss ha hx, hm, if_true, hw, hi]

theorem step_of_badWord {s : State} {x : Iss} {w : W32} {e : DecodeError} (ha : s.agenda = []) (hx : s.iss = some x)
    (hm : s.mayIssue x = true) (hw : x.q.word? = some w) (he : decodeWord w = .error e) :
    step s = afterwards (exec (.emulationEntry w) s) State.afterFocus := by
  simp only [step, State.move_of_iss ha hx, hm, if_true, hw, he]

theorem step_of_noWord {s : State} {x : Iss} (ha : s.agenda = []) (hx : s.iss = some x) (hm : s.mayIssue x = true)
    (hw : x.q.word? = none) : step s = afterwards (exec (.clauseFetch x.g.ref x.q.tag) s) State.afterFocus := by
  simp only [step, State.move_of_iss ha hx, hm, if_true, hw]

theorem step_of_stale {s : State} {x : Iss} (ha : s.agenda = []) (hx : s.iss = some x) (hm : s.mayIssue x = false) :
    step s = .next s.afterFocus := by
  simp only [step, State.move_of_iss ha hx, hm, Bool.false_eq_true, if_false]

theorem step_of_agenda {s : State} {i : Instr} {rest : List Instr} (ha : s.agenda = i :: rest) :
    step s = afterwards (exec i { s with agenda := rest }) fun t => t.elapse := by
  simp only [step, State.move, State.taken, ha, List.tail_cons]

theorem State.afterFocus_of_last {s : State} (h : s.focus.tail = []) : s.afterFocus = ({ s with focus := [] } : State).elapse := by
  simp [State.afterFocus, State.spent, h]

theorem State.afterFocus_of_more {s : State} (h : s.focus.tail ≠ []) : s.afterFocus = { s with focus := s.focus.tail } := by
  simp [State.afterFocus, State.spent, h]

/-! ## Lists and sparse arrays -/

/-- A change of every entry that keeps its key is found under the same key. -/
theorem find?_map_all {α : Type} (l : List α) (key : α → Nat) (f : α → α) (k : Nat) (hf : ∀ a, key (f a) = key a) :
    (l.map f).find? (fun a => key a = k) = (l.find? fun a => key a = k).map f := by
  simp [List.find?_map, hf]

/-- An array listed by its keys, without the entries that are the default. -/
theorem tget_tabulate {α : Type} [DecidableEq α] (d : α) (f : Nat → α) (l : List Nat) (k : Nat) :
    tget d ((l.map fun c => (c, f c)).filter fun e => e.2 ≠ d) k = if k ∈ l then f k else d := by
  induction l with
  | nil => rfl
  | cons c l ih =>
    by_cases hd : f c = d <;> by_cases hk : c = k
    · subst hk; simp_all
    · simp_all [Ne.symm hk]
    · subst hk; simp [tget, hd]
    · simp_all [tget, Ne.symm hk]

/-! ## Holds and quad-sets -/

/-- A wait has gone on for some clocks: nothing of the quad-set but the count of its hold has changed, and that has not gone down, within the
limit of the wait (R350). -/
structure QSet.Aged (q p : QSet) : Prop where
  rest : { p with hold := q.hold } = q
  held : ∀ h, q.hold = some h → ∃ n, p.hold = some { h with count := n } ∧ min h.limit h.count ≤ n
  free : q.hold = none → p.hold = none

theorem QSet.Aged.refl (q : QSet) : q.Aged q := ⟨rfl, fun h e => ⟨h.count, e, Nat.min_le_right ..⟩, id⟩

theorem QSet.Aged.tag {q p : QSet} (h : q.Aged p) : p.tag = q.tag := by rw [← h.rest]

theorem Hold.after_count (h : Hold) (d : Nat) : ∃ n, h.after d = { h with count := n } ∧ min h.limit h.count ≤ n := by
  unfold Hold.after
  split
  · exact ⟨_, rfl, by omega⟩
  · exact ⟨h.count, rfl, by omega⟩

/-- A hold that either stands still or goes on. -/
theorem QSet.aged_hold (q : QSet) (still : Hold → Bool) (d : Nat) :
    q.Aged { q with hold := q.hold.map fun h => if still h then h else h.after d } := by
  refine ⟨rfl, fun h e => ?_, fun e => by simp [e]⟩
  cases hs : still h
  · obtain ⟨n, hn, hle⟩ := h.after_count d
    exact ⟨n, by simp [e, hs, hn], hle⟩
  · exact ⟨h.count, by simp [e, hs], Nat.min_le_right ..⟩

/-! ## Groups -/

@[simp] theorem Group.halt_qsets (g : Group) : g.halt.qsets = g.qsets := by unfold Group.halt; split <;> rfl
@[simp] theorem Group.halt_flights (g : Group) : g.halt.flights = g.flights := by unfold Group.halt; split <;> rfl
theorem Group.halt_rest (g : Group) : { g.halt with run := g.run } = g := by unfold Group.halt; split <;> rfl
theorem Group.halt_run (g : Group) : g.halt.run = g.run ∨ g.run = .run ∧ g.halt.run = .halted ∧ g.preq = true := by
  unfold Group.halt
  split
  · rename_i h; exact .inr ⟨h.2.1, rfl, h.1⟩
  · exact .inl rfl

/-- What clocks leave of a group: its waits and those of its flights go on, LEFT and its readiness are counted, and it may halt. -/
structure Group.Aged (g k : Group) : Prop where
  rest : { k with qsets := g.qsets, flights := g.flights, pleft := g.pleft, ready := g.ready, run := g.run } = g
  run : k.run = g.run ∨ g.run = .run ∧ k.run = .halted ∧ g.preq = true
  fids : k.flights.map (·.fid) = g.flights.map (·.fid)
  stopped : g.run ≠ .run → k.qsets = g.qsets ∧ k.flights = g.flights
  qsets : ∃ w : QSet → QSet, k.qsets = g.qsets.map w ∧ ∀ q : QSet, q.Aged (w q)

theorem Group.Aged.ref {g k : Group} (h : g.Aged k) : k.ref = g.ref := by rw [← h.rest]

theorem Group.Aged.refl (g : Group) : g.Aged g :=
  ⟨rfl, .inl rfl, rfl, fun _ => ⟨rfl, rfl⟩, id, (List.map_id _).symm, QSet.Aged.refl⟩

/-- A group that has aged without halting may halt as well. -/
theorem Group.Aged.halt {g k : Group} (h : g.Aged k) (hrun : k.run = g.run) (hpreq : k.preq = g.preq) : g.Aged k.halt where
  rest := by
    have e : ({ k.halt with qsets := g.qsets, flights := g.flights, pleft := g.pleft, ready := g.ready, run := g.run } : Group)
      = { ({ k.halt with run := k.run } : Group) with
          qsets := g.qsets, flights := g.flights, pleft := g.pleft, ready := g.ready, run := g.run } := rfl
    rw [e, k.halt_rest, h.rest]
  run := by rw [← hrun, ← hpreq]; exact k.halt_run
  fids := by rw [k.halt_flights]; exact h.fids
  stopped := by rw [k.halt_qsets, k.halt_flights]; exact h.stopped
  qsets := by rw [k.halt_qsets]; exact h.qsets

theorem Group.Aged.ite_halt {g k : Group} (c : Prop) [Decidable c] (h : g.Aged k) (hrun : k.run = g.run) (hpreq : k.preq = g.preq) :
    g.Aged (if c then k else k.halt) := by
  split
  · exact h
  · exact h.halt hrun hpreq

/-- LEFT and the readiness of a group that has aged may be counted too. -/
theorem Group.Aged.counted {g k : Group} (h : g.Aged k) (left ready : Nat) : g.Aged { k with pleft := left, ready := ready } :=
  ⟨h.rest, h.run, h.fids, h.stopped, h.qsets⟩

/-- The waits of a running group go on: those of its held quad-sets, and those of its flights, which keep their names. -/
theorem Group.aged_waits {g : Group} (hr : g.run = .run) (still : Hold → Bool) (n : Nat) (w : Flight → Flight) (hw : ∀ f, (w f).fid = f.fid) :
    g.Aged { g with
      qsets := g.qsets.map fun q => { q with hold := q.hold.map fun h => if still h then h else h.after n }
      flights := g.flights.map w } where
  rest := rfl
  run := .inl rfl
  fids := by simp [hw]
  stopped h := absurd hr h
  qsets := ⟨_, rfl, fun q => q.aged_hold still n⟩

theorem State.groupAfter_aged (s : State) (d : Nat → Nat) (g : Group) : g.Aged (s.groupAfter d g) := by
  unfold State.groupAfter
  split
  · exact .refl g
  case h_2 t _ =>
    refine .ite_halt _ (.counted ?_ _ _) ?_ ?_ <;> split
    case refine_1.isTrue h =>
      exact Group.aged_waits h.1 (s.awaitsStill g t) (d t.core) _ fun f => by split <;> rfl
    case refine_1.isFalse => exact .refl g
    all_goals rfl

/-- Clocks change nothing of a team but how long it has waited for its readers to end (R290). -/
theorem State.teamAfter_eq (s : State) (d : Nat → Nat) (t : Team) : ∃ n, s.teamAfter d t = { t with endWait := n } := by
  have ite_eq (c : Prop) [Decidable c] (m : Nat) : ∃ n, (if c then { t with endWait := m } else t) = { t with endWait := n } := by
    by_cases h : c
    · exact ⟨m, if_pos h⟩
    · exact ⟨t.endWait, if_neg h⟩
  exact ite_eq _ _

theorem State.teamAfter_asked (s : State) (d : Nat → Nat) (t : Team) : (s.teamAfter d t).asked = t.asked := by
  obtain ⟨n, h⟩ := s.teamAfter_eq d t
  rw [h]

theorem State.teamAfter_ref (s : State) (d : Nat → Nat) (t : Team) : (s.teamAfter d t).ref = t.ref := by
  obtain ⟨n, h⟩ := s.teamAfter_eq d t
  rw [h]

/-! ## The state -/

theorem State.settleHalts_of_unasked {s : State} (h : ∀ t ∈ s.teams, t.asked = false) : s.settleHalts = s := by
  have : (s.teams.filter fun t => t.asked) = [] := by simpa [List.filter_eq_nil_iff] using h
  rw [State.settleHalts, this, List.foldl_nil]

/-- With no team asked to halt, what the passing of clocks makes of the state. -/
theorem State.pass_of_unasked {s : State} (d : Nat → Nat) (h : ∀ t ∈ s.teams, t.asked = false) :
    s.pass d = { s with
      groups := s.groups.map (s.groupAfter d)
      teams := s.teams.map (s.teamAfter d)
      copies := s.copies.map (s.copyAfter d)
      cores := ((List.range Config.cores).map fun c => (c, (s.coreOf c).after (d c))).filter fun e => e.2 ≠ Core.reset } := by
  refine State.settleHalts_of_unasked fun t ht => ?_
  obtain ⟨u, hu, rfl⟩ := List.mem_map.1 ht
  rw [s.teamAfter_asked d u, h u hu]

theorem State.pass_coreOf {s : State} (d : Nat → Nat) (h : ∀ t ∈ s.teams, t.asked = false) {c : Nat} (hc : c < Config.cores) :
    (s.pass d).coreOf c = (s.coreOf c).after (d c) := by
  rw [State.pass_of_unasked d h]
  exact (tget_tabulate Core.reset (fun c => (s.coreOf c).after (d c)) (List.range Config.cores) c).trans (if_pos (List.mem_range.2 hc))

theorem State.pass_team? {s : State} (d : Nat → Nat) (h : ∀ t ∈ s.teams, t.asked = false) (r : Nat) :
    (s.pass d).team? r = (s.team? r).map (s.teamAfter d) := by
  rw [State.pass_of_unasked d h]
  exact find?_map_all s.teams Team.ref _ r (s.teamAfter_ref d)

theorem State.pass_group? {s : State} (d : Nat → Nat) (h : ∀ t ∈ s.teams, t.asked = false) (r : Nat) :
    (s.pass d).group? r = (s.group? r).map (s.groupAfter d) := by
  rw [State.pass_of_unasked d h]
  exact find?_map_all s.groups Group.ref _ r fun g => (s.groupAfter_aged d g).ref

/-- A quad-set of a group that has aged is found under its tag. -/
theorem Group.Aged.q? {g k : Group} (h : g.Aged k) {tag : Nat} {q : QSet} (hq : g.q? tag = some q) : ∃ p, k.q? tag = some p ∧ q.Aged p := by
  obtain ⟨w, hk, hw⟩ := h.qsets
  refine ⟨w q, ?_, hw q⟩
  rw [Group.q?, hk, find?_map_all g.qsets QSet.tag w tag fun q => (hw q).tag]
  exact congrArg (Option.map w) hq

/-! ## A step -/

theorem State.elapse_rest {s : State} (n : Nat) (h : ∀ t ∈ s.teams, t.asked = false) :
    { s.elapse n with tick := s.tick, groups := s.groups, teams := s.teams, copies := s.copies, cores := s.cores, lodge := s.lodge } = s
    ∧ { (s.elapse n).lodge with clk := s.lodge.clk, idle := s.lodge.idle } = s.lodge := by
  simp only [State.elapse, State.pass_of_unasked _ h, State.modLodge, and_self]

theorem State.elapse_coreOf {s : State} (n : Nat) (h : ∀ t ∈ s.teams, t.asked = false) {c : Nat} (hc : c < Config.cores) :
    (s.elapse n).coreOf c = (s.coreOf c).after (s.clocks s.patience n c) :=
  State.pass_coreOf _ h hc

theorem State.elapse_team? {s : State} (n : Nat) (h : ∀ t ∈ s.teams, t.asked = false) {r : Nat} {t : Team} (ht : s.team? r = some t) :
    ∃ k, (s.elapse n).team? r = some k ∧ { k with endWait := t.endWait } = t := by
  obtain ⟨m, hm⟩ := s.teamAfter_eq (s.clocks s.patience n) t
  exact ⟨{ t with endWait := m }, (State.pass_team? _ h r).trans (by rw [ht, Option.map_some, hm]), rfl⟩

theorem State.elapse_group? {s : State} (n : Nat) (h : ∀ t ∈ s.teams, t.asked = false) {r : Nat} {g : Group} (hg : s.group? r = some g) :
    ∃ k, (s.elapse n).group? r = some k ∧ g.Aged k :=
  ⟨_, (State.pass_group? _ h r).trans (by rw [hg, Option.map_some]), s.groupAfter_aged _ g⟩

/-- Settles O43: `step` follows `State.move`, and with no team asked to halt the clocks that pass only age what the state holds. -/
theorem stepRuns : Obligations.StepRuns := by
  refine ⟨fun s x ha hx hm => ⟨?_, ?_, ?_⟩, fun s x ha hx hm => step_of_stale ha hx hm, fun s i rest ha => step_of_agenda ha,
    fun s n => ⟨State.afterFocus_of_last, State.afterFocus_of_more, rfl, fun h => ?_⟩⟩
  · exact fun w i hw hi => step_of_word ha hx hm hw hi
  · exact fun w e hw he => step_of_badWord ha hx hm hw he
  · exact fun hw => step_of_noWord ha hx hm hw
  · obtain ⟨hrest, hlodge⟩ := State.elapse_rest n h
    refine ⟨hrest, hlodge, fun c hc => by rw [State.elapse_coreOf n h hc]; rfl, fun r t ht => State.elapse_team? n h ht, fun r g hg => ?_⟩
    obtain ⟨k, hk, hage⟩ := State.elapse_group? n h hg
    refine ⟨k, hk, hage.rest, hage.run, hage.fids, hage.stopped, fun tag q hq => ?_⟩
    obtain ⟨p, hp, hq⟩ := hage.q? hq
    exact ⟨p, hp, hq.rest, hq.held, hq.free⟩

end Sys2Proof.Machine
end

section
/-! PROOFS. The decoder reads every well-formed instruction from its word (R2, R16, R28, R29): EncodeDecode.

A word is the fixed bits of its row, `base`, and the fields, each below its bound and in bits of its own. So the opcode and the selectors are
those of `base` (`fixedBits_eq`), and a field is the number in its bits (`fld_eq_iff`). The rows are read block by block of the opcode map. -/

namespace Sys2Proof

/-! ## Bits of a word -/

theorem fld_eq_iff {w lo len : Nat} {v : BitVec len} : fld w lo len = v ↔ w / 2 ^ lo % 2 ^ len = v.toNat := by
  rw [← BitVec.toNat_inj, fld, BitVec.toNat_ofNat]

/-- Bits of the word in which no field lies are those of the row: `d` and `m` are the weight of the lowest of them and the number of their
values, and what the fields add to the bits below does not carry into them. -/
theorem fixedBits_eq {base fields w d m : Nat} (h : base + fields = w) (hc : base % d + fields % (d * m) < d) :
    w / d % m = base / d % m := by
  have hw : w = (base % d + fields % (d * m)) + d * (base / d + m * (fields / (d * m))) := by
    have hb := Nat.mod_add_div base d
    have hf := Nat.mod_add_div fields (d * m)
    rw [Nat.mul_add, ← Nat.mul_assoc]
    omega
  rw [hw, Nat.add_mul_div_left _ _ (by omega), Nat.div_eq_of_lt hc, Nat.zero_add, Nat.add_mul_mod_self_left]

/-! ## Blocks of the opcode map -/

/-- The opcode map (R30) in blocks, by opcode. -/
inductive OpBlock where
  /-- 0x01 to 0x12: lane integer operations on registers. -/
  | laneInt
  /-- 0x13 to 0x1D: lane integer operations with a selector or an immediate. -/
  | laneImm
  /-- 0x20 to 0x32 but 0x28: lane float operations, conversions and shuffles. -/
  | laneFloat
  /-- 0x28: lane float operations on one register, by the selector in vb. -/
  | laneFloatOne
  /-- 0x33 to 0x39: votes, folds, lane access and masks. -/
  | laneCross
  /-- 0x40: scalar operations on registers, by the selector fn. -/
  | scalarReg
  /-- 0x41 to 0x4C: the other scalar operations. -/
  | scalarImm
  /-- 0x50 to 0x58: control operations. -/
  | control
  /-- 0x5A to 0x65: accesses, cache operations, atomics and fences. -/
  | memory
  /-- 0x66 to 0x6D and 0x7F: matrix, copy, paced and frame operations, and the clause header. -/
  | system
  /-- No opcode: a step of the part that no word encodes. -/
  | event

/-- The block in which the word of an instruction lies. -/
def Instr.block : Instr → OpBlock
  | .vadd .. | .vsub .. | .vmul .. | .vmulh .. | .vmad .. | .vand .. | .vor .. | .vxor .. | .vandn .. | .vshl .. | .vshr .. | .vmin ..
  | .vmax .. | .vabsd .. | .vaddc .. | .vsel .. | .vbfx .. | .vbfi .. => .laneInt
  | .vpopc .. | .vclz .. | .vbrev .. | .vneg .. | .vdp4 .. | .vclmul .. | .vmov .. | .vaddi .. | .vshli .. | .vshri .. | .vandi ..
  | .vli .. | .vcmpi .. | .vmuli .. => .laneImm
  | .vfadd .. | .vfsub .. | .vfmul .. | .vfma .. | .vfms .. | .vfnma .. | .vfmin .. | .vfmax .. | .vfdiv .. | .vfscale .. | .vfcmp ..
  | .vcmp .. | .vcvt .. | .vshfl .. | .vshfli .. => .laneFloat
  | .vfrcp .. | .vfrsq .. | .vfsqrt .. | .vfexp2 .. | .vflog2 .. | .vfsin .. | .vfcos .. | .vfabs .. | .vfneg .. | .vfrndN .. | .vfrndZ ..
  | .vfrndD .. | .vfrndU .. | .vffrc .. | .vfclass .. => .laneFloatOne
  | .vvote .. | .vfold .. | .vscan .. | .vbcast .. | .vspec .. | .vgetl .. | .vputl .. | .mand .. | .mor .. | .mxor .. | .mandn ..
  | .mnot .. | .mmov .. | .mget .. | .mset .. | .mpop .. | .mffs .. => .laneCross
  | .sadd .. | .ssub .. | .smul .. | .smulh .. | .smulhu .. | .sand .. | .sor .. | .sxor .. | .sandn .. | .sshl .. | .sshr .. | .ssra ..
  | .smin .. | .smax .. | .sminu .. | .smaxu .. | .spopc .. | .sclz .. | .smov .. | .sbfx .. => .scalarReg
  | .saddi .. | .sandi .. | .sori .. | .sxori .. | .sshli .. | .sshri .. | .sli .. | .slui .. | .scmp .. | .scmpi .. | .ssel .. | .sget ..
  | .sset .. | .sdiv .. | .sdivu .. | .srem .. | .sremu .. => .scalarImm
  | .br .. | .brm .. | .call .. | .bri .. | .calli .. | .ret | .mark .. | .join | .split .. | .regang | .ihead .. | .idone .. | .barsync ..
  | .bararr .. | .barwait .. | .yield | .waitSb .. | .waitDet | .waitOpc .. | .waitMat .. | .waitBatch .. | .exit | .setfmt ..
  | .setfmtScalar .. | .nop | .launch .. | .lwait .. | .trap .. | .brk .. | .tret .. | .eret .. | .ewin .. | .fbar => .control
  | .vld .. | .vldPr .. | .vst .. | .vlda .. | .vstl .. | .sld .. | .sst .. | .pref .. | .clock .. | .cunlk .. | .cinv .. | .cwb ..
  | .vatom .. | .vatomAr .. | .vatomW .. | .satom .. | .fence .. | .fenceAcq .. | .fenceRel .. | .fenceLt | .fenceHv ..
  | .mofence => .memory
  | .mma .. | .mmaR .. | .mms .. | .mmsR .. | .wbload .. | .spload .. | .cbload .. | .zpload .. | .mzero .. | .cpy .. | .cseal | .cyield ..
  | .sqinit .. | .sqwait .. | .sqrel .. | .pdone | .pwait .. | .pfin .. | .ldp .. | .fretype .. | .finfo .. | .fharvest .. | .fresume ..
  | .clauseHeader .. => .system
  | _ => .event

/-- The steps of the part that no word encodes are those of no block. -/
theorem encodeNat_of_event {i : Instr} (hb : i.block = .event) : encodeNat i = none := by
  cases i <;> cases hb <;> rfl

/-! Each block is read in the same way. The constructors of the block are what `cases hb` leaves. `h` is then the word as a sum, so that its
opcode picks the row; where the row tests selectors, the fields' bounds decide each test; what is left is that each field reads back. -/

theorem decodeRow_laneInt {i : Instr} {n : Nat} (hb : i.block = .laneInt) (h : encodeNat i = some n) :
    decodeRow n = some i := by
  cases i <;> cases hb
  all_goals
    change some _ = some n at h
    simp only [Option.some.injEq, Nat.add_assoc] at h
    unfold decodeRow
    rw [fixedBits_eq h (by omega)]
  case' vmulh | vand | vor | vxor | vandn | vshl | vshr | vaddc | vsel | vbfx | vbfi =>
    change ite _ _ _ = _
    simp (disch := omega) only [if_pos]
  all_goals
    change some _ = _
    simp [fld_eq_iff]
    omega

theorem decodeRow_laneImm {i : Instr} {n : Nat} (hb : i.block = .laneImm) (h : encodeNat i = some n) :
    decodeRow n = some i := by
  cases i <;> cases hb
  all_goals
    change some _ = some n at h
    simp only [Option.some.injEq, Nat.add_assoc] at h
    unfold decodeRow
    rw [fixedBits_eq h (by omega)]
  case' vpopc | vclz | vbrev | vneg | vclmul | vmov | vshli | vshri | vandi | vli =>
    change ite _ _ _ = _
    simp (disch := omega) only [↓if_neg, if_pos]
  all_goals
    change some _ = _
    simp [fld_eq_iff]
    omega

theorem decodeRow_laneFloat {i : Instr} {n : Nat} (hb : i.block = .laneFloat) (h : encodeNat i = some n) :
    decodeRow n = some i := by
  cases i <;> cases hb
  all_goals
    change some _ = some n at h
    simp only [Option.some.injEq, Nat.add_assoc] at h
    unfold decodeRow
    rw [fixedBits_eq h (by omega)]
    change some _ = _
    simp [fld_eq_iff]
    omega

theorem decodeRow_laneFloatOne {i : Instr} {n : Nat} (hb : i.block = .laneFloatOne) (h : encodeNat i = some n) :
    decodeRow n = some i := by
  cases i <;> cases hb
  all_goals
    change some _ = some n at h
    simp only [Option.some.injEq, Nat.add_assoc] at h
    unfold decodeRow
    rw [fixedBits_eq h (by omega)]
    change ite _ _ _ = _
    simp only [fixedBits_eq (d := 16) (m := 128) h (by omega), Nat.reduceDiv, Nat.reduceMod, Nat.reduceEqDiff, ↓reduceIte, reduceCtorEq]
    simp [fld_eq_iff]
    omega

theorem decodeRow_laneCross {i : Instr} {n : Nat} (hb : i.block = .laneCross) (h : encodeNat i = some n) :
    decodeRow n = some i := by
  cases i <;> cases hb
  all_goals
    change some _ = some n at h
    simp only [Option.some.injEq, Nat.add_assoc] at h
    unfold decodeRow
    rw [fixedBits_eq h (by omega)]
    change ite _ _ _ = _
    simp (disch := omega) only [↓if_neg, if_pos]
    simp [fld_eq_iff]
    omega

theorem decodeRow_scalarReg {i : Instr} {n : Nat} (hb : i.block = .scalarReg) (h : encodeNat i = some n) :
    decodeRow n = some i := by
  cases i <;> cases hb
  all_goals
    change some _ = some n at h
    simp only [Option.some.injEq, Nat.add_assoc] at h
    unfold decodeRow
    rw [fixedBits_eq h (by omega)]
    change ite _ _ _ = _
    simp only [fixedBits_eq (d := 2) (m := 64) h (by omega), Nat.reduceDiv, Nat.reduceMod, Nat.reduceEqDiff, ↓reduceIte, reduceCtorEq]
  case' spopc | sclz | smov | sbfx =>
    simp (disch := omega) only [↓if_neg, if_pos]
  all_goals
    simp [fld_eq_iff]
    omega

theorem decodeRow_scalarImm {i : Instr} {n : Nat} (hb : i.block = .scalarImm) (h : encodeNat i = some n) :
    decodeRow n = some i := by
  cases i <;> cases hb
  all_goals
    change some _ = some n at h
    simp only [Option.some.injEq, Nat.add_assoc] at h
    unfold decodeRow
    rw [fixedBits_eq h (by omega)]
  case' sshli | sshri | scmp | scmpi | ssel | sget | sset | sdiv | sdivu | srem | sremu =>
    change ite _ _ _ = _
    simp (disch := omega) only [↓if_neg, if_pos]
  all_goals
    change some _ = _
    simp [fld_eq_iff]
    omega

theorem decodeRow_control {i : Instr} {n : Nat} (hb : i.block = .control) (h : encodeNat i = some n) :
    decodeRow n = some i := by
  cases i <;> cases hb
  case ret | join | regang | yield | waitDet | exit | nop | fbar => cases h; rfl
  all_goals
    change some _ = some n at h
    simp only [Option.some.injEq, Nat.add_assoc] at h
    unfold decodeRow
    rw [fixedBits_eq h (by omega)]
  case' call | bri | calli | mark | split | ihead | idone | barsync | bararr | barwait | waitSb | waitOpc | waitMat | waitBatch | setfmt |
    setfmtScalar | launch | lwait | trap | brk | tret | eret | ewin =>
    change ite _ _ _ = _
    simp (disch := omega) only [↓if_neg, if_pos]
  all_goals
    change some _ = _
    simp [fld_eq_iff]
    omega

theorem decodeRow_memory {i : Instr} {n : Nat} (hb : i.block = .memory) (hw : i.wellFormed = true) (h : encodeNat i = some n) :
    decodeRow n = some i := by
  cases i <;> cases hb
  case fenceLt | mofence => cases h; rfl
  all_goals
    change some _ = some n at h
    simp only [Option.some.injEq, Nat.add_assoc] at h
    unfold decodeRow
    rw [fixedBits_eq h (by omega)]
  case' vld sz sp _ _ =>
    have hsp : sp.toNat ≠ 3 := by
      simp only [Instr.wellFormed, decide_eq_true_eq] at hw
      exact hw.2
    change ite _ _ _ = _
    rw [if_neg (by omega)]
  case' vldPr | pref | clock | cunlk | cinv | cwb | fence | fenceAcq | fenceRel | fenceHv =>
    change ite _ _ _ = _
    simp (disch := omega) only [↓if_neg, if_pos]
  all_goals
    change some _ = _
    simp [fld_eq_iff]
    omega

theorem decodeRow_system {i : Instr} {n : Nat} (hb : i.block = .system) (h : encodeNat i = some n) :
    decodeRow n = some i := by
  cases i <;> cases hb
  case cseal | pdone => cases h; rfl
  all_goals
    change some _ = some n at h
    simp only [Option.some.injEq, Nat.add_assoc] at h
    unfold decodeRow
    rw [fixedBits_eq h (by omega)]
  case' mma | mmaR | mms | mmsR | wbload | spload | cbload | zpload | mzero | cpy | cyield | sqinit | sqwait | sqrel | pwait | pfin |
    fretype | finfo | fharvest | fresume | clauseHeader =>
    change ite _ _ _ = _
    simp (disch := omega) only [↓if_neg, if_pos]
  all_goals
    change some _ = _
    simp [fld_eq_iff]
    omega

/-! ## Words and bytes -/

/-- The row that the decoder finds for the word of a well-formed instruction is that of the instruction. -/
theorem decodeRow_encodeNat {i : Instr} {n : Nat} (hw : i.wellFormed = true) (h : encodeNat i = some n) : decodeRow n = some i := by
  cases hb : i.block with
  | laneInt => exact decodeRow_laneInt hb h
  | laneImm => exact decodeRow_laneImm hb h
  | laneFloat => exact decodeRow_laneFloat hb h
  | laneFloatOne => exact decodeRow_laneFloatOne hb h
  | laneCross => exact decodeRow_laneCross hb h
  | scalarReg => exact decodeRow_scalarReg hb h
  | scalarImm => exact decodeRow_scalarImm hb h
  | control => exact decodeRow_control hb h
  | memory => exact decodeRow_memory hb hw h
  | system => exact decodeRow_system hb h
  | event => rw [encodeNat_of_event hb] at h; cases h

theorem encodeNat_lt {i : Instr} {n : Nat} (h : encodeNat i = some n) : n < 2 ^ 32 := by
  cases i <;> cases h <;> omega

theorem decodeWord_encode {i : Instr} {w : W32} (hw : i.wellFormed = true) (h : encode i = some w) : decodeWord w = .ok i := by
  obtain ⟨n, hn, rfl⟩ := Option.map_eq_some_iff.1 h
  have hrow : decodeRow (BitVec.ofNat 32 n).toNat = some i := by
    rw [BitVec.toNat_ofNat, Nat.mod_eq_of_lt (encodeNat_lt hn)]
    exact decodeRow_encodeNat hw hn
  simp only [decodeWord, hrow, hw, if_true]

/-- Of bytes, the decoder reads the word that the first four form (R2, R16). The word's own decoding is kept apart as `f`, so that no check of
the proof has to evaluate it. -/
theorem decode_of_bytes {b0 b1 b2 b3 : Byte} {rest bytes : List Byte} {i : Instr} (hb : bytes = b0 :: b1 :: b2 :: b3 :: rest)
    (h : decodeWord (BitVec.ofNat 32 (b0.toNat + b1.toNat * 2 ^ 8 + b2.toNat * 2 ^ 16 + b3.toNat * 2 ^ 24)) = .ok i) :
    decode bytes = .ok (i, rest) := by
  unfold decode
  obtain ⟨f, hf⟩ : ∃ f, f = decodeWord := ⟨_, rfl⟩
  rw [← hf] at h ⊢
  subst hb
  simp only [h]

/-- The four bytes of a word, put together again, are the word (R2). -/
theorem ofNat_wordBytes (w : W32) :
    BitVec.ofNat 32 ((BitVec.ofNat 8 w.toNat).toNat + (BitVec.ofNat 8 (w.toNat / 2 ^ 8)).toNat * 2 ^ 8
      + (BitVec.ofNat 8 (w.toNat / 2 ^ 16)).toNat * 2 ^ 16 + (BitVec.ofNat 8 (w.toNat / 2 ^ 24)).toNat * 2 ^ 24) = w := by
  apply BitVec.eq_of_toNat_eq
  simp only [BitVec.toNat_ofNat]
  omega

theorem decode_wordBytes {w : W32} {i : Instr} (h : decodeWord w = .ok i) (rest : List Byte) :
    decode (wordBytes w ++ rest) = .ok (i, rest) :=
  decode_of_bytes rfl (by rw [ofNat_wordBytes, h])

/-- Settles O40: the decoder finds the instruction's row in its word, and the word in its bytes. -/
theorem encodeDecode : Obligations.EncodeDecode := by
  intro i w rest hw h
  have hword := decodeWord_encode hw h
  exact ⟨hword, decode_wordBytes hword rest⟩

end Sys2Proof
end

section
/-! PROOFS. What registers, masks and EXEC read as outside a handler, with no destination in flight (R8, R10, R25, R26): OperandReads. -/

namespace Sys2Proof.Machine

/-! ## Reads with no destination in flight -/

theorem Group.isBusy_of_idle {g : Group} (h : g.busy = []) (file : RegFile) (n l : Nat) : g.isBusy file n l = false := by
  simp [Group.isBusy, h]

theorem Group.rdLane_of_idle {g : Group} (h : g.busy = []) (free r l : Nat) : g.rdLane free r l = g.lane r l := by
  simp [Group.rdLane, Group.isBusy_of_idle h]

theorem Group.rdScal_of_idle {g : Group} (h : g.busy = []) (free n : Nat) : g.rdScal free n = g.scal n := by
  simp [Group.rdScal, Group.isBusy_of_idle h]

theorem Group.bit_rdMask_of_idle {g : Group} (h : g.busy = []) (free n : Nat) {l : Nat} (hl : l < 64) :
    bit (g.rdMask free n) l = bit (g.mask n) l := by
  simp [Group.rdMask, bit_maskOf _ _ hl, Group.isBusy_of_idle h]

theorem Group.bit_mask (g : Group) (n : Nat) {l : Nat} (hl : l < 64) :
    bit (g.mask n) l = true ↔ n = 0 ∨ bit (tget 0 g.regs.masks n) l = true := by
  by_cases h0 : n = 0
  · have hm : bit (g.mask n) l = true := by rw [Group.mask, if_pos h0, bit, BitVec.getLsbD_allOnes, decide_eq_true hl]
    exact iff_of_true hm (.inl h0)
  · simp [Group.mask, h0]

/-! ## Names outside a handler -/

theorem Group.span_of_hlevel {g : Group} (h : g.hlevel = 0) (count align n : Nat) :
    g.span count align n
      = if n % align = 0 ∧ n + count ≤ g.nregs then some ((List.range count).map fun i => .lane (n + i)) else none := by
  simp only [Group.span, h, Group.spanAt]

theorem Iss.op_of_hlevel {x : Iss} (h : x.g.hlevel = 0) {count n : Nat} (hn : n % count = 0) (hr : n + count ≤ x.g.nregs) :
    x.op count n = (List.range count).map fun i => .lane (n + i) := by
  rw [Iss.op, Group.span_of_hlevel h, if_pos ⟨hn, hr⟩, Option.getD_some]

theorem Group.scalNo_of_low (g : Group) {n : Nat} (h : n < 56) : g.scalNo n = n := if_pos h

theorem Group.scalNo_of_trap {g : Group} (h : g.trap.mode.isSome = true) {n : Nat} (hn : 56 ≤ n) : g.scalNo n = n + 24 := by
  rw [Group.scalNo, if_neg (by omega), if_pos h]

theorem Group.scalNo_of_hlevel {g : Group} (h : g.hlevel = 0) (hm : g.trap.mode = none) (n : Nat) : g.scalNo n = n := by
  have hl : g.emu.level = 0 := by simpa [Group.hlevel, hm] using h
  simp [Group.scalNo, hm, hl]

/-! ## Operands of the issuing quad-set -/

/-- A quad-set that is not held reads its scalars from the registers. -/
theorem Iss.s_of_unheld {x : Iss} (h : x.q.hold = none) (hb : x.g.busy = []) (n : Nat) : x.s n = x.g.scal (x.g.scalNo n) := by
  simp [Iss.s, h, Group.rdScal_of_idle hb]

/-- A held quad-set has kept the scalars that its instruction read as it issued (R115). -/
theorem Iss.s_of_held {x : Iss} {h : Hold} {e : Nat × W64} (hh : x.q.hold = some h) (he : h.opnds.find? (fun k => k.1 = e.1) = some e) :
    x.s e.1 = e.2 := by
  simp [Iss.s, hh, he]

/-- The lanes of EXEC (R8). -/
theorem Iss.bit_exec0 (x : Iss) (m : Nat) {l : Nat} (hl : l < 64) :
    bit (x.exec0 m) l = true ↔ bit x.g.regs.live l = true ∧ bit x.g.regs.dead l = false ∧ l < x.g.width
      ∧ x.q.quads.getLsbD (l / 4) = true ∧ bit (x.g.rdMask x.free m) l = true := by
  have hw : (widthLanes x.g.width).getLsbD l = decide (l < x.g.width) := bit_maskOf _ _ hl
  have hq : (quadLanes x.q.quads).getLsbD l = x.q.quads.getLsbD (l / 4) := bit_maskOf _ _ hl
  simp only [Iss.exec0, Iss.masked, bit, BitVec.getLsbD_and, BitVec.getLsbD_not, hl, hw, hq, decide_true, Bool.true_and, Bool.and_eq_true,
    Bool.not_eq_true', decide_eq_true_eq]
  tauto

/-- Settles O33: each name resolves to a register of its file, which is read as it is held. -/
theorem operandReads : Obligations.OperandReads := by
  intro s x _ hlev hb
  refine ⟨fun n hn l => ?_, fun n hn => ?_, fun hh n hn => ?_, fun hh n hn hm => ?_, fun h e hh he => Iss.s_of_held hh he, fun m l hl => ?_⟩
  · have hop := Iss.op_of_hlevel hlev (Nat.mod_one n.toNat) hn
    rw [Iss.r, Iss.v, hop]
    exact Group.rdLane_of_idle hb _ _ _
  · rw [Group.span_of_hlevel hlev, if_neg (by omega)]
  · have hno : x.g.scalNo n.toNat = n.toNat := hn.elim x.g.scalNo_of_low fun hm => Group.scalNo_of_hlevel hlev hm _
    simp [Iss.s_of_unheld hh hb, hno, Group.scal, ← BitVec.toNat_inj]
  · simp [Iss.s_of_unheld hh hb, Group.scalNo_of_trap hm hn, Group.scal]
  · rw [Iss.exec, if_pos hlev, Iss.bit_exec0 _ _ hl, Group.bit_rdMask_of_idle hb _ _ hl, Group.bit_mask _ _ hl]

end Sys2Proof.Machine
end

section
/-! PROOFS. Taking a trap: at issue (R343, R344, R347), once the group has drained (R345), and at the end of a bounded wait (R15, R350):
TrapEntry. -/

namespace Sys2Proof.Machine

/-! ## The group whose turn has been taken -/

/-- A group that has changed is found as what it has become. -/
theorem State.group?_modGroup_some {s : State} {r : Nat} {f : Group → Group} {g : Group} (hg : s.group? r = some g)
    (hf : ∀ g, (f g).ref = g.ref) : (s.modGroup r f).group? r = some (f g) := by
  rw [State.group?_modGroup _ _ _ hf, hg, Option.map_some]

/-- No other group changes as one changes whose turn has been taken. -/
theorem State.group?_prep_modGroup_ne {s : State} {x : Iss} {r : Nat} {f : Group → Group} (hr : r ≠ x.g.ref) (hf : ∀ g, (f g).ref = g.ref) :
    ((s.prep x).modGroup x.g.ref f).group? r = s.group? r := by
  rw [State.group?_modGroup_ne _ _ hf hr, State.prep_group_ne hr]

/-- Of the trap state, the turn taken changes only what a waiting SHADOW trap waits for (R379). -/
theorem Group.issued_trap (g : Group) (q : QSet) : (g.issued q).trap = { g.trap with shadows := (g.issued q).trap.shadows } := by
  unfold Group.issued; split <;> rfl

theorem Group.issued_mode (g : Group) (q : QSet) : (g.issued q).trap.mode = g.trap.mode := by rw [Group.issued_trap]
theorem Group.issued_replay (g : Group) (q : QSet) : (g.issued q).trap.replay = g.trap.replay := by rw [Group.issued_trap]

theorem Group.q?_issued (g : Group) (q : QSet) (tag : Nat) : (g.issued q).q? tag = g.q? tag := by simp [Group.q?]

theorem State.prep_homeOf {s : State} {x : Iss} (h : s.iss = some x) : (s.prep x).homeOf (x.g.issued x.q) = some (x.t, x.l) := by
  obtain ⟨-, -, hh, -⟩ := State.iss_some h
  rw [← hh]
  unfold State.homeOf
  rw [Group.issued_team]
  rfl

/-! ## The end of a team -/

/-- A group of another team stays as it is when a team ends (R337). -/
theorem State.group?_endTeam_of_ne {s : State} {r team status : Nat} {cause : EndCause} {g : Group} (hg : s.group? r = some g)
    (ht : g.team ≠ team) : (s.endTeam team status cause).group? r = some g := by
  have hfind : (s.endTeam team status cause).group? r = (s.group? r).map fun g => if g.team = team then g.retired else g :=
    find?_map_all s.groups Group.ref _ r fun g => by split <;> rfl
  rw [hfind, hg, Option.map_some, if_neg ht]

/-- A team that ends as a quad-set of it issues: its groups retire, and no other group changes. -/
theorem State.prep_endTeam {s : State} {x : Iss} (h : s.iss = some x) (status : Nat) (cause : EndCause) :
    TeamEnds s ((s.prep x).endTeam x.g.team status cause) x.g.team status cause where
  ended k hk hne hni := by
    have href : ∀ t : Team, (if t.state = .ended ∨ t.state = .ending then t
        else { t with state := .ending, status := status, cause := cause }).ref = t.ref := fun t => by split <;> rfl
    refine (State.team?_modTeam _ _ _ href).trans ?_
    have hteam : (s.prep x).team? x.g.team = some k := hk
    rw [hteam, Option.map_some, if_neg (by simp [hne, hni])]
  groups g hg ht := by
    obtain ⟨k, -, rfl⟩ := List.mem_map.1 hg
    by_cases hk : k.team = x.g.team
    · rw [if_pos hk]; exact ⟨rfl, rfl⟩
    · rw [if_neg hk] at ht; exact absurd ht hk
  others r g hg ht := by
    obtain ⟨hx, -⟩ := State.iss_some h
    have hr : r ≠ x.g.ref := by
      rintro rfl
      rw [hx] at hg
      exact ht (by rw [Option.some.inj hg])
    exact State.group?_endTeam_of_ne ((State.prep_group_ne hr).trans hg) ht
  rest := rfl

/-! ## A trap at issue, by the state of its group -/

section
variable {s : State} {x : Iss} {cause : Nat} {addr detail : W64}

theorem State.raise_of_mode (h : x.g.trap.mode.isSome = true) :
    s.raise x cause addr detail = s.endTeam x.g.team stTrap (.trap cause) := if_pos h

theorem State.raise_of_drained (hm : x.g.trap.mode = none) (hf : x.g.flights = []) (hr : x.g.trap.replay = []) (hs : x.g.trap.shadows = []) :
    s.raise x cause addr detail = s.enterTrap x.g.ref ⟨cause, x.q.pc, addr, detail, x.q.tag, true⟩ none := by
  simp [State.raise, hm, hf, hr, hs]

theorem State.raise_of_undrained (hm : x.g.trap.mode = none) (h : x.g.flights ≠ [] ∨ x.g.trap.replay ≠ [] ∨ x.g.trap.shadows ≠ []) :
    s.raise x cause addr detail = s.modGroup x.g.ref fun g =>
      { g with trap := { g.trap with pend := some ⟨cause, x.q.pc, addr, detail, x.q.tag, true⟩ } } := by
  unfold State.raise
  rw [if_neg (by simp [hm]), if_neg (by tauto)]

end

/-! ## The group in trap mode (R344, R347) -/

theorem tcauseWord_whole {cause : Nat} (h : cause < 15) : tcauseWord false 0 cause = BitVec.ofNat 64 cause := by
  simp [tcauseWord, Nat.mod_eq_of_lt (by omega : cause < 256)]

theorem Group.entrant_of_q? {g : Group} {tag : Nat} {q : QSet} (h : g.q? tag = some q) : g.entrant tag = some q := by
  simp [Group.entrant, h]

section
variable (g : Group) (q : QSet) (r : TrapRec) (trh : W64) (reported : Option Nat) (isPartial : Bool)

theorem Group.trapped_q? {tag : Nat} (h : g.q? tag = some q) : (g.trapped q r trh reported isPartial).q? tag = some (q.goto trh) := by
  have ht := Group.tag_of_q? h
  subst ht
  exact (Group.q?_modQ _ _ _ fun _ => QSet.goto_tag ..).trans (congrArg (Option.map _) h)

theorem Group.trapped_q?_ne {tag : Nat} (h : tag ≠ q.tag) : (g.trapped q r trh reported isPartial).q? tag = g.q? tag :=
  Group.q?_modQ_ne _ _ (fun _ => QSet.goto_tag ..) h

/-- Without a replay list %tcause is the cause alone (R344). -/
theorem Group.trapped_tcause (hr : g.trap.replay = []) (hc : r.cause < 15) :
    (g.trapped q r trh reported false).trap.tcause = BitVec.ofNat 64 r.cause := by
  rw [← tcauseWord_whole hc]
  show tcauseWord false (g.trap.replay.filter _).length _ = _
  rw [hr]
  rfl

end

/-! ## A trap at issue that is entered at once -/

section
variable {s : State} {x : Iss} {cause : Nat} {addr detail : W64} (h : s.iss = some x) (hc : cause < 15) (hm : x.g.trap.mode = none)
  (hf : x.g.flights = []) (hr : x.g.trap.replay = []) (hs : x.g.trap.shadows = [])
include h hc hm hf hr hs

/-- Without a handler, or with one that stands at no header, the team ends (R122, R347). -/
theorem State.raise_ends (ht : (s.ctx x.l.cid).trh = 0 ∨ ¬IsHeader s x (s.ctx x.l.cid).trh) :
    TeamEnds s ((s.prep x).raise x cause addr detail) x.g.team 4 (.trap cause) := by
  obtain ⟨-, hq, -⟩ := State.iss_some h
  have hq' : (x.g.issued x.q).entrant x.q.tag = some x.q := Group.entrant_of_q? ((Group.q?_issued ..).trans hq)
  have hends := State.enterTrap_ends (rep := none) (r := ⟨cause, x.q.pc, addr, detail, x.q.tag, true⟩) (State.prep_group h) (State.prep_homeOf h)
    hq' (Nat.ne_of_lt hc) (.inr (ht.imp_right fun hh => Bool.not_eq_true _ ▸ hh))
  rw [State.raise_of_drained hm hf hr hs, hends, Group.issued_team]
  exact State.prep_endTeam h _ _

/-- With a handler at a header its quad-set enters it (R344, R347). -/
theorem State.raise_enters (ht : (s.ctx x.l.cid).trh ≠ 0) (hh : IsHeader s x (s.ctx x.l.cid).trh) :
    TrapEntered s ((s.prep x).raise x cause addr detail) x cause addr detail (s.ctx x.l.cid).trh := by
  obtain ⟨-, hq, -⟩ := State.iss_some h
  have hq' : (x.g.issued x.q).q? x.q.tag = some x.q := (Group.q?_issued ..).trans hq
  have hr' : (x.g.issued x.q).trap.replay = [] := (Group.issued_replay ..).trans hr
  have henter := State.enterTrap_handler (rep := none) (r := ⟨cause, x.q.pc, addr, detail, x.q.tag, true⟩) (State.prep_group h)
    (State.prep_homeOf h) (Group.entrant_of_q? hq') ((Group.issued_mode ..).trans hm) ht hh
  rw [State.raise_of_drained hm hf hr hs, henter]
  refine ⟨⟨(x.g.issued x.q).trapped x.q ⟨cause, x.q.pc, addr, detail, x.q.tag, true⟩ _ none false, _,
    State.group?_modGroup_some (State.prep_group h) fun _ => rfl, rfl,
    Group.trapped_tcause _ _ _ _ _ hr' hc, rfl, rfl, rfl, rfl, rfl, rfl, ?_, Group.trapped_q? _ _ _ _ _ _ hq', fun tag ht => ?_, rfl⟩,
    fun r hr => State.group?_prep_modGroup_ne hr fun _ => rfl, rfl⟩
  · simp
  · exact (Group.trapped_q?_ne _ _ _ _ _ _ ht).trans (Group.q?_issued ..)

end

/-! ## The three parts of the statement -/

/-- A trap at issue of a group that has something in flight or to report waits (R347). -/
theorem State.raise_pends {s : State} {x : Iss} (h : s.iss = some x) (cause : Nat) (addr detail : W64) (hm : x.g.trap.mode = none)
    (hb : x.g.flights ≠ [] ∨ x.g.trap.replay ≠ [] ∨ x.g.trap.shadows ≠ []) :
    let u := (s.prep x).raise x cause addr detail
    u.group? x.g.ref = some { x.now with trap := { x.now.trap with pend := some ⟨cause, x.q.pc, addr, detail, x.q.tag, true⟩ } }
      ∧ (∀ r, r ≠ x.g.ref → u.group? r = s.group? r) ∧ { u with groups := s.groups, free := s.free } = s := by
  dsimp only
  rw [State.raise_of_undrained hm hb]
  exact ⟨State.group?_modGroup_some (State.prep_group h) fun _ => rfl,
    fun r hr => State.group?_prep_modGroup_ne hr fun _ => rfl, rfl⟩

/-- Settles O21: a trap at issue by the state of its group, and TRAP_ENTRY and WAITLIM_EXPIRY where they are due. -/
theorem trapEntry : Obligations.TrapEntry := by
  refine ⟨fun s x cause addr detail h hc => ⟨fun hm => ?_, fun hm hb => State.raise_pends h cause addr detail hm hb,
    fun hm hf hr hs => ⟨State.raise_ends h hc hm hf hr hs, State.raise_enters h hc hm hf hr hs⟩⟩, ?_, ?_⟩
  · rw [State.raise_of_mode hm]
    exact State.prep_endTeam h _ _
  · intro s g q t l r hg hh hq hrun hf hr hs hp hpend hd hm hc ha ht
    obtain ⟨hteam, -⟩ := State.homeOf_some hh
    have hdue : (g.stopped && !s.heldGroup g) = true := by
      simp [Group.stopped, State.heldGroup, hrun, hf, hp, hr, hpend, hteam, hd, TrapSt.ahead, hs]
    have hstop : bodyStop g s = s.enterTrap g.ref r none := by simp [bodyStop, hr, hs, hm, hpend]
    refine ⟨s.enterTrap g.ref r none, g.trapped q r (s.ctx l.cid).trh none false, ?_, ?_⟩
    · show execTrapEntry g.ref s = _
      simp only [execTrapEntry, hg, event, hdue, if_true, hstop]
    rw [State.enterTrap_handler hg hh (Group.entrant_of_q? hq) hm ht ha]
    refine ⟨State.group?_modGroup_some hg fun _ => rfl, Group.trapped_tcause _ _ _ _ _ hr hc, rfl, rfl, rfl,
      rfl, rfl, Group.trapped_q? _ _ _ _ _ _ hq, rfl, fun n hn => State.group?_modGroup_ne _ _ (fun _ => rfl) hn, rfl⟩
  · intro s x h hx hrun hpend hr hp hd hmay hh hb hlim hover hacc
    obtain ⟨hg, -, -, -, hhome, -⟩ := State.issAt_some hx
    obtain ⟨hteam, -⟩ := State.homeOf_some hhome
    have hstalls : s.stallsAt x.g.ref x.q.tag = some x := by
      simp [State.stallsAt, hx, State.holdStalls, hpend, hr, hmay, hh, hb, hlim, hover, hacc, Option.filter]
    have hdue : stallDue s x.g.ref x.q.tag = true := by
      simp [stallDue, hg, hrun, hp, State.heldGroup, hteam, hd, hstalls]
    show execWaitlimExpiry x.g.ref x.q.tag s = _
    simp only [execWaitlimExpiry, event, hdue, if_true, bodyStall, hstalls]
    rfl

end Sys2Proof.Machine
end

section
/-! PROOFS. How an instruction is in flight and ends (R10, R22, R23): what starting it changes, what the landing of its result changes, and
what its completion leaves. -/

namespace Sys2Proof.Machine

/-! ## An instruction starts in flight -/

theorem Group.addBusy_eq (g : Group) (b : Busy) : g.addBusy b = { g with busy := (g.addBusy b).busy } := by
  unfold Group.addBusy; split <;> rfl

theorem Group.fly_eq (g : Group) (f : Flight) (lanes : W64) :
    g.fly f lanes = { g with flights := g.flights ++ [f], busy := (g.fly f lanes).busy } := by
  unfold Group.fly
  split
  · rw [Group.addBusy_eq, Group.addBusy_eq]
  · rw [Group.addBusy_eq]

theorem Group.fly_ref (g : Group) (f : Flight) (lanes : W64) : (g.fly f lanes).ref = g.ref := by rw [Group.fly_eq]
theorem Group.fly_q? (g : Group) (f : Flight) (lanes : W64) (tag : Nat) : (g.fly f lanes).q? tag = g.q? tag := by rw [Group.fly_eq]; rfl

/-- What the instruction in flight keeps of its issue (R22). -/
def Flight.OfIssue (f : Flight) (x : Iss) (i : Instr) : Prop :=
  f.instr = i ∧ f.pc = x.q.pc ∧ f.tag = x.q.tag ∧ f.quads = x.q.quads ∧ f.fmt = x.q.fmt ∧ f.done = 0 ∧ f.after = 0 ∧ f.consumed = false
    ∧ f.trap = none ∧ f.demand = none

/-- A word whose body starts an instruction in flight: it is in flight, and its quad-set has gone on (R22). -/
theorem InFlight.of_fly {s : State} {x : Iss} {i : Instr} {f : Flight} {lanes : W64} (h : s.iss = some x) (hf : f.OfIssue x i) :
    InFlight i s ((s.prep x).fly x f lanes) x ((x.now.fly { f with fid := s.next } lanes).modQ x.q.tag QSet.advance)
      { f with fid := s.next } where
  here := by
    obtain ⟨hx, -⟩ := State.iss_some h
    exact State.group?_modGroup_some (f := fun g => (g.fly { f with fid := s.next } lanes).modQ x.q.tag QSet.advance) (State.prep_group h)
      fun g => Group.fly_ref ..
  flights := congrArg Group.flights (Group.fly_eq ..)
  flight := ⟨rfl, hf⟩
  next := by
    obtain ⟨-, hq, -⟩ := State.iss_some h
    rw [Group.q?_modQ _ _ _ QSet.advance_tag, Group.fly_q?, Iss.now, Group.q?_issued, hq, Option.map_some]
  quads tag ht := by rw [Group.q?_modQ_ne _ _ QSet.advance_tag ht, Group.fly_q?, Iss.now, Group.q?_issued]
  group := by rw [Group.fly_eq]; rfl
  others r hr := State.group?_prep_modGroup_ne (f := fun g => (g.fly { f with fid := s.next } lanes).modQ x.q.tag QSet.advance) hr
    fun g => Group.fly_ref ..
  fresh := rfl
  rest := rfl

/-- A word whose body only goes on. -/
theorem GoesOn.of_advance {s : State} {x : Iss} {i : Instr} (h : s.iss = some x) (hx : exec i s = .next ((s.prep x).advance x)) :
    GoesOn i s x :=
  ⟨_, hx, State.group?_modGroup_some (State.prep_group h) fun _ => rfl, fun _ hr => State.group?_prep_modGroup_ne hr fun _ => rfl, rfl⟩

/-! ## A result lands -/

/-- `k` is `g` but for registers and the bookkeeping of what is in flight: results have landed in it. -/
structure Lands (g k : Group) : Prop where
  eq : k = { g with regs := k.regs, flights := k.flights }
  fids : k.flights.map (·.fid) = g.flights.map (·.fid)
  dead : k.regs.dead = g.regs.dead

theorem Lands.refl (g : Group) : Lands g g := ⟨rfl, rfl, rfl⟩

theorem Lands.trans {a b c : Group} (h : Lands a b) (k : Lands b c) : Lands a c where
  eq := by
    have hk := k.eq
    rw [h.eq] at hk
    exact hk
  fids := k.fids.trans h.fids
  dead := k.dead.trans h.dead

theorem Lands.ref {g k : Group} (h : Lands g k) : k.ref = g.ref := by rw [h.eq]
theorem Lands.nregs {g k : Group} (h : Lands g k) : k.nregs = g.nregs := by rw [h.eq]
theorem Lands.busy {g k : Group} (h : Lands g k) : k.busy = g.busy := by rw [h.eq]
theorem Lands.qsets {g k : Group} (h : Lands g k) : k.qsets = g.qsets := by rw [h.eq]

/-- Results that land one after another. -/
theorem Lands.foldl {α : Type} {step : Group → α → Group} (h : ∀ g a, Lands g (step g a)) (as : List α) (g : Group) :
    Lands g (as.foldl step g) :=
  List.foldlRecOn as step (.refl g) fun k hk a _ => hk.trans (h k a)

theorem Group.landScal_lands (g : Group) (n : Nat) (v : W64) : Lands g (g.landScal n v) := by
  unfold Group.landScal; split
  · exact .refl g
  · exact ⟨rfl, rfl, rfl⟩

theorem Group.spoilRow_lands (g : Group) (r l : Nat) : Lands g (g.spoilRow r l) where
  eq := by unfold Group.spoilRow; split <;> rfl
  fids := (g.spoilRow_only r l).fids
  dead := by rw [Group.spoilRow_regs]

theorem Group.land_lands (g : Group) (o : Loc) (l : Nat) (v : W32) : Lands g (g.land o l v) := by
  unfold Group.land
  split
  · exact .refl g
  split
  · exact (g.spoilRow_lands _ l).trans ⟨rfl, rfl, by rw [Group.spoilRow_regs]⟩
  · split
    · exact .refl g
    · exact ⟨rfl, rfl, rfl⟩
  all_goals exact .refl g

theorem Group.landWords_lands (g : Group) (f : Flight) (reg l : Nat) (ws : List W32) : Lands g (g.landWords f reg l ws) :=
  .foldl (step := fun g (e : Loc × W32) => g.land e.1 l e.2) (fun g e => g.land_lands e.1 l e.2) _ g

/-! ## A result lands in lane registers -/

theorem Group.land_lane_regs (g : Group) (r l : Nat) (v : W32) :
    (g.land (.lane r) l v).regs = if bit g.regs.dead l then g.regs else { g.regs with lanes := tset 0 g.regs.lanes (64 * r + l) v } := by
  unfold Group.land; split
  · rfl
  · simp

theorem Group.lane_land (g : Group) (r l k j : Nat) (v : W32) (hl : l < 64) (hj : j < 64) :
    (g.land (.lane r) l v).lane k j = if k = r ∧ j = l ∧ bit g.regs.dead l = false then v else g.lane k j := by
  unfold Group.lane
  rw [Group.land_lane_regs]
  cases hd : bit g.regs.dead l
  · simp only [Bool.false_eq_true, if_false, tget_tset, lane_key hj hl, and_true]
  · simp

/-- A destination in lane registers of the group names each of its registers. -/
theorem Flight.locs_of_inLanes {f : Flight} {g : Group} (h : f.inLanes g) :
    f.locs g = (List.range f.ndst).map fun i => .lane (f.dst + i) := by
  obtain ⟨hfile, hdst⟩ := h
  refine List.map_congr_left fun i hi => ?_
  have hi := List.mem_range.1 hi
  simp only [hfile]
  rw [if_neg (by omega)]

theorem Flight.inLanes_of_lands {f : Flight} {g k : Group} (h : f.inLanes g) (hk : Lands g k) : f.inLanes k := by
  rwa [Flight.inLanes, hk.nregs]

section
variable {f : Flight} {g : Group} {l : Nat} (h : f.inLanes g) (w : Nat → W32)
include h

/-- Words for all registers of such a destination land each in its register. -/
theorem Group.landWords_range : g.landWords f 0 l ((List.range f.ndst).map w)
    = (List.range f.ndst).foldl (fun g i => g.land (.lane (f.dst + i)) l (w i)) g := by
  rw [Group.landWords, Flight.locs_of_inLanes h, List.drop_zero, List.zip_map', List.foldl_map]

theorem Group.lane_landWords {r j : Nat} (hl : l < 64) (hj : j < 64) :
    (g.landWords f 0 l ((List.range f.ndst).map w)).lane r j
      = if j = l ∧ f.dst ≤ r ∧ r < f.dst + f.ndst ∧ bit g.regs.dead j = false then w (r - f.dst) else g.lane r j := by
  rw [Group.landWords_range h]
  induction f.ndst with
  | zero => rw [if_neg (by omega)]; rfl
  | succ n ih =>
    have hdead : (List.foldl (fun g i => g.land (.lane (f.dst + i)) l (w i)) g (List.range n)).regs.dead = g.regs.dead :=
      (Lands.foldl (fun g i => g.land_lands _ l (w i)) _ g).dead
    rw [List.range_succ, List.foldl_append, List.foldl_cons, List.foldl_nil, Group.lane_land _ _ _ _ _ _ hl hj, hdead, ih]
    by_cases hr : r = f.dst + n
    · subst hr
      by_cases hjl : j = l
      · subst hjl; simp
      · simp [hjl]
    · have : (r < f.dst + (n + 1)) = (r < f.dst + n) := by simp; omega
      simp [hr, this]

/-- Of the registers only lane registers change. -/
theorem Group.landWords_regs :
    (g.landWords f 0 l ((List.range f.ndst).map w)).regs
      = { g.regs with lanes := (g.landWords f 0 l ((List.range f.ndst).map w)).regs.lanes } := by
  rw [Group.landWords_range h]
  refine List.foldlRecOn (motive := fun k : Group => k.regs = { g.regs with lanes := k.regs.lanes }) _ _ rfl fun k hk i _ => ?_
  rw [Group.land_lane_regs]
  split
  · exact hk
  · rw [hk]

end

/-! ## Results land lane by lane -/

/-- Results for lanes that are apart: each lane takes its own. `step` lands the words `w a` in the lane of `a`. -/
theorem foldl_lane {α : Type} {f : Flight} {as : List α} {step : Group → α → Group} {lane : α → Nat} {w : α → Nat → W32}
    (hlands : ∀ g a, Lands g (step g a)) (hdistinct : (as.map lane).Nodup) {j : Nat}
    (hstep : ∀ g, ∀ a ∈ as, f.inLanes g → ∀ r, (step g a).lane r j
      = if j = lane a ∧ f.dst ≤ r ∧ r < f.dst + f.ndst ∧ bit g.regs.dead j = false then w a (r - f.dst) else g.lane r j)
    {g : Group} (hg : f.inLanes g) (r : Nat) :
    (as.foldl step g).lane r j = match as.find? fun a => lane a = j with
      | some a => if f.dst ≤ r ∧ r < f.dst + f.ndst ∧ bit g.regs.dead j = false then w a (r - f.dst) else g.lane r j
      | none => g.lane r j := by
  induction as generalizing g with
  | nil => rfl
  | cons a as ih =>
    rw [List.map_cons, List.nodup_cons] at hdistinct
    rw [List.foldl_cons, ih hdistinct.2 (fun g b hb => hstep g b (List.mem_cons_of_mem _ hb)) (Flight.inLanes_of_lands hg (hlands g a)),
      hstep g a (List.mem_cons_self ..) hg, (hlands g a).dead]
    by_cases haj : lane a = j
    · have hnone : as.find? (fun b => lane b = j) = none := by
        rw [List.find?_eq_none]
        exact fun b hb hbj => hdistinct.1 (List.mem_map.2 ⟨b, hb, (of_decide_eq_true hbj).trans haj.symm⟩)
      simp only [hnone, List.find?_cons, haj, decide_true, true_and]
    · simp [haj, Ne.symm haj]

/-! ## An instruction in flight completes -/

theorem Group.spoil_lands (g : Group) (free : Nat) (b : Busy) : Lands g (g.spoil free b) :=
  .foldl (fun g l => .foldl (fun g i => by
    split
    · exact g.land_lands ..
    · exact g.landScal_lands ..
    · exact g.land_lands ..) _ g) _ g

/-- A destination that no other write has reached takes no free value (R23). -/
theorem Group.spoil_of_unhit (g : Group) (free : Nat) {b : Busy} (h : b.hit = 0) : g.spoil free b = g := by
  simp [Group.spoil, h, bitList, bit]

theorem Group.landed_ref (g : Group) (free fid : Nat) : (g.landed free fid).ref = g.ref :=
  (Lands.foldl (fun g b => g.spoil_lands free b) _ _).ref

theorem Group.landed_of_unhit {g : Group} (free fid : Nat) (h : ∀ b ∈ g.busy, b.fid = fid → b.hit = 0) :
    g.landed free fid = { g with flights := g.flights.filter fun f => f.fid ≠ fid, busy := g.busy.filter fun b => b.fid ≠ fid } := by
  unfold Group.landed
  refine List.foldlRecOn (motive := fun k => k = _) _ _ rfl fun k hk b hb => ?_
  obtain ⟨hb, hfid⟩ := List.mem_filter.1 hb
  rw [Group.spoil_of_unhit _ _ (h b hb (of_decide_eq_true hfid)), hk]

/-- An instruction in flight completes with results that land, no other write having reached its destination: it is in flight no more, and
besides the registers of its group nothing has changed. -/
theorem State.complete_lands {s : State} {g : Group} {f : Flight} {land : Group → Group} (hg : s.group? g.ref = some g)
    (hland : ∀ g, Lands g (land g)) (h : ∀ b ∈ g.busy, b.fid = f.fid → b.hit = 0) :
    let u := s.complete g.ref f.fid land
    ∃ k, u.group? g.ref = some k ∧ Gone g k f ∧ k.qsets = g.qsets ∧ k.regs = (land g).regs ∧ (∀ r, r ≠ g.ref → u.group? r = s.group? r)
      ∧ { u with groups := s.groups, free := s.free } = s := by
  have href (g : Group) : ((land g).landed s.free f.fid).ref = g.ref := (Group.landed_ref ..).trans (hland g).ref
  refine ⟨(land g).landed s.free f.fid, State.group?_modGroup_some ((State.group?_free ..).trans hg) href, ?_, ?_, ?_,
    fun r hr => (State.group?_modGroup_ne _ _ href hr).trans (State.group?_free ..), rfl⟩
  all_goals rw [Group.landed_of_unhit _ _ (by rwa [(hland g).busy])]
  · rw [Gone, ← (hland g).fids, List.filter_map]; rfl
  · exact (hland g).qsets

end Sys2Proof.Machine
end

section
/-! PROOFS. Scalar and lane divisions, from their issue to their completion (R10, R57, R80, R123): Division. -/

namespace Sys2Proof.Machine

/-! ## Quotient and remainder (R123) -/

section
variable {n : Nat} (hn : 0 < n) (signed : Bool) (a b : BitVec n)
include hn

/-- A zero divisor gives all ones; otherwise the quotient truncates towards zero. -/
theorem ofNat_divide_quotient : BitVec.ofNat n (divide n signed a.toNat b.toNat).1
    = if b = 0 then BitVec.allOnes n else if signed then a.sdiv b else a.udiv b := by
  have hzero : b.toNat = 0 ↔ b = 0 := by rw [← BitVec.toNat_inj]; rfl
  simp only [divide, Nat.mod_eq_of_lt a.isLt, Nat.mod_eq_of_lt b.isLt, hzero]
  split
  · exact BitVec.eq_of_toNat_eq (by simp)
  cases signed
  · show BitVec.ofNat n (a.toNat / b.toNat) = a / b
    rw [← BitVec.toNat_udiv, BitVec.ofNat_toNat, BitVec.setWidth_eq]
  · simp only [if_true, sext_toNat _ hn, ofNat_iwrap]
    exact BitVec.eq_of_toInt_eq (by rw [BitVec.toInt_ofInt, BitVec.toInt_sdiv])

/-- A zero divisor gives the dividend; otherwise the remainder has its sign. -/
theorem ofNat_divide_remainder : BitVec.ofNat n (divide n signed a.toNat b.toNat).2
    = if b = 0 then a else if signed then a.srem b else a.umod b := by
  have hzero : b.toNat = 0 ↔ b = 0 := by rw [← BitVec.toNat_inj]; rfl
  simp only [divide, Nat.mod_eq_of_lt a.isLt, Nat.mod_eq_of_lt b.isLt, hzero]
  split
  · simp
  cases signed
  · show BitVec.ofNat n (a.toNat % b.toNat) = a % b
    rw [← BitVec.toNat_umod, BitVec.ofNat_toNat, BitVec.setWidth_eq]
  · simp only [if_true, sext_toNat _ hn, ofNat_iwrap]
    rw [← BitVec.toInt_srem, BitVec.ofInt_toInt]

end

theorem divide_setWidth (signed : Bool) (a b : W64) :
    divide 32 signed a.toNat b.toNat = divide 32 signed (a.setWidth 32).toNat (b.setWidth 32).toNat := by
  simp [divide]

theorem divResult_quotient (signed : Bool) (wd : BitVec 1) (a b : W64) : divResult signed false wd a b
    = if wd = 1 then
        (if b.setWidth 32 = 0 then BitVec.allOnes 32
          else if signed then (a.setWidth 32).sdiv (b.setWidth 32) else (a.setWidth 32).udiv (b.setWidth 32)).signExtend 64
      else if b = 0 then BitVec.allOnes 64 else if signed then a.sdiv b else a.udiv b := by
  simp only [divResult, Bool.false_eq_true, if_false, divide_setWidth]
  rw [ofNat_divide_quotient (by norm_num), ofNat_divide_quotient (by norm_num)]

theorem divResult_remainder (signed : Bool) (wd : BitVec 1) (a b : W64) : divResult signed true wd a b
    = if wd = 1 then
        (if b.setWidth 32 = 0 then a.setWidth 32
          else if signed then (a.setWidth 32).srem (b.setWidth 32) else (a.setWidth 32).umod (b.setWidth 32)).signExtend 64
      else if b = 0 then a else if signed then a.srem b else a.umod b := by
  simp only [divResult, if_true, divide_setWidth]
  rw [ofNat_divide_remainder (by norm_num), ofNat_divide_remainder (by norm_num)]

/-! ## Divisions issue (R80, R123) -/

theorem scalarDivide_inFlight {s : State} {x : Iss} {i : Instr} {sd sa sb : BitVec 6} {la : BitVec 4} (h : Issues s x i)
    (hx : exec i s = issue i (fun x => bodyDiv x i sd.toNat sa.toNat sb.toNat la.toNat) s) :
    ∃ t g f, exec i s = .next t ∧ InFlight i s t x g f ∧ f.opnds = [x.s sa.toNat, x.s sb.toNat] ∧ f.look = la.toNat ∧ f.slot = 7
      ∧ f.ndst = (if sd = 0 then 0 else 1) ∧ f.file = .scalar ∧ f.dst = x.g.scalNo sd.toNat := by
  have hrun : exec i s = .next ((s.prep x).fly x { x.flight i la.toNat 7 with
      opnds := [x.s sa.toNat, x.s sb.toNat], file := .scalar, dst := x.g.scalNo sd.toNat, ndst := if sd.toNat = 0 then 0 else 1 } 1) :=
    hx.trans (issue_runs h)
  refine ⟨_, _, _, hrun, InFlight.of_fly h.1 ⟨rfl, rfl, rfl, rfl, rfl, rfl, rfl, rfl, rfl, rfl⟩, rfl, rfl, rfl, ?_, rfl, rfl⟩
  simp [← BitVec.toNat_inj]

/-- A word that is defined where it issues has operands that name registers. -/
theorem laneUses_ok {x : Iss} {i : Instr} (h : undefHere x i = false) : ∀ u ∈ laneUses i, u.ok x.g = true := by
  unfold undefHere at h
  have huses := (Bool.or_eq_false_iff.1 (Bool.or_eq_false_iff.1 (Bool.or_eq_false_iff.1 h).1).1).2
  rwa [Bool.not_eq_false', List.all_eq_true] at huses

theorem LaneUse.names_of_ok {g : Group} {u : LaneUse} (h : u.ok g = true) (hl : g.hlevel = 0) :
    u.num % u.count = 0 ∧ u.num + u.count ≤ g.nregs := by
  unfold LaneUse.ok at h
  rw [Group.span_of_hlevel hl] at h
  by_contra hn
  rw [if_neg hn] at h
  cases h

theorem dstOf_lanes (d : Nat) {n : Nat} (hn : 0 < n) : dstOf ((List.range n).map fun i => .lane (d + i)) = (.lane, d, n) := by
  obtain ⟨k, rfl⟩ : ∃ k, n = k + 1 := ⟨n - 1, by omega⟩
  simp [List.range_succ_eq_map, dstOf]

/-- VFDIV in flight, with the words of its operands for each executing lane. -/
def Iss.quotientFlight (x : Iss) (i : Instr) (vd va vb n : Nat) (ex : W64) (look : Nat) : Flight :=
  { x.flight i look 7 with
    exec := ex, file := (dstOf (x.op n vd)).1, dst := (dstOf (x.op n vd)).2.1, ndst := (dstOf (x.op n vd)).2.2
    accs := (bitList ex).map fun l => ⟨l, .spad 0, 0,
      ((List.range n).map fun j => x.v (x.op n va) j l) ++ (List.range n).map fun j => x.v (x.op n vb) j l, 0, 0, true⟩ }

theorem bodyVfdiv_flies {x : Iss} {m : Nat} (hex : x.exec m ≠ 0) (i : Instr) (vd va vb n : Nat) (det : Bool) (s : State) :
    bodyVfdiv x i vd va vb m n det s = s.fly x (x.quotientFlight i vd va vb n (x.exec m) (if det then 15 else 0)) (x.exec m) := by
  rw [bodyVfdiv, if_neg hex]; rfl

section
variable {s : State} {x : Iss} {vd va vb : BitVec 7} {m : BitVec 2} {f64 det : BitVec 1}
  (h : Issues s x (.vfdiv vd va vb m f64 det))
include h

theorem vfdiv_goesOn (hex : x.exec m.toNat = 0) : GoesOn (.vfdiv vd va vb m f64 det) s x := by
  refine GoesOn.of_advance h.1 ((issue_runs h).trans ?_)
  rw [bodyVfdiv, if_pos hex]

theorem vfdiv_inFlight (hex : x.exec m.toNat ≠ 0) :
    let n := if f64 = 1 then 2 else 1
    ∃ t g f, exec (.vfdiv vd va vb m f64 det) s = .next t ∧ InFlight (.vfdiv vd va vb m f64 det) s t x g f
      ∧ f.exec = x.exec m.toNat ∧ f.look = (if det = 1 then 15 else 0) ∧ f.slot = 7
      ∧ f.accs.map (·.lane) = (List.range 64).filter (fun l => bit (x.exec m.toNat) l)
      ∧ (∀ a ∈ f.accs, a.data = (List.range n).map (fun j => x.v (x.op n va.toNat) j a.lane)
        ++ (List.range n).map fun j => x.v (x.op n vb.toNat) j a.lane)
      ∧ (x.g.hlevel = 0 → f.file = .lane ∧ f.dst = vd.toNat ∧ f.ndst = n) := by
  intro n
  have hn : f64Regs f64.toNat = n := by simp [f64Regs, n, ← BitVec.toNat_inj]
  refine ⟨_, _, _, (issue_runs h).trans (congrArg _ (bodyVfdiv_flies hex ..)),
    InFlight.of_fly h.1 ⟨rfl, rfl, rfl, rfl, rfl, rfl, rfl, rfl, rfl, rfl⟩, rfl, by simp [Iss.quotientFlight, Iss.flight], rfl, ?_, ?_, ?_⟩
  · exact (List.map_map ..).trans (List.map_id _)
  · intro a ha
    obtain ⟨l, -, rfl⟩ := List.mem_map.1 ha
    rw [hn]
  · intro hl
    obtain ⟨hmod, hle⟩ := LaneUse.names_of_ok (laneUses_ok h.2.2.1 ⟨vd.toNat, f64Regs f64.toNat, true⟩ (List.mem_cons_self ..)) hl
    have hdst : dstOf (x.op (f64Regs f64.toNat) vd.toNat) = (.lane, vd.toNat, n) := by
      rw [Iss.op_of_hlevel hl hmod hle, hn, dstOf_lanes _ (by dsimp only [n]; split <;> omega)]
    simp only [Iss.quotientFlight, hdst, and_self]

end

/-! ## Divisions complete (R22, R123) -/

/-- A division in flight, no other write having reached its destination, completes with what it lands. -/
theorem divide_completes {s : State} {g : Group} {f : Flight} (hg : s.group? g.ref = some g) (hf : g.flight? f.fid = some f)
    (hb : ∀ b ∈ g.busy, b.fid = f.fid → b.hit = 0) (hi : isDivide f.instr = true) (hland : ∀ g, Lands g (divideLand f g)) :
    ∃ u k, (exec (.divideComplete g.ref f.fid) s = .next u ∧ u.group? g.ref = some k ∧ Gone g k f
      ∧ k.qsets = g.qsets ∧ (∀ r, r ≠ g.ref → u.group? r = s.group? r) ∧ { u with groups := s.groups, free := s.free } = s)
      ∧ k.regs = (divideLand f g).regs := by
  have hfl : s.flight? g.ref f.fid = some (g, f) := by simp [State.flight?, hg, hf]
  have hx : exec (.divideComplete g.ref f.fid) s = .next (s.complete g.ref f.fid (divideLand f)) := by
    show execDivideComplete g.ref f.fid s = _
    simp only [execDivideComplete, hfl, event, hi, if_true]
  obtain ⟨k, hk, hgone, hq, hregs, hothers, hrest⟩ := State.complete_lands (f := f) hg hland hb
  exact ⟨_, k, ⟨hx, hk, hgone, hq, hothers, hrest⟩, hregs⟩

/-- A scalar that lands in the destination of an instruction in flight (R25). -/
def Flight.landResult (f : Flight) (v : W64) (g : Group) : Group := if f.ndst = 0 then g else g.landScal f.dst v

theorem Flight.landResult_lands (f : Flight) (v : W64) (g : Group) : Lands g (f.landResult v g) := by
  unfold Flight.landResult; split
  · exact .refl g
  · exact g.landScal_lands ..

theorem Group.landScal_regs (g : Group) (n : Nat) (v : W64) :
    (g.landScal n v).regs = if n = 0 then g.regs else { g.regs with scal := tset 0 g.regs.scal n v } := by
  unfold Group.landScal; split <;> rfl

theorem LandedScalar.of_landResult {g k : Group} {f : Flight} {v : W64} (hk : k.regs = (f.landResult v g).regs) : LandedScalar g k f v := by
  unfold Flight.landResult at hk
  by_cases hn : f.ndst = 0
  · rw [if_pos hn] at hk
    exact ⟨fun n => by simp [Group.scal, hk, hn], by rw [hk]⟩
  rw [if_neg hn, Group.landScal_regs] at hk
  by_cases hd : f.dst = 0
  · rw [if_pos hd] at hk
    refine ⟨fun n => ?_, by rw [hk]⟩
    rw [if_neg (by omega), Group.scal, hk, ← Group.scal]
  · rw [if_neg hd] at hk
    refine ⟨fun n => ?_, by rw [hk]⟩
    by_cases hz : n = 0
    · simp [Group.scal, hz]
    · simp [Group.scal, hk, hz, hn, tget_tset]

/-- A division of scalars completes with the value that it forms. -/
theorem divide_landsScalar {s : State} {g : Group} {f : Flight} (hg : s.group? g.ref = some g) (hf : g.flight? f.fid = some f)
    (hb : ∀ b ∈ g.busy, b.fid = f.fid → b.hit = 0) (hi : isDivide f.instr = true) {v : W64} (hv : divideLand f = f.landResult v) :
    ∃ u k, (exec (.divideComplete g.ref f.fid) s = .next u ∧ u.group? g.ref = some k ∧ Gone g k f
      ∧ k.qsets = g.qsets ∧ (∀ r, r ≠ g.ref → u.group? r = s.group? r) ∧ { u with groups := s.groups, free := s.free } = s)
      ∧ LandedScalar g k f v := by
  obtain ⟨u, k, hrun, hregs⟩ := divide_completes hg hf hb hi (hv ▸ f.landResult_lands v)
  exact ⟨u, k, hrun, .of_landResult (hv ▸ hregs)⟩

/-! ## VFDIV completes (R10, R57, R80) -/

theorem leNat_word (w : W32) : leNat (wordsBytes [w]) = w.toNat := by
  simp [wordsBytes, leBytes, leNat]
  omega

theorem leNat_pair (lo hi : W32) : leNat (wordsBytes [lo, hi]) = (hi ++ lo).toNat := by
  rw [BitVec.toNat_append, ← Nat.shiftLeft_add_eq_or_of_lt lo.isLt, Nat.shiftLeft_eq]
  simp [wordsBytes, leBytes, leNat]
  omega

theorem bytesWords_word (n : Nat) : bytesWords (leBytes 4 n) = (List.range 1).map fun j => BitVec.ofNat 32 (n / 2 ^ (32 * j)) := by
  simp [bytesWords, leBytes, leNat, List.range_succ, ← BitVec.toNat_inj]
  omega

theorem bytesWords_pair (n : Nat) : bytesWords (leBytes 8 n) = (List.range 2).map fun j => BitVec.ofNat 32 (n / 2 ^ (32 * j)) := by
  simp [bytesWords, leBytes, leNat, List.range_succ, ← BitVec.toNat_inj]
  omega

/-- A field of FMT or of a descriptor. -/
theorem bits_eq (w : W64) (hi lo : Nat) : bits w hi lo = (w.extractLsb' lo (hi + 1 - lo)).toNat := by
  rw [bits, BitVec.extractLsb'_toNat, Nat.shiftRight_eq_div_pow]

/-- The quotient of one lane of VFDIV with its flags, by its operands' words (R80). -/
def Flight.quotientOf (f : Flight) (f64 : BitVec 1) (a : LaneAcc) : Nat × BitVec 5 :=
  let rm := (f.fmt.extractLsb' 15 2).toNat
  if f64 = 1 then fdiv fF64 rm (a.data.getD 1 0 ++ a.data.getD 0 0).toNat (a.data.getD 3 0 ++ a.data.getD 2 0).toNat
  else fdiv fF32 rm (a.data.getD 0 0).toNat (a.data.getD 1 0).toNat

/-- Word j of it. -/
def Flight.quotientWord (f : Flight) (f64 : BitVec 1) (a : LaneAcc) (j : Nat) : W32 := BitVec.ofNat 32 ((f.quotientOf f64 a).1 / 2 ^ (32 * j))

theorem quotient_eq (f : Flight) (f64 : BitVec 1) {a : LaneAcc} (h : a.data.length = if f64 = 1 then 4 else 2) :
    quotient (f64 = 1) (fmtRm f.fmt) a.data
      = ((List.range (if f64 = 1 then 2 else 1)).map (f.quotientWord f64 a), (f.quotientOf f64 a).2) := by
  have hrm : fmtRm f.fmt = (f.fmt.extractLsb' 15 2).toNat := bits_eq ..
  unfold Flight.quotientWord Flight.quotientOf
  by_cases hd : f64 = 1
  · rw [if_pos hd] at h
    obtain ⟨w0, w1, w2, w3, hw⟩ := List.length_eq_four.1 h
    simp [quotient, hd, hw, hrm, leNat_pair, bytesWords_pair]
  · rw [if_neg hd] at h
    replace hd : f64 ≠ 1#1 := hd
    obtain ⟨w0, w1, hw⟩ := List.length_eq_two.1 h
    simp [quotient, hd, hw, hrm, leNat_word, bytesWords_word]

/-- What DIVIDE_COMPLETE does for one lane of VFDIV: a dead lane takes nothing, and raises no flag (R10, R57). -/
def Flight.landQuotient (f : Flight) (f64 : BitVec 1) (g : Group) (a : LaneAcc) : Group :=
  if bit g.regs.dead a.lane then g
  else (g.landWords f 0 a.lane (quotient (f64 = 1) (fmtRm f.fmt) a.data).1).orFp (quotient (f64 = 1) (fmtRm f.fmt) a.data).2

theorem divideLand_vfdiv {f : Flight} {vd va vb : BitVec 7} {m : BitVec 2} {f64 det : BitVec 1}
    (h : f.instr = .vfdiv vd va vb m f64 det) (g : Group) : divideLand f g = f.accs.foldl (f.landQuotient f64) g := by
  unfold divideLand; rw [h]; rfl

theorem Flight.landQuotient_lands (f : Flight) (f64 : BitVec 1) (g : Group) (a : LaneAcc) : Lands g (f.landQuotient f64 g a) := by
  unfold Flight.landQuotient; split
  · exact .refl g
  · exact (g.landWords_lands ..).trans ⟨rfl, rfl, rfl⟩

section
variable {f : Flight} {f64 : BitVec 1} {as : List LaneAcc}
  (hn : f.ndst = if f64 = 1 then 2 else 1) (has : ∀ a ∈ as, a.lane < 64 ∧ a.data.length = if f64 = 1 then 4 else 2)
include hn has

theorem Flight.lane_landQuotient {g : Group} {a : LaneAcc} (ha : a ∈ as) (hg : f.inLanes g) {r j : Nat} (hj : j < 64) :
    (f.landQuotient f64 g a).lane r j = if j = a.lane ∧ f.dst ≤ r ∧ r < f.dst + f.ndst ∧ bit g.regs.dead j = false
      then f.quotientWord f64 a (r - f.dst) else g.lane r j := by
  obtain ⟨hl, hlen⟩ := has a ha
  unfold Flight.landQuotient
  split
  · rename_i hdead
    rw [if_neg]
    rintro ⟨rfl, -, -, hd⟩
    simp [hdead] at hd
  · rw [quotient_eq f f64 hlen, ← hn]
    exact Group.lane_landWords hg _ hl hj

/-- A lane that is not dead raises its flags (R57). -/
theorem Flight.fpstat_landQuotient {g : Group} {a : LaneAcc} (ha : a ∈ as) (hg : f.inLanes g) (j : Nat) :
    (f.landQuotient f64 g a).regs.fpstat.getLsbD j = true
      ↔ g.regs.fpstat.getLsbD j = true ∨ bit g.regs.dead a.lane = false ∧ (f.quotientOf f64 a).2.getLsbD j = true := by
  obtain ⟨-, hlen⟩ := has a ha
  unfold Flight.landQuotient
  rw [quotient_eq f f64 hlen, ← hn]
  cases hd : bit g.regs.dead a.lane
  · rw [if_neg Bool.false_ne_true, Group.orFp_fpstat, Group.landWords_regs hg]
    simp
  · simp

theorem Flight.fpstat_landQuotients {g : Group} (hg : f.inLanes g) (j : Nat) :
    (as.foldl (f.landQuotient f64) g).regs.fpstat.getLsbD j = true ↔ g.regs.fpstat.getLsbD j = true
      ∨ ∃ a ∈ as, bit g.regs.dead a.lane = false ∧ (f.quotientOf f64 a).2.getLsbD j = true := by
  induction as generalizing g with
  | nil => simp
  | cons a as ih =>
    have hlands := f.landQuotient_lands f64 g a
    rw [List.foldl_cons, ih (fun b hb => has b (List.mem_cons_of_mem _ hb)) (Flight.inLanes_of_lands hg hlands), hlands.dead,
      Flight.fpstat_landQuotient hn has (List.mem_cons_self ..) hg]
    simp [or_assoc]

end

/-- Settles O35: the divisions issue in flight, and complete with quotient or remainder. -/
theorem division : Obligations.Division := by
  refine ⟨fun s x => ⟨fun i sd sa sb la wd hi h => ?_, ?_⟩, fun s g f hg hf hb => ⟨fun sd sa sb la wd a b hab => ?_, ?_⟩⟩
  · simp only [List.mem_cons, List.not_mem_nil, or_false] at hi
    rcases hi with rfl | rfl | rfl | rfl
    all_goals exact scalarDivide_inFlight h rfl
  · exact fun vd va vb m f64 det h => ⟨vfdiv_goesOn h, vfdiv_inFlight h⟩
  · refine ⟨fun hi => ?_, fun hi => ?_, fun hi => ?_, fun hi => ?_⟩
    all_goals refine divide_landsScalar hg hf hb (by rw [hi]; rfl) (funext fun k => ?_)
    all_goals unfold divideLand; rw [hi, hab]
    · exact congrArg (f.landResult · k) (divResult_quotient true wd a b)
    · exact congrArg (f.landResult · k) (divResult_quotient false wd a b)
    · exact congrArg (f.landResult · k) (divResult_remainder true wd a b)
    · exact congrArg (f.landResult · k) (divResult_remainder false wd a b)
  · intro vd va vb m f64 det hi hin hnodup has hn
    obtain ⟨u, k, hrun, hregs⟩ := divide_completes hg hf hb (by rw [hi]; rfl) fun g =>
      divideLand_vfdiv hi g ▸ .foldl (f.landQuotient_lands f64) _ g
    rw [divideLand_vfdiv hi] at hregs
    refine ⟨u, k, hrun, fun r l hl => ?_, fun j _ => by rw [hregs]; exact Flight.fpstat_landQuotients hn has hin j⟩
    have hlane : k.lane r l = (f.accs.foldl (f.landQuotient f64) g).lane r l := by rw [Group.lane, hregs, ← Group.lane]
    rw [hlane, foldl_lane (f.landQuotient_lands f64) hnodup (fun g a ha hg r => Flight.lane_landQuotient hn has ha hg hl) hin r]
    cases f.accs.find? fun a => a.lane = l <;> rfl

end Sys2Proof.Machine
end

section
/-! PROOFS. The sums of a matrix operation (R48, R50, R61, R226): each accumulator is reached from the one at issue step by step, a step a
chunk of 8, a block of 32, or a product. -/

namespace Sys2Proof.Machine

/-! ## Step by step -/

/-- What `n` steps make of a value, step q being `next q`. -/
def stepped {α : Type} (next : Nat → α → α) (first : α) : Nat → α
  | 0 => first
  | q + 1 => next q (stepped next first q)

theorem foldl_range_eq_stepped {α β : Type} (f : α → β → α) (p : Nat → β) (first : α) (n : Nat) :
    ((List.range n).map p).foldl f first = stepped (fun q v => f v (p q)) first n := by
  induction n with
  | zero => rfl
  | succ n ih => rw [List.range_succ, List.map_append, List.foldl_append, ih]; rfl

/-! ## Chunks and blocks -/

theorem take_drop_range {α : Type} (p : Nat → α) (k d m : Nat) :
    (((List.range k).map p).drop d).take m = (List.range (min m (k - d))).map fun i => p (d + i) := by
  apply List.ext_getElem
  · simp
  · intro i _ _
    simp

theorem piecesOf_range {α : Type} (p : Nat → α) (m k : Nat) :
    piecesOf m ((List.range k).map p)
      = (List.range ((k + m - 1) / m)).map fun q => (List.range (min m (k - m * q))).map fun i => p (m * q + i) := by
  simp only [piecesOf, List.length_map, List.length_range, take_drop_range]

/-- K is a multiple of 8, so that every chunk is full. -/
theorem piecesOf_eight {α : Type} (p : Nat → α) (c : Nat) :
    piecesOf 8 ((List.range (8 * c)).map p) = (List.range c).map fun q => (List.range 8).map fun i => p (8 * q + i) := by
  rw [piecesOf_range, show (8 * c + 8 - 1) / 8 = c by omega]
  refine List.map_congr_left fun q hq => ?_
  have hq := List.mem_range.1 hq
  rw [show min 8 (8 * c - 8 * q) = 8 by omega]

theorem mContainer_dvd (c : Nat) : mContainer c ∣ 64 := by
  unfold mContainer
  split <;> decide

theorem mop_k_mul (mms : Bool) (fmt bd : W64) : ∃ c, (mop mms fmt bd).k = 8 * c := by
  refine ⟨(if mms then 128 else 64) / mContainer (mop mms fmt bd).af, ?_⟩
  have hd := mContainer_dvd (mop mms fmt bd).af
  cases mms
  · exact Nat.mul_div_assoc 8 hd
  · exact Nat.mul_div_assoc 8 (hd.trans (by decide : 64 ∣ 128))

/-! ## Sums of integers -/

/-- The integer product of element j. -/
def intProduct (p : MElem × Option MElem) : Int := match p.2 with | some e => p.1.i * e.i | none => 0

theorem isum_eq (ps : List (MElem × Option MElem)) : isum ps = (ps.map intProduct).sum := by
  have hstep : isum ps = ps.foldl (fun z p => z + intProduct p) 0 := by
    unfold isum intProduct
    congr 1
    funext z p
    cases p.2 <;> simp
  rw [hstep, ← List.foldl_map (f := intProduct) (g := (· + ·)), List.sum_eq_foldl]

/-- A sum of full chunks, chunk by chunk. -/
theorem sum_chunks (p : Nat → Int) (m c : Nat) :
    ((List.range (m * c)).map p).sum = ((List.range c).map fun q => ((List.range m).map fun i => p (m * q + i)).sum).sum := by
  induction c with
  | zero => simp
  | succ c ih => rw [Nat.mul_succ, List.range_add, List.map_append, List.sum_append, ih, List.range_succ]; simp; rfl

theorem ofInt_sext (c : Nat) : BitVec.ofInt 32 (sext 32 c) = BitVec.ofNat 32 c := by
  have h : sext 32 c = sext 32 (BitVec.ofNat 32 c).toNat := by simp [sext]
  rw [h, sext_toNat _ (by norm_num), BitVec.ofInt_toInt]

/-- I32 accumulation without SAT is addition modulo 2³² (R61). -/
theorem ofNat_iaccum (c : Nat) (v : Int) : BitVec.ofNat 32 (iaccum false c v) = BitVec.ofNat 32 c + BitVec.ofInt 32 v := by
  rw [iaccum, ofNat_iwrap]
  simp only [Bool.false_eq_true, if_false]
  rw [BitVec.ofInt_add, ofInt_sext]

/-- With SAT it is clamped (R61). -/
theorem toInt_iaccum_sat (c : Nat) (v : Int) :
    (BitVec.ofNat 32 (iaccum true c v)).toInt = max (-2 ^ 31) (min (2 ^ 31 - 1) ((BitVec.ofNat 32 c).toInt + v)) := by
  have h : sext 32 c = sext 32 (BitVec.ofNat 32 c).toNat := by simp [sext]
  have hc : (BitVec.ofNat 32 c).toInt = sext 32 c := by rw [h, sext_toNat _ (by norm_num)]
  rw [iaccum, if_pos rfl, ofNat_iwrap, BitVec.toInt_ofInt_eq_self (by norm_num), hc]
  · push_cast; rfl
  · push_cast; omega
  · push_cast; omega

/-- Without SAT the steps together add their sum modulo 2³². -/
theorem ofNat_stepped_iaccum (S : Nat → Int) (c0 m : Nat) :
    BitVec.ofNat 32 (stepped (fun q v => iaccum false v (S q)) c0 m) = BitVec.ofInt 32 (c0 + ((List.range m).map S).sum) := by
  induction m with
  | zero => simp [stepped]
  | succ m ih =>
    rw [stepped, ofNat_iaccum, ih, ← BitVec.ofInt_add, List.range_succ, List.map_append, List.sum_append]
    simp [add_assoc]

/-! ## Accumulation in F32 gives a code of 32 bits -/

theorem fsign_fF32_le (neg : Bool) : fsign fF32 neg ≤ 2 ^ 31 := by cases neg <;> decide

/-- A magnitude that fits, the largest one or infinity, with its sign. -/
theorem signedCode_lt {sign mag largest inf : Nat} {fits clamps overflows : Prop} [Decidable fits] [Decidable clamps] [Decidable overflows]
    {fl ofl : BitVec 5} (hs : sign ≤ 2 ^ 31) (hl : largest < 2 ^ 31) (hi : inf < 2 ^ 31) :
    (if mag ≤ largest ∧ fits then (sign + mag, fl) else if clamps then (sign + largest, ofl)
      else (sign + (if overflows then inf else largest), ofl)).1 < 2 ^ 32 := by
  split
  · rename_i h
    show sign + mag < _
    omega
  split
  · show sign + largest < _
    omega
  · show sign + (if overflows then inf else largest) < _
    split <;> omega

theorem fround_fF32_lt (rm : Nat) (sat neg : Bool) (m : Nat) (e : Int) : (fround fF32 rm sat neg m e).1 < 2 ^ 32 := by
  unfold fround
  split
  · exact lt_of_le_of_lt (fsign_fF32_le neg) (by decide)
  · have hsigned : ¬(!fF32.signed && neg) = true := by simp [fF32]
    simp only [if_neg hsigned]
    exact signedCode_lt (fsign_fF32_le neg) (by decide) (by decide)

theorem fconv_fF32_lt (rm : Nat) (v : FVal) : (fconv fF32 rm false v).1 < 2 ^ 32 := by
  cases v with
  | nan sig => exact (by decide : fnan fF32 < 2 ^ 32)
  | inf neg => exact lt_of_le_of_lt (Nat.add_le_add_right (fsign_fF32_le neg) _) (by decide)
  | fin neg m e =>
    rw [fconv, if_neg (by simp [fF32])]
    exact fround_fF32_lt ..

theorem maccum_fF32_lt (rm c : Nat) (v : FVal) : maccum fF32 rm c v < 2 ^ 32 := by
  unfold maccum
  split
  · split
    · split
      · exact lt_of_le_of_lt (fsign_fF32_le _) (by decide)
      · exact fconv_fF32_lt ..
    · exact fconv_fF32_lt ..
  · exact fconv_fF32_lt ..

/-! ## The accumulator of a column, by number format (R61) -/

section
variable (rm : Nat) (sat scaled : Bool) (scales : List FVal) (c0 : Nat) (a : Nat → MElem) (b : Nat → Option MElem)

theorem matrixElem_int (c : Nat) : matrixElem 0x0C rm sat scaled scales c0 ((List.range (8 * c)).map fun j => (a j, b j))
    = stepped (fun q v => iaccum sat v (((List.range 8).map fun i => intProduct (a (8 * q + i), b (8 * q + i))).sum)) c0 c := by
  rw [matrixElem, if_neg (by decide), if_neg (by decide), if_pos rfl, piecesOf_eight, foldl_range_eq_stepped]
  simp only [isum_eq, List.map_map, Function.comp_def]

theorem matrixElem_float (c : Nat) : matrixElem 0x01 rm sat false scales c0 ((List.range (8 * c)).map fun j => (a j, b j))
    = stepped (fun q v => maccum fF32 rm v (chunkSum ((List.range 8).flatMap fun i => [mprod (a (8 * q + i), b (8 * q + i))]))) c0 c := by
  rw [matrixElem, if_neg (by decide), if_neg (by decide), if_neg (by decide), if_neg (by decide), piecesOf_eight, foldl_range_eq_stepped]
  simp only [List.map_map, Function.comp_def, ← List.map_eq_flatMap]

theorem matrixElem_scaled (scale : Nat → FVal) (k : Nat) : matrixElem 0x01 rm sat true ((List.range ((k + 31) / 32)).map scale) c0
      ((List.range k).map fun j => (a j, b j))
    = stepped (fun q v => maccum fF32 rm v (fmulV (scale q)
        (MElem.int ((List.range (min 32 (k - 32 * q))).map fun i => intProduct (a (32 * q + i), b (32 * q + i))).sum).f).1)
      c0 ((k + 31) / 32) := by
  rw [matrixElem, if_neg (by decide), if_neg (by decide), if_neg (by decide), if_pos rfl, piecesOf_range,
    Nat.add_sub_assoc (by decide), List.zip_map', foldl_range_eq_stepped]
  simp only [isum_eq, List.map_map, Function.comp_def]

theorem matrixElem_double (k : Nat) : matrixElem 0x00 rm sat scaled scales c0 ((List.range k).map fun j => (a j, b j))
    = stepped (fun j v => maccum fF64 rm v (mprod (a j, b j))) c0 k := by
  rw [matrixElem, if_pos rfl, foldl_range_eq_stepped]

/-- The two parts of a complex accumulator are reached apart, each being a code of 32 bits (R50). -/
theorem matrixElem_complex (c : Nat) :
    let v := matrixElem 0x1F rm sat scaled scales c0 ((List.range (8 * c)).map fun j => (a j, b j))
    let chunk (terms : MElem × Option MElem → List FVal) (q : Nat) : FVal :=
      chunkSum ((List.range 8).flatMap fun i => terms (a (8 * q + i), b (8 * q + i)))
    v % 2 ^ 32 = stepped (fun q v => maccum fF32 rm v (chunk realTerms q)) (c0 % 2 ^ 32) c
      ∧ v / 2 ^ 32 = stepped (fun q v => maccum fF32 rm v (chunk imagTerms q)) (c0 / 2 ^ 32) c := by
  dsimp only
  rw [matrixElem, if_neg (by decide), if_pos rfl, piecesOf_eight, foldl_range_eq_stepped]
  simp only [List.flatMap_map]
  induction c with
  | zero => exact ⟨rfl, rfl⟩
  | succ c ih =>
    obtain ⟨hre, him⟩ := ih
    simp only [stepped]
    rw [← hre, ← him, Nat.add_mul_mod_self_left, Nat.mod_eq_of_lt (maccum_fF32_lt ..), Nat.add_mul_div_left _ _ (by norm_num),
      Nat.div_eq_of_lt (maccum_fF32_lt ..), Nat.zero_add]
    exact ⟨rfl, rfl⟩

end

end Sys2Proof.Machine
end

section
/-! PROOFS. Matrix operations consume their operands and write their results (R225 to R227, R231, R236): MatrixWork. -/

namespace Sys2Proof.Machine

/-! ## Nothing that an operation reads fails its check (R371, R374) -/

section
variable {s : State} (hb : s.bad = [])
include hb

theorem State.matrixBad_of_good (o : MOp) (core part : Nat) (bd : W64) (tile : Nat) : s.matrixBad o core part bd tile = none := by
  have htable (arr off n : Nat) : s.tableBad core part arr off n = none := by simp [State.tableBad, hb]
  simp only [State.matrixBad, htable, ite_self, Option.orElse_eq_or, Option.or_self]
  split
  · simp
  · split <;> simp

theorem State.quarterBad_of_good {t : Team} (hl : t.lost = []) (f : Flight) (o : MOp) (q : Nat) : s.quarterBad f o t none q = none := by
  have hspad (off : Nat) : s.spadBad t off 1 = none := by simp [State.spadBad, State.spadWordBad, hb, hl]
  simp only [State.quarterBad, hspad, Option.map_none]
  split <;> simp

end

/-! ## Barriers and pacer of a team that no access moves on (R109, R276) -/

theorem State.team?_modTeam_some {s : State} {r : Nat} {f : Team → Team} {t : Team} (ht : s.team? r = some t)
    (hf : ∀ t, (f t).ref = t.ref) : (s.modTeam r f).team? r = some (f t) := by
  rw [State.team?_modTeam _ _ _ hf, ht, Option.map_some]

/-- A team's barriers, looked at again. -/
def Team.settleBars (gs : List Group) (t : Team) : Team := { t with bars := t.bars.map fun (n, b) => (n, b.settle gs) }

/-- Where the team's step is not finished, its pacer keeps at most who has arrived (R276). -/
theorem State.settlePacer_of_stays {s : State} {team : Nat} {t : Team} (ht : s.team? team = some t)
    (hp : ∀ p, t.pacer = some p → (p.settle (s.groupsOf team)).2 = false) :
    ∃ q : Option Pacer → Option Pacer, s.settlePacer team = s.modTeam team fun t => { t with pacer := q t.pacer } := by
  cases hpacer : t.pacer with
  | none => exact ⟨id, by simp [State.settlePacer, ht, hpacer, State.modTeam]⟩
  | some p => exact ⟨fun _ => some (p.settle (s.groupsOf team)).1, by simp [State.settlePacer, ht, hpacer, hp p hpacer]⟩

theorem State.settleTeam_aside {s : State} {t : Team} (ht : s.team? t.ref = some t) (hp : PacerStays s t) :
    (s.settleTeam t.ref).groups = s.groups ∧ TeamAside s (s.settleTeam t.ref) t ∧ { s.settleTeam t.ref with teams := s.teams } = s := by
  have hbars : (s.modTeam t.ref (Team.settleBars (s.groupsOf t.ref))).team? t.ref = some (t.settleBars (s.groupsOf t.ref)) :=
    State.team?_modTeam_some ht fun _ => rfl
  obtain ⟨q, hq⟩ := State.settlePacer_of_stays hbars hp
  have hsettle : s.settleTeam t.ref = (s.modTeam t.ref (Team.settleBars (s.groupsOf t.ref))).modTeam t.ref
    fun t => { t with pacer := q t.pacer } := hq
  rw [hsettle]
  exact ⟨rfl, ⟨⟨_, State.team?_modTeam_some hbars fun _ => rfl, rfl⟩, fun r hr =>
    Eq.trans (State.team?_modTeam_ne _ _ (fun _ => rfl) hr) (State.team?_modTeam_ne _ _ (fun _ => rfl) hr)⟩, rfl⟩

theorem Pacer.settle_map (p : Pacer) (gs : List Group) {f : Group → Group}
    (hf : ∀ g, (f g).run = g.run ∧ (f g).gix = g.gix ∧ (f g).qsets = g.qsets) : p.settle (gs.map f) = p.settle gs := by
  have harrive (p : Pacer) (g : Group) : p.arriveGroup (f g) = p.arriveGroup g := by
    obtain ⟨hrun, hgix, hq⟩ := hf g
    unfold Pacer.arriveGroup Group.running
    exact if_congr (by rw [hrun, hgix, hq]) rfl (by rw [hgix])
  have hrun (g : Group) : (f g).run = g.run := (hf g).1
  have hgix (g : Group) : (f g).gix = g.gix := (hf g).2.1
  simp only [Pacer.settle, List.foldl_map, List.all_map, Function.comp_def, harrive, hrun, hgix]

/-! ## The words that are formed -/

/-- Words written for lane l, word j under 64·j + l. -/
def writeWords (l : Nat) (ws : List W32) (r : Tbl W32) : Tbl W32 := ws.zipIdx.foldl (fun r e => tset 0 r (64 * e.2 + l) e.1) r

theorem tget_writeWords {l n : Nat} (hl : l < 64) (hn : n < 64) (ws : List W32) (r : Tbl W32) (j : Nat) :
    tget 0 (writeWords l ws r) (64 * j + n) = if n = l ∧ j < ws.length then ws.getD j 0 else tget 0 r (64 * j + n) := by
  induction ws using List.reverseRecOn with
  | nil => simp [writeWords]
  | append_singleton ws w ih =>
    have hstep : writeWords l (ws ++ [w]) r = tset 0 (writeWords l ws r) (64 * ws.length + l) w := by
      simp [writeWords, List.zipIdx_append]
    rw [hstep, tget_tset, ih]
    simp only [lane_key hn hl, List.length_append, List.length_singleton]
    by_cases hj : j = ws.length
    · by_cases hnl : n = l <;> simp [hj, hnl]
    · have hlt : j < ws.length + 1 ↔ j < ws.length := by omega
      by_cases hw : j < ws.length <;> simp [hj, hlt, hw]

/-- The words that an operation forms, for all its lanes. -/
def formed (ls : List Nat) (ws : Nat → List W32) (r : Tbl W32) : Tbl W32 := ls.foldl (fun r l => writeWords l (ws l) r) r

theorem tget_formed {ls : List Nat} (hls : ∀ l ∈ ls, l < 64) (ws : Nat → List W32) (r : Tbl W32) {n j : Nat} (hn : n < 64)
    (hj : j < (ws n).length) : tget 0 (formed ls ws r) (64 * j + n) = if n ∈ ls then (ws n).getD j 0 else tget 0 r (64 * j + n) := by
  induction ls generalizing r with
  | nil => rfl
  | cons l ls ih =>
    obtain ⟨hl, hls⟩ := List.forall_mem_cons.1 hls
    refine (ih hls (writeWords l (ws l) r)).trans ?_
    rw [tget_writeWords hl hn]
    by_cases hnl : n = l
    · subst hnl; simp [hj]
    · simp [hnl]

/-! ## The words of a lane, column by column (R236) -/

/-- Element j of the A row of a lane (R45). -/
def Flight.aElem (f : Flight) (o : MOp) (t : Team) (free l j : Nat) : MElem :=
  mdec o.af (aRow f o t free l / 2 ^ (mContainer o.af * j) % 2 ^ mContainer o.af)

/-- Element (j, n) of B: that of the stored row which the metadata names, none where it is pruned (R225, R227). -/
def MOp.bElemAt (o : MOp) (set : TableSet) (bd : W64) (n j : Nat) : Option MElem :=
  let row (r : Nat) : MElem := bElem o set (bd.extractLsb' 38 12).toNat (tileCode o (o.tile set bd) r n) j n
  let kept : Nat := nibble set.side (bd.extractLsb' 24 14).toNat (j / 4) n
  if o.mms = false then some (row j)
  else if kept.testBit (j % 4) then some (row (2 * (j / 4) + (List.range (j % 4)).countP kept.testBit)) else none

theorem bColumn_eq (o : MOp) (set : TableSet) (bd : W64) (n : Nat) :
    bColumn o set bd (o.tile set bd) n = (List.range o.k).map (o.bElemAt set bd n) := by
  refine List.map_congr_left fun j _ => ?_
  have hzp : bdZpoff bd = (bd.extractLsb' 38 12).toNat := bits_eq ..
  have hsp : bdSpoff bd = (bd.extractLsb' 24 14).toNat := bits_eq ..
  have hones (v k : Nat) : onesBelow v k = (List.range k).countP v.testBit := by
    simp only [onesBelow, ← Nat.testBit_eq_decide_div_mod_eq]
  rw [hzp, hsp, MOp.bElemAt, storedRow]
  cases o.mms
  · rfl
  · simp only [Bool.not_true, Bool.false_eq_true, Bool.true_eq_false, if_false, hones, Nat.testBit_eq_decide_div_mod_eq, decide_eq_true_eq]
    split <;> rfl

/-- The columns of B with their block scales (R226). -/
def MOp.columns (o : MOp) (set : TableSet) (bd : W64) : List (List (Option MElem) × List FVal) :=
  (List.range 16).map fun n => (bColumn o set bd (o.tile set bd) n, blockScales o set bd n)

/-- The accumulator of column n of a lane after the operation (R61, R231). -/
def Flight.accumulated (f : Flight) (o : MOp) (t : Team) (free : Nat) (set : TableSet) (bd : W64) (l n : Nat) : Nat :=
  matrixElem o.cf (f.fmt.extractLsb' 15 2).toNat (f.fmt.getLsbD 17) (f.fmt.getLsbD 18) (blockScales o set bd n) (accOf f o l n)
    ((List.range o.k).map fun j => (f.aElem o t free l j, o.bElemAt set bd n j))

theorem laneResult_eq (f : Flight) (o : MOp) (t : Team) (free : Nat) (set : TableSet) (bd : W64) (l : Nat) :
    laneResult f o t free (o.columns set bd) l = (List.range 16).flatMap fun n =>
      let v := f.accumulated o t free set bd l n
      if o.acc = 16 then [BitVec.ofNat 32 v] else [BitVec.ofNat 32 v, BitVec.ofNat 32 (v / 2 ^ 32)] := by
  have hrm : fmtRm f.fmt = (f.fmt.extractLsb' 15 2).toNat := bits_eq ..
  have hcols : (o.columns set bd).zipIdx = (List.range 16).map fun n => ((bColumn o set bd (o.tile set bd) n, blockScales o set bd n), n) :=
    List.ext_getElem (by simp [MOp.columns]) fun i _ _ => by simp [MOp.columns]
  have hrow : rowElems o (aRow f o t free l) = (List.range o.k).map (f.aElem o t free l) := rfl
  rw [laneResult, hcols, List.flatMap_map]
  simp only [hrow, bColumn_eq, List.zip_map', hrm]
  rfl

/-! ## The words of a column -/

theorem getElem?_flatMap_pair {α : Type} (l : List α) (p q : α → W32) (i : Nat) :
    (l.flatMap fun a => [p a, q a])[2 * i]? = l[i]?.map p ∧ (l.flatMap fun a => [p a, q a])[2 * i + 1]? = l[i]?.map q := by
  induction l generalizing i with
  | nil => simp
  | cons a l ih =>
    cases i with
    | zero => simp
    | succ i => simpa [Nat.mul_succ] using ih i

section
variable {f : Flight} {o : MOp} {t : Team} {free : Nat} {set : TableSet} {bd : W64} {l n : Nat} (hl : l < 64) (hex : bit f.exec l = true)
  (hn : n < 16)
include hl hex hn

/-- A lane's accumulator of one register. -/
theorem tget_formed_single (hacc : o.acc = 16) : tget 0 (formed (bitList f.exec) (laneResult f o t free (o.columns set bd)) []) (64 * n + l)
    = BitVec.ofNat 32 (f.accumulated o t free set bd l n) := by
  have hws : laneResult f o t free (o.columns set bd) l
      = (List.range 16).map fun n => BitVec.ofNat 32 (f.accumulated o t free set bd l n) := by
    rw [laneResult_eq]
    simp only [hacc, if_true, ← List.map_eq_flatMap]
  rw [tget_formed (fun l h => (mem_bitList.1 h).1) _ _ hl (by simp [hws, hn]), if_pos (mem_bitList.2 ⟨hl, hex⟩), hws]
  simp [hn]

/-- A lane's accumulator of two registers, the low word first. -/
theorem tget_formed_pair (hacc : o.acc ≠ 16) :
    tget 0 (formed (bitList f.exec) (laneResult f o t free (o.columns set bd)) []) (64 * (2 * n) + l)
      = BitVec.ofNat 32 (f.accumulated o t free set bd l n)
    ∧ tget 0 (formed (bitList f.exec) (laneResult f o t free (o.columns set bd)) []) (64 * (2 * n + 1) + l)
      = BitVec.ofNat 32 (f.accumulated o t free set bd l n / 2 ^ 32) := by
  have hws : laneResult f o t free (o.columns set bd) l = (List.range 16).flatMap fun n =>
      [BitVec.ofNat 32 (f.accumulated o t free set bd l n), BitVec.ofNat 32 (f.accumulated o t free set bd l n / 2 ^ 32)] := by
    rw [laneResult_eq]
    simp only [hacc, if_false]
  have hlen : (laneResult f o t free (o.columns set bd) l).length = 32 := by simp [hws, List.length_flatMap]
  have hmem : l ∈ bitList f.exec := mem_bitList.2 ⟨hl, hex⟩
  obtain ⟨hlo, hhi⟩ := getElem?_flatMap_pair (List.range 16) (fun n => BitVec.ofNat 32 (f.accumulated o t free set bd l n))
    (fun n => BitVec.ofNat 32 (f.accumulated o t free set bd l n / 2 ^ 32)) n
  constructor
  · rw [tget_formed (fun l h => (mem_bitList.1 h).1) _ _ hl (by omega), if_pos hmem, List.getD_eq_getElem?_getD, hws, hlo]
    simp [hn]
  · rw [tget_formed (fun l h => (mem_bitList.1 h).1) _ _ hl (by omega), if_pos hmem, List.getD_eq_getElem?_getD, hws, hhi]
    simp [hn]

end

/-! ## MATRIX_OPERANDS_CONSUMED (R231) -/

theorem Group.flight?_modFlight {g : Group} {fid : Nat} {f : Flight} (h : g.flight? fid = some f) {m : Flight → Flight}
    (hm : ∀ f, (m f).fid = f.fid) : (g.modFlight fid m).flight? fid = some (m f) :=
  (find?_map_same g.flights Flight.fid m fid fun f hf => (hm f).trans hf).trans (congrArg (Option.map m) h)

theorem Group.modFlight_fids (g : Group) (fid : Nat) {m : Flight → Flight} (hm : ∀ f, (m f).fid = f.fid) :
    (g.modFlight fid m).flights.map (·.fid) = g.flights.map (·.fid) := by
  refine (List.map_map ..).trans (List.map_congr_left fun f _ => ?_)
  by_cases hf : f.fid = fid <;> simp [hf, hm]

/-- A group one of whose operations has consumed its operands: what it forms is kept with it, and %opc counts it (R231). -/
def Group.consumed (g : Group) (fid : Nat) (out : Tbl W32) : Group :=
  { g.modFlight fid (fun f => { f with consumed := true, snap := out }) with regs := { g.regs with opc := g.regs.opc + 1 } }

/-- What an instruction in flight is found with. -/
theorem State.flightAt_some {s : State} {grp fid : Nat} {g : Group} {f : Flight} {t : Team} {l : Launch}
    (h : s.flightAt grp fid = some (g, f, t, l)) : s.group? grp = some g ∧ g.flight? fid = some f ∧ s.team? g.team = some t := by
  unfold State.flightAt State.flight? at h
  cases hg : s.group? grp with
  | none => simp [hg] at h
  | some k =>
    cases hf : k.flight? fid with
    | none => simp [hg, hf] at h
    | some e =>
      cases hh : s.homeOf k with
      | none => simp [hg, hf, hh] at h
      | some home =>
        obtain ⟨u, m⟩ := home
        simp only [hg, hf, hh, Option.map_some] at h
        split at h
        · cases h
        · cases h
          exact ⟨rfl, hf, (State.homeOf_some hh).1⟩

/-- With no word that fails its check, the event forms the results, counts in %opc, and looks at the team's barriers and pacer again. -/
theorem bodyConsume_eq {s : State} {grp fid : Nat} {g : Group} {f : Flight} {t : Team} {l : Launch}
    (h : s.flightAt grp fid = some (g, f, t, l)) (hb : s.bad = []) (hl : t.lost = []) :
    let bd := f.opnds.headD 0
    let o := mop (isMms f.instr) f.fmt bd
    let ws := laneResult f o t s.free (o.columns (t.tableSet g.part) bd)
    bodyConsume grp fid s
      = ({ s with free := s.free + 1 }.modGroup grp fun g => g.consumed fid (formed (bitList f.exec) ws [])).settleTeam g.team := by
  simp only [bodyConsume, h, State.matrixBad_of_good hb, State.quarterBad_of_good hb hl, Option.map_none, List.filterMap_none,
    List.any_nil, Bool.false_eq_true, if_false, List.foldl_nil]
  rfl

/-- A change of a group that keeps its team, its index, whether it runs and its quad-sets finishes no step (R276). -/
theorem PacerStays.modGroup {s : State} {t : Team} (hp : PacerStays s t) (r : Nat) {f : Group → Group}
    (hf : ∀ g, (f g).team = g.team ∧ (f g).run = g.run ∧ (f g).gix = g.gix ∧ (f g).qsets = g.qsets) : PacerStays (s.modGroup r f) t := by
  intro p hpt
  have hgroups : (s.modGroup r f).groupsOf t.ref = (s.groupsOf t.ref).map fun g => if g.ref = r then f g else g := by
    refine List.filter_map.trans (congrArg _ (List.filter_congr fun g _ => ?_))
    by_cases hg : g.ref = r <;> simp [hg, (hf g).1]
  rw [hgroups, Pacer.settle_map]
  · exact hp p hpt
  · intro g
    split
    · exact (hf g).2
    · exact ⟨rfl, rfl, rfl⟩

/-- The event, on a team no step of which it finishes. -/
theorem consume_completes {s : State} {g : Group} {f : Flight} {t : Team} {l : Launch} (h : s.flightAt g.ref f.fid = some (g, f, t, l))
    (hdue : consumeDue s g.ref f.fid = true) (hb : s.bad = []) (hl : t.lost = []) (hp : PacerStays s t) :
    let bd := f.opnds.headD 0
    let o := mop (isMms f.instr) f.fmt bd
    let e : Flight := { f with
      consumed := true, snap := formed (bitList f.exec) (laneResult f o t s.free (o.columns (t.tableSet g.part) bd)) [] }
    ∃ u k, exec (.matrixOperandsConsumed g.ref f.fid) s = .next u ∧ u.group? g.ref = some k ∧ k.flight? f.fid = some e
      ∧ k.regs = { g.regs with opc := g.regs.opc + 1 } ∧ k.qsets = g.qsets ∧ k.flights.map (·.fid) = g.flights.map (·.fid)
      ∧ (∀ r, r ≠ g.ref → u.group? r = s.group? r) ∧ TeamAside s u t
      ∧ { u with groups := s.groups, teams := s.teams, free := s.free } = s := by
  intro bd o e
  obtain ⟨hg, hf, ht⟩ := State.flightAt_some h
  have htr : t.ref = g.team := State.ref_of_team? ht
  have hp1 : PacerStays ({ s with free := s.free + 1 }.modGroup g.ref fun k => k.consumed f.fid e.snap) t :=
    PacerStays.modGroup (s := { s with free := s.free + 1 }) hp g.ref fun _ => ⟨rfl, rfl, rfl, rfl⟩
  obtain ⟨hsame, haside, hrest⟩ := State.settleTeam_aside (htr ▸ ht) hp1
  have hrun : exec (.matrixOperandsConsumed g.ref f.fid) s
      = .next (({ s with free := s.free + 1 }.modGroup g.ref fun k => k.consumed f.fid e.snap).settleTeam t.ref) := by
    show event (consumeDue s g.ref f.fid) (bodyConsume g.ref f.fid s) s = _
    rw [htr, bodyConsume_eq h hb hl, event, if_pos hdue]
  have hgroup (r : Nat) : (({ s with free := s.free + 1 }.modGroup g.ref fun k => k.consumed f.fid e.snap).settleTeam t.ref).group? r
      = ({ s with free := s.free + 1 }.modGroup g.ref fun k => k.consumed f.fid e.snap).group? r := by
    unfold State.group?
    rw [hsame]
  refine ⟨_, g.consumed f.fid e.snap, hrun, (hgroup _).trans (State.group?_modGroup_some hg fun _ => rfl),
    Group.flight?_modFlight hf fun _ => rfl, rfl, rfl, Group.modFlight_fids _ _ fun _ => rfl,
    fun r hr => (hgroup r).trans (State.group?_modGroup_ne _ _ (fun _ => rfl) hr), haside,
    congrArg (fun v : State => { v with groups := s.groups, free := s.free }) hrest⟩

/-! ## MATRIX_RESULT_WRITTEN (R10, R231, R236) -/

theorem resultLand_lands (f : Flight) (g : Group) : Lands g (resultLand f g) := .foldl (fun g l => g.landWords_lands f 0 l _) _ g

theorem lane_resultLand {f : Flight} {g : Group} (h : f.inLanes g) (r : Nat) {n : Nat} (hn : n < 64) :
    (resultLand f g).lane r n = if bit f.exec n = true ∧ bit g.regs.dead n = false ∧ f.dst ≤ r ∧ r < f.dst + f.ndst
      then tget 0 f.snap (64 * (r - f.dst) + n) else g.lane r n := by
  have hfold := foldl_lane (f := f) (as := bitList f.exec) (lane := id) (w := fun l i => tget 0 f.snap (64 * i + l)) (j := n)
    (step := fun g l => g.landWords f 0 l ((List.range f.ndst).map fun j => tget 0 f.snap (64 * j + l)))
    (fun g l => g.landWords_lands f 0 l _) (by rw [List.map_id]; exact bitList_nodup _)
    (fun g l hl hg r => Group.lane_landWords hg _ (mem_bitList.1 hl).1 hn) h r
  rw [resultLand, hfold]
  cases hfind : (bitList f.exec).find? fun l => id l = n with
  | none =>
    have hex : ¬bit f.exec n = true := fun hex => List.find?_eq_none.1 hfind n (mem_bitList.2 ⟨hn, hex⟩) (decide_eq_true rfl)
    simp [hex]
  | some l =>
    have hex := (mem_bitList.1 (List.mem_of_find?_eq_some hfind)).2
    obtain rfl : l = n := by simpa using List.find?_some hfind
    simp [hex, and_comm, and_assoc]

theorem resultLand_regs {f : Flight} {g : Group} (h : f.inLanes g) :
    (resultLand f g).regs = { g.regs with lanes := (resultLand f g).regs.lanes } := by
  have key : (resultLand f g).regs = { g.regs with lanes := (resultLand f g).regs.lanes } ∧ f.inLanes (resultLand f g) := by
    refine List.foldlRecOn (motive := fun k : Group => k.regs = { g.regs with lanes := k.regs.lanes } ∧ f.inLanes k) _ _ ⟨rfl, h⟩
      fun k ⟨hk, hin⟩ l _ => ⟨?_, Flight.inLanes_of_lands hin (k.landWords_lands ..)⟩
    rw [Group.landWords_regs hin, hk]
  exact key.1

theorem result_completes {s : State} {g : Group} {f : Flight} (hg : s.group? g.ref = some g) (hf : g.flight? f.fid = some f)
    (hm : isMatrixOp f.instr = true) (hc : f.consumed = true) (hbefore : ∀ e ∈ g.before f.fid, isMatrixOp e.instr = false)
    (hb : ∀ b ∈ g.busy, b.fid = f.fid → b.hit = 0) (hin : f.inLanes g) :
    ∃ u k, exec (.matrixResultWritten g.ref f.fid) s = .next u ∧ u.group? g.ref = some k ∧ Gone g k f ∧ k.qsets = g.qsets
      ∧ (∀ r n, n < 64 → k.lane r n = if bit f.exec n = true ∧ bit g.regs.dead n = false ∧ f.dst ≤ r ∧ r < f.dst + f.ndst
        then tget 0 f.snap (64 * (r - f.dst) + n) else g.lane r n)
      ∧ { k.regs with lanes := g.regs.lanes } = g.regs
      ∧ (∀ r, r ≠ g.ref → u.group? r = s.group? r) ∧ { u with groups := s.groups, free := s.free } = s := by
  have hfl : s.flight? g.ref f.fid = some (g, f) := by simp [State.flight?, hg, hf]
  have hdue : resultDue s g.ref f.fid = true := by
    simp only [resultDue, hfl, hm, hc, Bool.and_self, Bool.true_and, List.all_eq_true]
    exact fun e he => by simp [hbefore e he]
  have hrun : exec (.matrixResultWritten g.ref f.fid) s = .next (s.complete g.ref f.fid (resultLand f)) := by
    show execMatrixResultWritten g.ref f.fid s = _
    simp only [execMatrixResultWritten, hfl, event, hdue, if_true]
  obtain ⟨k, hk, hgone, hq, hregs, hothers, hrest⟩ := State.complete_lands (f := f) hg (resultLand_lands f) hb
  refine ⟨_, k, hrun, hk, hgone, hq, fun r n hn => ?_, by rw [hregs, resultLand_regs hin], hothers, hrest⟩
  rw [Group.lane, hregs, ← Group.lane, lane_resultLand hin r hn]

/-! ## The sums, by number format (R61) -/

theorem mop_acc (mms : Bool) (fmt bd : W64) :
    (mop mms fmt bd).acc = if (mop mms fmt bd).cf = 0x00 ∨ (mop mms fmt bd).cf = 0x1F then 32 else 16 := rfl

section
variable {f : Flight} {o : MOp} {t : Team} {free : Nat} {set : TableSet} {bd : W64} {l n c : Nat} (hk : o.k = 8 * c)
include hk

theorem accumulated_int (hcf : o.cf = 0x0C) : f.accumulated o t free set bd l n
    = stepped (fun q v => iaccum (f.fmt.getLsbD 17) v
        (((List.range 8).map fun i => intProduct (f.aElem o t free l (8 * q + i), o.bElemAt set bd n (8 * q + i))).sum))
      (accOf f o l n) (o.k / 8) := by
  rw [Flight.accumulated, hcf, hk, matrixElem_int, Nat.mul_div_cancel_left c (by decide)]

/-- Over integers without SAT the chunks together are the sum modulo 2³². -/
theorem accumulated_wraps (hcf : o.cf = 0x0C) (hs : f.fmt.getLsbD 17 = false) : BitVec.ofNat 32 (f.accumulated o t free set bd l n)
    = BitVec.ofInt 32 ((accOf f o l n : Int)
      + ((List.range o.k).map fun i => intProduct (f.aElem o t free l (0 + i), o.bElemAt set bd n (0 + i))).sum) := by
  rw [accumulated_int hk hcf, hs, ofNat_stepped_iaccum, hk, Nat.mul_div_cancel_left c (by decide)]
  simp only [Nat.zero_add]
  rw [sum_chunks]

/-- With SAT each chunk clamps the sum so far. -/
theorem accumulated_clamps (hcf : o.cf = 0x0C) (hs : f.fmt.getLsbD 17 = true) :
    ∃ c : Nat → Int, c 0 = (BitVec.ofNat 32 (accOf f o l n)).toInt
      ∧ (∀ q, c (q + 1) = max (-2 ^ 31) (min (2 ^ 31 - 1) (c q
          + ((List.range 8).map fun i => intProduct (f.aElem o t free l (8 * q + i), o.bElemAt set bd n (8 * q + i))).sum)))
      ∧ BitVec.ofNat 32 (f.accumulated o t free set bd l n) = BitVec.ofInt 32 (c (o.k / 8)) := by
  rw [accumulated_int hk hcf, hs]
  exact ⟨fun q => (BitVec.ofNat 32 (stepped (fun q v => iaccum true v
      (((List.range 8).map fun i => intProduct (f.aElem o t free l (8 * q + i), o.bElemAt set bd n (8 * q + i))).sum))
      (accOf f o l n) q)).toInt, rfl, fun _ => toInt_iaccum_sat _ _, BitVec.ofInt_toInt.symm⟩

theorem accumulated_float (hcf : o.cf = 0x01) (hs : f.fmt.getLsbD 18 = false) : f.accumulated o t free set bd l n
    = stepped (fun q v => maccum fF32 (f.fmt.extractLsb' 15 2).toNat v (chunkSum ((List.range 8).flatMap fun i =>
        [mprod (f.aElem o t free l (8 * q + i), o.bElemAt set bd n (8 * q + i))]))) (accOf f o l n) (o.k / 8) := by
  rw [Flight.accumulated, hcf, hs, hk, matrixElem_float, Nat.mul_div_cancel_left c (by decide)]

omit hk in
theorem accumulated_scaled (hcf : o.cf = 0x01) (hs : f.fmt.getLsbD 18 = true) : f.accumulated o t free set bd l n
    = stepped (fun q v => maccum fF32 (f.fmt.extractLsb' 15 2).toNat v
        (fmulV (fdec fBF16 (leNat (set.zero.read (4 * ((bd.extractLsb' 38 12).toNat + 16 * q + n) + 2) 2)))
          (MElem.int ((List.range (min 32 (o.k - 32 * q))).map fun i =>
            intProduct (f.aElem o t free l (32 * q + i), o.bElemAt set bd n (32 * q + i))).sum).f).1)
      (accOf f o l n) ((o.k + 31) / 32) := by
  have hzp : bdZpoff bd = (bd.extractLsb' 38 12).toNat := bits_eq ..
  rw [Flight.accumulated, hcf, hs, blockScales, hzp]
  exact matrixElem_scaled ..

omit hk in
theorem accumulated_double (hcf : o.cf = 0x00) : f.accumulated o t free set bd l n
    = stepped (fun j v => maccum fF64 (f.fmt.extractLsb' 15 2).toNat v (mprod (f.aElem o t free l j, o.bElemAt set bd n j)))
      (accOf f o l n) o.k := by
  rw [Flight.accumulated, hcf, matrixElem_double]

theorem accumulated_complex (hcf : o.cf = 0x1F) :
    let chunk (terms : MElem × Option MElem → List FVal) (q : Nat) : FVal :=
      chunkSum ((List.range 8).flatMap fun i => terms (f.aElem o t free l (8 * q + i), o.bElemAt set bd n (8 * q + i)))
    f.accumulated o t free set bd l n % 2 ^ 32
        = stepped (fun q v => maccum fF32 (f.fmt.extractLsb' 15 2).toNat v (chunk realTerms q)) (accOf f o l n % 2 ^ 32) (o.k / 8)
      ∧ f.accumulated o t free set bd l n / 2 ^ 32
        = stepped (fun q v => maccum fF32 (f.fmt.extractLsb' 15 2).toNat v (chunk imagTerms q)) (accOf f o l n / 2 ^ 32) (o.k / 8) := by
  dsimp only
  rw [Flight.accumulated, hcf, hk, Nat.mul_div_cancel_left c (by decide)]
  exact matrixElem_complex ..

end

theorem ofNat_mod_word (v : Nat) : BitVec.ofNat 32 (v % 2 ^ 32) = BitVec.ofNat 32 v := by
  apply BitVec.eq_of_toNat_eq
  simp

/-- Settles O38: what the two events of a matrix operation leave, and what each column of a lane's accumulator is. -/
theorem matrixWork : Obligations.MatrixWork := by
  refine ⟨fun s g f t l h hdue hb hl hp => ?_, fun s g f hg hf hm hc hbefore hb hin => result_completes hg hf hm hc hbefore hb hin⟩
  obtain ⟨u, k, hrun, hk, hf, hregs, hq, hfids, hothers, haside, hrest⟩ := consume_completes h hdue hb hl hp
  refine ⟨u, k, _, hrun, hk, hf, rfl, rfl, hregs, hq, hfids, hothers, haside, hrest, fun lane n hlane hex hn => ?_⟩
  obtain ⟨c, hc⟩ := mop_k_mul (isMms f.instr) f.fmt (f.opnds.headD 0)
  have hsingle (h0 h1) := tget_formed_single (t := t) (free := s.free) (set := t.tableSet g.part) (bd := f.opnds.headD 0) hlane hex hn
    ((mop_acc (isMms f.instr) f.fmt (f.opnds.headD 0)).trans (if_neg (not_or.2 ⟨h0, h1⟩)))
  have hpair (h01) := tget_formed_pair (t := t) (free := s.free) (set := t.tableSet g.part) (bd := f.opnds.headD 0) hlane hex hn
    (by rw [mop_acc (isMms f.instr) f.fmt (f.opnds.headD 0), if_pos h01]; decide)
  refine ⟨fun hcf hs => ?_, fun hcf hs => ?_, fun hcf hs => ?_, fun hcf hs => ?_, fun hcf => ?_, fun hcf => ?_⟩
  · exact (hsingle (by rw [hcf]; decide) (by rw [hcf]; decide)).trans (accumulated_wraps hc hcf hs)
  · have hword := hsingle (by rw [hcf]; decide) (by rw [hcf]; decide)
    obtain ⟨sums, hfirst, hnext, hlast⟩ := accumulated_clamps (t := t) (free := s.free) (set := t.tableSet g.part)
      (bd := f.opnds.headD 0) (l := lane) (n := n) hc hcf hs
    exact ⟨sums, hfirst, fun q _ => hnext q, hword.trans hlast⟩
  · have hword := hsingle (by rw [hcf]; decide) (by rw [hcf]; decide)
    rw [accumulated_float hc hcf hs] at hword
    exact ⟨stepped _ _, ⟨rfl, fun _ _ => rfl⟩, hword⟩
  · have hword := hsingle (by rw [hcf]; decide) (by rw [hcf]; decide)
    rw [accumulated_scaled hcf hs] at hword
    exact ⟨stepped _ _, ⟨rfl, fun _ _ => rfl⟩, hword⟩
  · obtain ⟨hlo, hhi⟩ := hpair (.inl hcf)
    rw [accumulated_double hcf] at hlo hhi
    exact ⟨stepped _ _, ⟨rfl, fun _ _ => rfl⟩, hlo, hhi⟩
  · obtain ⟨hlo, hhi⟩ := hpair (.inr hcf)
    obtain ⟨hre, him⟩ := accumulated_complex (f := f) (t := t) (free := s.free) (set := t.tableSet g.part) (l := lane) (n := n) hc hcf
    rw [← ofNat_mod_word, hre] at hlo
    rw [him] at hhi
    exact ⟨stepped _ _, stepped _ _, ⟨rfl, fun _ _ => rfl⟩, ⟨rfl, fun _ _ => rfl⟩, hlo, hhi⟩

end Sys2Proof.Machine
end

section
/-! PROOFS. What the codes of the four lane formats decode to (R46), what an operation makes of a NaN operand (R54, R59, R79, R81), and the
order of two numbers (R55): NanRules. -/

namespace Sys2Proof.Machine

/-! ## The lane formats (R46) -/

/-- A format with sign bit and infinities. -/
structure FFmt.Ieee (f : FFmt) : Prop where
  signed : f.signed = true
  nan : f.nan = .ieee
  eb : 0 < f.eb
  mb : 0 < f.mb

theorem FFmt.ieee_of_lane {f : FFmt} (h : f ∈ [fF32, fF64, fF16, fBF16]) : f.Ieee := by
  simp only [List.mem_cons, List.not_mem_nil, or_false] at h
  rcases h with rfl | rfl | rfl | rfl
  all_goals exact ⟨rfl, rfl, by decide, by decide⟩

/-- A code without its sign bit. -/
def FFmt.magOf (f : FFmt) (c : Nat) : Nat := c % 2 ^ (f.eb + f.mb)

/-- The code of +∞. -/
def FFmt.top (f : FFmt) : Nat := (2 ^ f.eb - 1) * 2 ^ f.mb

/-- The sign bit of a code. -/
def FFmt.neg (f : FFmt) (c : Nat) : Bool := decide (c / 2 ^ (f.eb + f.mb) % 2 = 1)

/-- A signalling NaN: the top bit of its fraction is clear. -/
def FFmt.isSig (f : FFmt) (c : Nat) : Prop := f.isNan c ∧ c / 2 ^ (f.mb - 1) % 2 = 0

/-- The exponent of the last place of a subnormal, below which no code has one. -/
def FFmt.emin (f : FFmt) : Int := 1 - (f.bias : Int) - f.mb

/-- The finite magnitude with code p, as a multiple of 2^emin. -/
def FFmt.units (f : FFmt) (p : Nat) : Nat :=
  if p / 2 ^ f.mb = 0 then p % 2 ^ f.mb else (2 ^ f.mb + p % 2 ^ f.mb) * 2 ^ (p / 2 ^ f.mb - 1)

theorem FFmt.exponent_magOf (f : FFmt) (c : Nat) : f.magOf c / 2 ^ f.mb = c / 2 ^ f.mb % 2 ^ f.eb := by
  rw [FFmt.magOf, Nat.add_comm, pow_add, Nat.mod_mul_right_div_self]

theorem FFmt.fraction_magOf (f : FFmt) (c : Nat) : f.magOf c % 2 ^ f.mb = c % 2 ^ f.mb :=
  Nat.mod_mod_of_dvd c (pow_dvd_pow 2 (Nat.le_add_left ..))

theorem FFmt.magOf_eq_top_iff (f : FFmt) (c : Nat) :
    f.magOf c = f.top ↔ c / 2 ^ f.mb % 2 ^ f.eb = 2 ^ f.eb - 1 ∧ c % 2 ^ f.mb = 0 := by
  rw [← f.exponent_magOf, ← f.fraction_magOf, FFmt.top]
  constructor
  · intro h; rw [h]; exact ⟨Nat.mul_div_cancel _ (Nat.two_pow_pos _), Nat.mul_mod_left ..⟩
  · rintro ⟨he, hf⟩; rw [← he]; exact (Nat.div_mul_cancel (Nat.dvd_of_mod_eq_zero hf)).symm

theorem FFmt.magOf_lt_top {f : FFmt} {c : Nat} (h : c / 2 ^ f.mb % 2 ^ f.eb ≠ 2 ^ f.eb - 1) : f.magOf c < f.top := by
  have hlt : f.magOf c / 2 ^ f.mb < 2 ^ f.eb - 1 := by
    have := Nat.mod_lt (c / 2 ^ f.mb) (Nat.two_pow_pos f.eb)
    rw [f.exponent_magOf]; omega
  exact (Nat.div_lt_iff_lt_mul (Nat.two_pow_pos _)).1 hlt

theorem FFmt.quietBit_clear_iff {f : FFmt} (h : f.Ieee) (c : Nat) : c % 2 ^ f.mb < 2 ^ (f.mb - 1) ↔ c / 2 ^ (f.mb - 1) % 2 = 0 := by
  have hmod : c % 2 ^ f.mb = c % 2 ^ (f.mb - 1) + 2 ^ (f.mb - 1) * (c / 2 ^ (f.mb - 1) % 2) := by
    rw [← Nat.mod_mul, ← pow_succ, Nat.sub_add_cancel h.mb]
  have hlow := Nat.mod_lt c (Nat.two_pow_pos (f.mb - 1))
  rw [hmod]
  rcases Nat.mod_two_eq_zero_or_one (c / 2 ^ (f.mb - 1)) with hb | hb
  · simp [hb, hlow]
  · simp [hb]

/-! ## What a code decodes to -/

/-- The three kinds of codes. -/
inductive FFmt.Decodes (f : FFmt) (c : Nat) : Prop where
  | nan (isNan : f.isNan c) (val : fdec f c = .nan (decide (c / 2 ^ (f.mb - 1) % 2 = 0)))
  | inf (number : ¬f.isNan c) (mag : f.magOf c = f.top) (val : fdec f c = .inf (f.neg c))
  | fin (m : Nat) (e : Int) (number : ¬f.isNan c) (mag : f.magOf c < f.top) (val : fdec f c = .fin (f.neg c) m e)
    (low : f.emin ≤ e) (units : m * 2 ^ (e - f.emin).toNat = f.units (f.magOf c))

theorem FFmt.decodes {f : FFmt} (h : f.Ieee) (c : Nat) : f.Decodes c := by
  have hdec : fdec f c
      = if c / 2 ^ f.mb % 2 ^ f.eb = 2 ^ f.eb - 1 then
          if c % 2 ^ f.mb = 0 then .inf (f.neg c) else .nan (decide (c / 2 ^ (f.mb - 1) % 2 = 0))
        else if c / 2 ^ f.mb % 2 ^ f.eb = 0 then .fin (f.neg c) (c % 2 ^ f.mb) f.emin
        else .fin (f.neg c) (2 ^ f.mb + c % 2 ^ f.mb) ((c / 2 ^ f.mb % 2 ^ f.eb : Nat) - (f.bias : Int) - f.mb) := by
    simp [fdec, h.signed, h.nan, FFmt.neg, FFmt.emin, FFmt.quietBit_clear_iff h]
  by_cases htop : c / 2 ^ f.mb % 2 ^ f.eb = 2 ^ f.eb - 1
  · by_cases hfr : c % 2 ^ f.mb = 0
    · exact .inf (fun hn => hn.2 hfr) ((f.magOf_eq_top_iff c).2 ⟨htop, hfr⟩) (by rw [hdec, if_pos htop, if_pos hfr])
    · exact .nan ⟨htop, hfr⟩ (by rw [hdec, if_pos htop, if_neg hfr])
  · have hlt := FFmt.magOf_lt_top htop
    have hnum : ¬f.isNan c := fun hn => htop hn.1
    by_cases h0 : c / 2 ^ f.mb % 2 ^ f.eb = 0
    · refine .fin _ _ hnum hlt (by rw [hdec, if_neg htop, if_pos h0]) le_rfl ?_
      rw [FFmt.units, f.exponent_magOf, f.fraction_magOf, if_pos h0, sub_self, Int.toNat_zero, pow_zero, Nat.mul_one]
    · refine .fin _ _ hnum hlt (by rw [hdec, if_neg htop, if_neg h0]) (by unfold FFmt.emin; omega) ?_
      rw [FFmt.units, f.exponent_magOf, f.fraction_magOf, if_neg h0]
      congr 2
      unfold FFmt.emin; omega

theorem fdec_of_isNan {f : FFmt} (h : f.Ieee) {c : Nat} (hc : f.isNan c) : ∃ s, fdec f c = .nan s := by
  rcases FFmt.decodes h c with ⟨_, hv⟩ | ⟨hn, _⟩ | ⟨_, _, hn, _⟩
  · exact ⟨_, hv⟩
  · exact absurd hc hn
  · exact absurd hc hn

theorem fdec_ne_nan {f : FFmt} (h : f.Ieee) {c : Nat} (hc : ¬f.isNan c) (s : Bool) : fdec f c ≠ .nan s := by
  rcases FFmt.decodes h c with ⟨hn, _⟩ | ⟨_, _, hv⟩ | ⟨_, _, _, _, hv⟩
  · exact absurd hn hc
  · simp [hv]
  · simp [hv]

theorem fdec_eq_signalling_iff {f : FFmt} (h : f.Ieee) (c : Nat) : fdec f c = .nan true ↔ f.isSig c := by
  unfold FFmt.isSig
  rcases FFmt.decodes h c with ⟨hn, hv⟩ | ⟨hn, _, hv⟩ | ⟨_, _, hn, _, hv⟩
  · simp [hv, hn]
  · simp [hv, hn]
  · simp [hv, hn]

theorem fdec_eq_inf_iff {f : FFmt} (h : f.Ieee) (c : Nat) : (∃ n, fdec f c = .inf n) ↔ f.magOf c = f.top := by
  rcases FFmt.decodes h c with ⟨hn, hv⟩ | ⟨_, hm, hv⟩ | ⟨_, _, _, hm, hv⟩
  · have hne : f.magOf c ≠ f.top := fun e => hn.2 ((f.magOf_eq_top_iff c).1 e).2
    simp [hv, hne]
  · simp [hv, hm]
  · simp [hv, hm.ne]

theorem FFmt.top_pos {f : FFmt} (h : f.Ieee) : 0 < f.top := by
  have := Nat.one_lt_two_pow (Nat.pos_iff_ne_zero.1 h.eb)
  exact Nat.mul_pos (by omega) (Nat.two_pow_pos _)

theorem FFmt.units_eq_zero_iff (f : FFmt) (p : Nat) : f.units p = 0 ↔ p = 0 := by
  have hp := Nat.div_add_mod p (2 ^ f.mb)
  unfold FFmt.units
  split
  · rename_i he
    rw [he, Nat.mul_zero, Nat.zero_add] at hp
    rw [hp]
  · rename_i he
    have hne : p ≠ 0 := by rintro rfl; exact he (Nat.zero_div _)
    simp [hne]

theorem fdec_eq_zero_iff {f : FFmt} (h : f.Ieee) (c : Nat) : (∃ n e, fdec f c = .fin n 0 e) ↔ f.magOf c = 0 := by
  rcases FFmt.decodes h c with ⟨hn, hv⟩ | ⟨_, hm, hv⟩ | ⟨m, e, _, hm, hv, _, hu⟩
  · have hne : f.magOf c ≠ 0 := by
      intro e0
      have := f.fraction_magOf c
      rw [e0, Nat.zero_mod] at this
      exact hn.2 this.symm
    simp [hv, hne]
  · simp [hv, hm, (FFmt.top_pos h).ne']
  · rw [← f.units_eq_zero_iff, ← hu]
    simp [hv]

/-! ## NaN results (R54) -/

/-- Of the flags, NV alone may be raised, and is just when `sig` holds. -/
def RaisesNV (fl : BitVec 5) (sig : Prop) : Prop := (fl = 1 ∨ fl = 0) ∧ (fl = 1 ↔ sig)

theorem RaisesNV.of_true {sig : Prop} (h : sig) : RaisesNV 1 sig := ⟨.inl rfl, by simp [h]⟩
theorem RaisesNV.of_false {sig : Prop} (h : ¬sig) : RaisesNV 0 sig := ⟨.inr rfl, by simp [h]⟩

theorem RaisesNV.iff {fl : BitVec 5} {p q : Prop} (h : RaisesNV fl p) (hpq : p ↔ q) : RaisesNV fl q := ⟨h.1, h.2.trans hpq⟩

theorem RaisesNV.or {a b : BitVec 5} {p q : Prop} (ha : RaisesNV a p) (hb : RaisesNV b q) : RaisesNV (a ||| b) (p ∨ q) := by
  obtain ⟨ha0, hap⟩ := ha
  obtain ⟨hb0, hbq⟩ := hb
  rw [← hap, ← hbq]
  unfold RaisesNV
  rcases ha0 with rfl | rfl <;> rcases hb0 with rfl | rfl <;> decide

theorem raisesNV_nvOf (vs : List FVal) : RaisesNV (nvOf vs) (.nan true ∈ vs) := by
  by_cases h : FVal.nan true ∈ vs
  · have he : nvOf vs = 1 := by simp [nvOf, fNV, h]
    exact he ▸ .of_true h
  · have he : nvOf vs = 0 := by simp [nvOf, h]
    exact he ▸ .of_false h

theorem raisesNV_pair (x y : FVal) : RaisesNV (nvOf [x, y]) (x = .nan true ∨ y = .nan true) :=
  (raisesNV_nvOf [x, y]).iff (by simp [eq_comm])

/-- The default NaN, and NV just when `sig` holds. -/
def DefaultNan (f : FFmt) (sig : Prop) (r : Nat × BitVec 5) : Prop := r.1 = fnan f ∧ RaisesNV r.2 sig

theorem ffinish_nan {f : FFmt} (h : f.Ieee) (rm : Nat) (fl : BitVec 5) : ffinish f rm (.nan false, fl) = (fnan f, fl) := by
  simp [ffinish, fconv, h.nan]

/-- One of two values is a NaN. -/
def EitherNan (x y : FVal) : Prop := (∃ s, x = .nan s) ∨ ∃ s, y = .nan s

theorem faddV_nan {x y : FVal} (h : EitherNan x y) (rm : Nat) : faddV rm x y = (.nan false, nvOf [x, y]) := by
  rcases h with ⟨s, rfl⟩ | ⟨s, rfl⟩
  · rfl
  · cases x <;> rfl

theorem fmulV_nan {x y : FVal} (h : EitherNan x y) : fmulV x y = (.nan false, nvOf [x, y]) := by
  rcases h with ⟨s, rfl⟩ | ⟨s, rfl⟩
  · rfl
  · cases x <;> rfl

theorem fdiv_nan {f : FFmt} {a b : Nat} (h : EitherNan (fdec f a) (fdec f b)) (rm : Nat) :
    fdiv f rm a b = (fnan f, nvOf [fdec f a, fdec f b]) := by
  unfold fdiv
  rcases h with ⟨s, hs⟩ | ⟨s, hs⟩
  · simp only [hs]
  · cases hx : fdec f a <;> simp only [hs]

theorem fneg_eq_nan_iff (v : FVal) (s : Bool) : fneg v = .nan s ↔ v = .nan s := by cases v <;> simp [fneg]

theorem nvOf_fneg (x y : FVal) : nvOf [x, fneg y] = nvOf [x, y] := by simp [nvOf, fneg_eq_nan_iff]

theorem eitherNan_fneg {x y : FVal} (h : EitherNan x y) : EitherNan x (fneg y) := by simpa only [EitherNan, fneg_eq_nan_iff] using h

section
variable {f : FFmt} (hf : f.Ieee)
include hf

theorem eitherNan_fdec {a b : Nat} (h : f.isNan a ∨ f.isNan b) : EitherNan (fdec f a) (fdec f b) := h.imp (fdec_of_isNan hf) (fdec_of_isNan hf)

/-- Sum, difference, product and quotient of a NaN. -/
theorem binary_nan {a b : Nat} (h : f.isNan a ∨ f.isNan b) (rm : Nat) :
    ∀ op ∈ [fadd f rm, fsub f rm, fmul f rm, fdiv f rm], DefaultNan f (f.isSig a ∨ f.isSig b) (op a b) := by
  have hab := eitherNan_fdec hf h
  have heq : ∀ op ∈ [fadd f rm, fsub f rm, fmul f rm, fdiv f rm], op a b = (fnan f, nvOf [fdec f a, fdec f b]) := by
    simp only [List.forall_mem_cons, List.not_mem_nil, false_implies, implies_true, and_true]
    refine ⟨?_, ?_, ?_, fdiv_nan hab rm⟩
    · rw [fadd, faddV_nan hab, ffinish_nan hf]
    · rw [fsub, faddV_nan (eitherNan_fneg hab), ffinish_nan hf, nvOf_fneg]
    · rw [fmul, fmulV_nan hab, ffinish_nan hf]
  intro op hop
  rw [heq op hop, ← fdec_eq_signalling_iff hf, ← fdec_eq_signalling_iff hf]
  exact ⟨rfl, raisesNV_pair ..⟩

/-- The operations of one operand look at a NaN first (R59, R81, R82). -/
theorem unary_nan {a : Nat} (h : f.isNan a) (rm : Nat) (n : Int) :
    ∀ op ∈ [fsqrt f rm, frcp f, frsq f, fabsCode f, fnegCode f, frnd f rm, ffrc f rm, (fscale f rm · n), fexp2 f, flog2 f,
      fsincos f false, fsincos f true], DefaultNan f (f.isSig a) (op a) := by
  obtain ⟨s, hs⟩ := fdec_of_isNan hf h
  have heq : ∀ op ∈ [fsqrt f rm, frcp f, frsq f, fabsCode f, fnegCode f, frnd f rm, ffrc f rm, (fscale f rm · n), fexp2 f, flog2 f,
      fsincos f false, fsincos f true], op a = (fnan f, if s then fNV else 0) := by
    simp [fsqrt, frcp, frsq, fabsCode, fnegCode, frnd, ffrc, fscale, fexp2, flog2, fsincos, hs]
  intro op hop
  rw [heq op hop, ← fdec_eq_signalling_iff hf, hs]
  cases s
  · exact ⟨rfl, .of_false (by simp)⟩
  · exact ⟨rfl, .of_true rfl⟩

end

/-! ## The fused operations (R79) -/

/-- The operands of a product are ∞ and 0. -/
def InfTimesZero (x y : FVal) : Prop := (∃ n, x = .inf n) ∧ (∃ n e, y = .fin n 0 e) ∨ (∃ n e, x = .fin n 0 e) ∧ ∃ n, y = .inf n

theorem fmulV_infTimesZero {x y : FVal} (h : InfTimesZero x y) : fmulV x y = (.nan false, 1) := by
  rcases h with ⟨⟨n, rfl⟩, k, e, rfl⟩ | ⟨⟨n, e, rfl⟩, k, rfl⟩
  · rfl
  · rfl

/-- Any other product of numbers is a number. -/
theorem fmulV_number {x y : FVal} (hn : ¬EitherNan x y) (hz : ¬InfTimesZero x y) :
    (∀ s, (fmulV x y).1 ≠ .nan s) ∧ (fmulV x y).2 = 0 := by
  cases x with
  | nan s => exact absurd (.inl ⟨s, rfl⟩) hn
  | inf nx =>
    cases y with
    | nan s => exact absurd (.inr ⟨s, rfl⟩) hn
    | inf ny => simp [fmulV]
    | fin ny my ey =>
      have h0 : my ≠ 0 := by rintro rfl; exact hz (.inl ⟨⟨nx, rfl⟩, ny, ey, rfl⟩)
      simp [fmulV, h0]
  | fin nx mx ex =>
    cases y with
    | nan s => exact absurd (.inr ⟨s, rfl⟩) hn
    | inf ny =>
      have h0 : mx ≠ 0 := by rintro rfl; exact hz (.inr ⟨⟨nx, ex, rfl⟩, ny, rfl⟩)
      simp [fmulV, h0]
    | fin ny my ey => simp [fmulV]

theorem not_infTimesZero_of_nan {x y : FVal} (h : EitherNan x y) : ¬InfTimesZero x y := by
  rcases h with ⟨s, rfl⟩ | ⟨s, rfl⟩
  · simp [InfTimesZero]
  · simp [InfTimesZero]

theorem raisesNV_fmulV (x y : FVal) : RaisesNV (fmulV x y).2 (x = .nan true ∨ y = .nan true ∨ InfTimesZero x y) := by
  by_cases hn : EitherNan x y
  · rw [fmulV_nan hn]
    exact (raisesNV_pair x y).iff (by simp [not_infTimesZero_of_nan hn])
  · by_cases hz : InfTimesZero x y
    · exact fmulV_infTimesZero hz ▸ .of_true (.inr (.inr hz))
    · rw [(fmulV_number hn hz).2]
      exact .of_false fun h => h.elim (fun e => hn (.inl ⟨_, e⟩)) fun h => h.elim (fun e => hn (.inr ⟨_, e⟩)) hz

theorem fmulV_ne_signalling (x y : FVal) : (fmulV x y).1 ≠ .nan true := by
  by_cases hn : EitherNan x y
  · simp [fmulV_nan hn]
  · by_cases hz : InfTimesZero x y
    · simp [fmulV_infTimesZero hz]
    · exact (fmulV_number hn hz).1 true

theorem fmulV_isNan {x y : FVal} (h : EitherNan x y ∨ InfTimesZero x y) : (fmulV x y).1 = .nan false := by
  rcases h with h | h
  · rw [fmulV_nan h]
  · rw [fmulV_infTimesZero h]

/-- A value, or its negative. -/
def FVal.negIf (n : Bool) (v : FVal) : FVal := if n then fneg v else v

theorem FVal.negIf_eq_nan_iff (n : Bool) (v : FVal) (s : Bool) : v.negIf n = .nan s ↔ v = .nan s := by
  cases n
  · rfl
  · exact fneg_eq_nan_iff v s

/-- Product and addend each negated or not, the sum joining the flags of the product. -/
theorem ffma_eq (f : FFmt) (rm : Nat) (np nd : Bool) (a b d : Nat) : ffma f rm np nd a b d
    = let p := fmulV (fdec f a) (fdec f b)
      let s := faddV rm (p.1.negIf np) ((fdec f d).negIf nd)
      ffinish f rm (s.1, s.2 ||| p.2) := rfl

/-- A fused operation gives the default NaN for a NaN operand and for ∞·0, which raises NV whatever the addend holds. -/
theorem ffma_nan {f : FFmt} (hf : f.Ieee) {a b d : Nat}
    (h : f.isNan a ∨ f.isNan b ∨ f.isNan d ∨ InfTimesZero (fdec f a) (fdec f b)) (rm : Nat) (np nd : Bool) :
    DefaultNan f (f.isSig a ∨ f.isSig b ∨ f.isSig d ∨ InfTimesZero (fdec f a) (fdec f b)) (ffma f rm np nd a b d) := by
  have hsum : EitherNan ((fmulV (fdec f a) (fdec f b)).1.negIf np) ((fdec f d).negIf nd) := by
    simp only [EitherNan, FVal.negIf_eq_nan_iff]
    rcases h with h | h | h | h
    · exact .inl ⟨_, fmulV_isNan (.inl (.inl (fdec_of_isNan hf h)))⟩
    · exact .inl ⟨_, fmulV_isNan (.inl (.inr (fdec_of_isNan hf h)))⟩
    · exact .inr (fdec_of_isNan hf h)
    · exact .inl ⟨_, fmulV_isNan (.inr h)⟩
  rw [ffma_eq]
  dsimp only
  rw [faddV_nan hsum, ffinish_nan hf]
  refine ⟨rfl, ((raisesNV_pair ..).or (raisesNV_fmulV ..)).iff ?_⟩
  simp only [FVal.negIf_eq_nan_iff, fmulV_ne_signalling, fdec_eq_signalling_iff hf, false_or]
  tauto

theorem infTimesZero_fdec_iff {f : FFmt} (hf : f.Ieee) (a b : Nat) : InfTimesZero (fdec f a) (fdec f b)
    ↔ f.magOf a = f.top ∧ f.magOf b = 0 ∨ f.magOf a = 0 ∧ f.magOf b = f.top := by
  rw [InfTimesZero, fdec_eq_inf_iff hf, fdec_eq_zero_iff hf, fdec_eq_inf_iff hf, fdec_eq_zero_iff hf]

/-! ## Minimum and maximum (R55) -/

/-- A number of sign and magnitude, as an integer that puts −0 below +0. -/
def signedKey (neg : Bool) (m : Nat) : Int := if neg then -(m : Int) - 1 else m

/-- The sign and magnitude of a code. -/
def FFmt.key (f : FFmt) (c : Nat) : Int := signedKey (f.neg c) (f.magOf c)

/-- Sign and magnitude order as the magnitudes do, whichever way these are measured. -/
theorem signedKey_lt_iff {a b u v : Nat} (hlt : u < v ↔ a < b) (hgt : v < u ↔ b < a) (na nb : Bool) :
    signedKey na u < signedKey nb v ↔ signedKey na a < signedKey nb b := by
  cases na <;> cases nb <;> simp only [signedKey, Bool.false_eq_true, if_true, if_false] <;> omega

/-- Two finite values order as their multiples of any 2^k that divides both. -/
theorem fltV_fin {k ea eb : Int} (ha : k ≤ ea) (hb : k ≤ eb) (na nb : Bool) (ma mb : Nat) :
    fltV true (.fin na ma ea) (.fin nb mb eb) = true
      ↔ signedKey na (ma * 2 ^ (ea - k).toNat) < signedKey nb (mb * 2 ^ (eb - k).toNat) := by
  have hscale : ∀ {e : Int} (m : Nat), min ea eb ≤ e →
      m * 2 ^ (e - k).toNat = m * 2 ^ (e - min ea eb).toNat * 2 ^ (min ea eb - k).toNat := fun m he => by
    rw [Nat.mul_assoc, ← pow_add]; congr 2; omega
  have hpos := Nat.two_pow_pos (min ea eb - k).toNat
  rw [hscale ma (min_le_left ..), hscale mb (min_le_right ..),
    signedKey_lt_iff (Nat.mul_lt_mul_right hpos) (Nat.mul_lt_mul_right hpos)]
  simp only [fltV, Bool.or_eq_true, Bool.and_eq_true, decide_eq_true_eq, Bool.not_eq_true', true_and]
  generalize ma * 2 ^ (ea - min ea eb).toNat = u
  generalize mb * 2 ^ (eb - min ea eb).toNat = v
  cases na <;> cases nb <;> simp [signedKey] <;> omega

/-! Codes of one exponent order as their fractions; a larger exponent wins, since a significand is below twice its leading bit. -/

theorem FFmt.units_lt (f : FFmt) (p : Nat) : f.units p < 2 ^ (f.mb + p / 2 ^ f.mb) := by
  have hfr := Nat.mod_lt p (Nat.two_pow_pos f.mb)
  unfold FFmt.units
  split
  · rename_i he; rwa [he]
  · rename_i he
    have hexp : f.mb + p / 2 ^ f.mb = f.mb + 1 + (p / 2 ^ f.mb - 1) := by
      have := Nat.pos_of_ne_zero he
      omega
    rw [hexp, pow_add 2 (f.mb + 1), pow_succ]
    exact (Nat.mul_lt_mul_right (Nat.two_pow_pos _)).2 (by omega)

theorem FFmt.le_units (f : FFmt) {p n : Nat} (h : n < p / 2 ^ f.mb) : 2 ^ (f.mb + n) ≤ f.units p := by
  rw [FFmt.units, if_neg (by omega), pow_add]
  exact Nat.mul_le_mul (Nat.le_add_right ..) (Nat.pow_le_pow_right (by decide) (by omega))

theorem FFmt.units_strictMono (f : FFmt) : StrictMono f.units := by
  intro p q h
  rcases (Nat.div_le_div_right (c := 2 ^ f.mb) h.le).lt_or_eq with he | he
  · exact (f.units_lt p).trans_le (f.le_units he)
  · have hp := Nat.div_add_mod p (2 ^ f.mb)
    have hq := Nat.div_add_mod q (2 ^ f.mb)
    have hfr : p % 2 ^ f.mb < q % 2 ^ f.mb := by rw [← he] at hq; omega
    unfold FFmt.units
    rw [← he]
    split
    · exact hfr
    · exact (Nat.mul_lt_mul_right (Nat.two_pow_pos _)).2 (by omega)

/-- The infinities order as magnitudes above every finite one. -/
theorem fltV_inf_inf (na nb : Bool) (t : Nat) : fltV true (.inf na) (.inf nb) = true ↔ signedKey na t < signedKey nb t := by
  cases na <;> cases nb <;> simp [fltV, signedKey]
  omega

theorem fltV_inf_fin {t u : Nat} (h : u < t) (na nb : Bool) (m : Nat) (e : Int) :
    fltV true (.inf na) (.fin nb m e) = true ↔ signedKey na t < signedKey nb u := by
  cases na <;> cases nb <;> simp [fltV, signedKey] <;> omega

theorem fltV_fin_inf {t u : Nat} (h : u < t) (na nb : Bool) (m : Nat) (e : Int) :
    fltV true (.fin na m e) (.inf nb) = true ↔ signedKey na u < signedKey nb t := by
  cases na <;> cases nb <;> simp [fltV, signedKey] <;> omega

/-- Numbers order as their codes in sign and magnitude. -/
theorem fltV_fdec {f : FFmt} (hf : f.Ieee) {a b : Nat} (ha : ¬f.isNan a) (hb : ¬f.isNan b) :
    fltV true (fdec f a) (fdec f b) = true ↔ f.key a < f.key b := by
  unfold FFmt.key
  rcases FFmt.decodes hf a with ⟨hna, -⟩ | ⟨-, hma, hva⟩ | ⟨m, e, -, hma, hva, hea, hua⟩
  · exact absurd hna ha
  · rcases FFmt.decodes hf b with ⟨hnb, -⟩ | ⟨-, hmb, hvb⟩ | ⟨n, k, -, hmb, hvb, -, -⟩
    · exact absurd hnb hb
    · rw [hva, hvb, hma, hmb, fltV_inf_inf]
    · rw [hva, hvb, hma, fltV_inf_fin hmb]
  · rcases FFmt.decodes hf b with ⟨hnb, -⟩ | ⟨-, hmb, hvb⟩ | ⟨n, k, -, hmb, hvb, hkb, hub⟩
    · exact absurd hnb hb
    · rw [hva, hvb, hmb, fltV_fin_inf hma]
    · rw [hva, hvb, fltV_fin hea hkb, hua, hub]
      exact signedKey_lt_iff f.units_strictMono.lt_iff_lt f.units_strictMono.lt_iff_lt _ _

section
variable {f : FFmt} (hf : f.Ieee) {a b : Nat}
include hf

theorem fminmax_nan_number (mx : Bool) (ha : f.isNan a) (hb : ¬f.isNan b) : fminmax f mx a b = (b, nvOf [fdec f a]) := by
  obtain ⟨s, hs⟩ := fdec_of_isNan hf ha
  have hne := fdec_ne_nan hf hb
  unfold fminmax
  cases hv : fdec f b with
  | nan t => exact absurd hv (hne t)
  | inf n => simp only [hs]
  | fin n m e => simp only [hs]

theorem fminmax_number_nan (mx : Bool) (ha : ¬f.isNan a) (hb : f.isNan b) : fminmax f mx a b = (a, nvOf [fdec f b]) := by
  obtain ⟨s, hs⟩ := fdec_of_isNan hf hb
  have hne := fdec_ne_nan hf ha
  unfold fminmax
  cases hv : fdec f a with
  | nan t => exact absurd hv (hne t)
  | inf n => simp only [hs]
  | fin n m e => simp only [hs]

theorem fminmax_nan_nan (mx : Bool) (ha : f.isNan a) (hb : f.isNan b) : fminmax f mx a b = (fnan f, nvOf [fdec f a, fdec f b]) := by
  obtain ⟨s, hs⟩ := fdec_of_isNan hf ha
  obtain ⟨t, ht⟩ := fdec_of_isNan hf hb
  simp only [fminmax, hs, ht]

theorem fminmax_numbers (mx : Bool) (ha : ¬f.isNan a) (hb : ¬f.isNan b) :
    fminmax f mx a b = (if decide (f.key a < f.key b) != mx then a else b, 0) := by
  have hlt : fltV true (fdec f a) (fdec f b) = decide (f.key a < f.key b) := by
    rw [Bool.eq_iff_iff, decide_eq_true_iff]; exact fltV_fdec hf ha hb
  rw [← hlt]
  unfold fminmax
  cases hx : fdec f a with
  | nan s => exact absurd hx (fdec_ne_nan hf ha s)
  | inf n =>
    cases hy : fdec f b with
    | nan t => exact absurd hy (fdec_ne_nan hf hb t)
    | inf k => rfl
    | fin k m e => rfl
  | fin n m e =>
    cases hy : fdec f b with
    | nan t => exact absurd hy (fdec_ne_nan hf hb t)
    | inf k => rfl
    | fin k m e => rfl

theorem fminmax_smaller (ha : ¬f.isNan a) (hb : ¬f.isNan b) : fminmax f false a b = (if f.key a < f.key b then a else b, 0) := by
  rw [fminmax_numbers hf false ha hb]
  simp only [Bool.bne_false, decide_eq_true_eq]

theorem fminmax_larger (ha : ¬f.isNan a) (hb : ¬f.isNan b) : fminmax f true a b = (if f.key a < f.key b then b else a, 0) := by
  rw [fminmax_numbers hf true ha hb]
  simp only [Bool.bne_true, Bool.not_eq_true', decide_eq_false_iff_not, ite_not]

theorem raisesNV_fminmax (mx : Bool) (h : f.isNan a ∨ f.isNan b) : RaisesNV (fminmax f mx a b).2 (f.isSig a ∨ f.isSig b) := by
  have hnot : ∀ {c : Nat}, ¬f.isNan c → ¬f.isSig c := fun hc hs => hc hs.1
  by_cases ha : f.isNan a
  · by_cases hb : f.isNan b
    · rw [fminmax_nan_nan hf mx ha hb, ← fdec_eq_signalling_iff hf, ← fdec_eq_signalling_iff hf]
      exact raisesNV_pair ..
    · rw [fminmax_nan_number hf mx ha hb]
      exact (raisesNV_nvOf _).iff (by simp [hnot hb, ← fdec_eq_signalling_iff hf, eq_comm])
  · rw [fminmax_number_nan hf mx ha (h.resolve_left ha)]
    exact (raisesNV_nvOf _).iff (by simp [hnot ha, ← fdec_eq_signalling_iff hf, eq_comm])

end

/-- The key of a code of the format, read off the code. -/
theorem FFmt.key_eq (f : FFmt) {c : Nat} (h : c < 2 ^ (f.eb + f.mb + 1)) :
    f.key c = if c / 2 ^ (f.eb + f.mb) = 1 then -((c % 2 ^ (f.eb + f.mb) : Nat) : Int) - 1 else (c : Int) := by
  have hdiv : c / 2 ^ (f.eb + f.mb) < 2 := (Nat.div_lt_iff_lt_mul (Nat.two_pow_pos _)).2 (by rwa [pow_succ, Nat.mul_comm] at h)
  have hsum := Nat.div_add_mod c (2 ^ (f.eb + f.mb))
  rcases Nat.le_one_iff_eq_zero_or_eq_one.1 (Nat.le_of_lt_succ hdiv) with h0 | h1
  · rw [h0, Nat.mul_zero, Nat.zero_add] at hsum
    rw [FFmt.key, FFmt.neg, FFmt.magOf, h0, hsum]
    rfl
  · rw [FFmt.key, FFmt.neg, FFmt.magOf, h1]
    rfl

/-- Settles O6: each operation looks at a NaN first, and numbers order as their codes. -/
theorem nanRules : Obligations.NanRules := by
  intro f rm a b d hmem
  have hf := FFmt.ieee_of_lane hmem
  refine ⟨fun h => binary_nan hf h rm, fun h np nd => ?_, fun h n => unary_nan hf h rm n, fun mx ha hb => ?_, fun mx ha hb => ?_,
    fun mx ha hb => ?_, fun mx h => (raisesNV_fminmax hf mx h).2, fun ha hb hna hnb => ?_⟩
  · have hbad := infTimesZero_fdec_iff hf a b
    have hr := ffma_nan hf (d := d) (by rw [hbad]; exact h) rm np nd
    rw [hbad] at hr
    exact hr
  · rw [fminmax_nan_number hf mx ha hb]
  · rw [fminmax_number_nan hf mx ha hb]
  · rw [fminmax_nan_nan hf mx ha hb]
  · rw [fminmax_smaller hf hna hnb, fminmax_larger hf hna hnb, f.key_eq ha, f.key_eq hb]
    exact ⟨rfl, rfl⟩

end Sys2Proof.Machine
end

section
/-! PROOFS. Floating arithmetic, classes and compares of the lane engine: what they write and which flags they raise (R57, R78, R79, R81 to
R83): FloatInstructions. -/

namespace Sys2Proof.Machine

/-! ## Flags (R57) -/

/-- A bit of a word to which each entry of a list adds its own. -/
theorem getLsbD_foldl_iff {α : Type} {n k : Nat} {step : BitVec n → α → BitVec n} {p : α → Prop}
    (h : ∀ w a, (step w a).getLsbD k = true ↔ w.getLsbD k = true ∨ p a) (as : List α) (w : BitVec n) :
    (as.foldl step w).getLsbD k = true ↔ w.getLsbD k = true ∨ ∃ a ∈ as, p a := by
  induction as generalizing w with
  | nil => simp
  | cons a as ih => simp [ih, h, or_assoc]

theorem felems_eq (ty : BitVec 2) : felems ty.toNat = if ty.getLsbD 1 then [0, 1] else [0] := by
  rw [felems, type_bit1]
  by_cases h : ty.toNat < 2 <;> simp [h]

theorem raisedBy_flagsOf (ex : W64) (ty : BitVec 2) (r : Nat → Nat → Nat × BitVec 5) :
    RaisedBy (flagsOf ex ty.toNat r) ex (if ty.getLsbD 1 then [0, 1] else [0]) (fun e l => (r e l).2) := by
  intro k _
  have hlane (w : BitVec 5) (l : Nat) : ((felems ty.toNat).foldl (fun f e => f ||| (r e l).2) w).getLsbD k = true
      ↔ w.getLsbD k = true ∨ ∃ e ∈ felems ty.toNat, (r e l).2.getLsbD k = true :=
    getLsbD_foldl_iff (fun w e => by simp) _ w
  rw [flagsOf, getLsbD_foldl_iff hlane, ← felems_eq]
  simp [mem_bitList, and_assoc]

/-! ## Operands and results by type (R32, R64) -/

theorem f64Regs_eq (ty : BitVec 2) : f64Regs ty.toNat = if ty = 1 then 2 else 1 := by simp [f64Regs, ← BitVec.toNat_inj]

theorem felem_eq (x : Iss) (ty : BitVec 2) (n : BitVec 7) (e l : Nat) :
    felem x (x.op (f64Regs ty.toNat) n.toNat) ty.toNat e l = x.f ty n e l := by
  unfold felem Iss.f Iss.r f64Regs
  match ty.toNat with
  | 0 => rfl
  | 1 =>
    simp only [if_true]
    rw [BitVec.toNat_append, ← Nat.shiftLeft_add_eq_or_of_lt (BitVec.isLt _), Nat.shiftLeft_eq]
    omega
  | t + 2 => simp [elem_half]

theorem fword_eq (ty : BitVec 2) (c : Nat → Nat) (i : Nat) : fword ty.toNat c i = resultWord ty c i := by
  unfold fword resultWord
  match ty.toNat with
  | 0 => rfl
  | 1 => rfl
  | t + 2 => simp [pack2_halves]

/-- The power of VFSCALE (R81). -/
theorem scalePower_eq (ty : BitVec 2) (b : W32) (e : Nat) : (if ty.toNat < 2 then b.toInt else sext 16 (elem b 16 e))
    = if ty.getLsbD 1 then (b.extractLsb' (16 * e) 16).toInt else b.toInt := by
  rw [elem_half, sext_toNat _ (by decide), type_bit1]
  by_cases h : ty.toNat < 2 <;> simp [h]

/-! ## Arithmetic (R79, R81, R82) -/

/-- The instruction writes the result of each element of the executing lanes, and its flags join those that are set (R57, R79). -/
def CompletesFloat (i : Instr) (s : State) (x : Iss) (vd : BitVec 7) (m ty : BitVec 2) (r : Nat → Nat → Nat × BitVec 5) : Prop :=
  ∃ fp, RaisedBy fp (x.exec m.toNat) (if ty.getLsbD 1 then [0, 1] else [0]) (fun e l => (r e l).2)
    ∧ Completes i s x
      { dst := x.op (if ty = 1 then 2 else 1) vd.toNat, ex := x.exec m.toNat, fp := fp
        val := fun j l => resultWord ty (fun e => (r e l).1) j }

/-- A floating instruction with a result per element. -/
theorem CompletesFloat.of_laneFloat {s : State} {x : Iss} {i : Instr} {vd : BitVec 7} {m ty : BitVec 2} {r : Nat → Nat → Nat × BitVec 5}
    {r' : Iss → Nat → Nat → Nat × BitVec 5} (h : Issues s x i)
    (hx : exec i s = issue i (fun x => laneFloat x vd.toNat m.toNat ty.toNat (r' x)) s) (hr : ∀ e l, r' x e l = r e l) :
    CompletesFloat i s x vd m ty r := by
  obtain rfl : r' x = r := funext fun e => funext (hr e)
  refine ⟨flagsOf (x.exec m.toNat) ty.toNat (r' x), raisedBy_flagsOf _ _ _, ?_⟩
  simp only [← f64Regs_eq, ← fword_eq]
  exact .of_onGroup h hx rfl (fun g => (g.wrDest_file ..).only.trans (Group.orFp_only ..))
    fun _ hg => Effect.done_orFp (Effect.done_lanes hg ..) rfl _

/-- Every instruction of the table writes what its row says. -/
theorem floatLane_completes {s : State} {x : Iss} {i : Instr} {vd : BitVec 7} {m ty : BitVec 2}
    {r : Iss → Nat → Nat → Nat × BitVec 5} (hi : floatLane i = some (vd, m, ty, r)) (h : Issues s x i) :
    CompletesFloat i s x vd m ty (r x) := by
  unfold floatLane at hi
  split at hi
  all_goals cases hi
  all_goals
    refine CompletesFloat.of_laneFloat (r' := fun x e l => _) h rfl fun e l => ?_
    simp only [felem_eq, scalePower_eq, Iss.r]

/-! ## Classes and compares (R78, R83) -/

/-- A class is one of ten bits (R83). -/
theorem fclass_eq_pow (f : FFmt) (a : Nat) : ∃ k, k < 10 ∧ fclass f a = 2 ^ k := by
  unfold fclass
  split
  · exact ⟨8, by decide⟩
  · exact ⟨9, by decide⟩
  · exact ⟨0, by decide⟩
  · exact ⟨7, by decide⟩
  · split
    · split
      · exact ⟨3, by decide⟩
      · exact ⟨4, by decide⟩
    · split
      · split
        · exact ⟨2, by decide⟩
        · exact ⟨5, by decide⟩
      · split
        · exact ⟨1, by decide⟩
        · exact ⟨6, by decide⟩

theorem vfclass_completes {s : State} {x : Iss} {vd va : BitVec 7} {m ty : BitVec 2} (h : Issues s x (.vfclass vd va m ty)) :
    let c (e l : Nat) : Nat := fclass (fmtOfTy ty.toNat) (x.f ty va e l)
    Completes (.vfclass vd va m ty) s x
      { dst := x.op 1 vd.toNat, ex := x.exec m.toNat
        val := fun _ l => if ty.getLsbD 1 then BitVec.ofNat 16 (c 1 l) ++ BitVec.ofNat 16 (c 0 l) else BitVec.ofNat 32 (c 0 l) } := by
  refine Completes.laneWord (f' := fun x l => _) h rfl fun l => ?_
  simp only [felem_eq, pack2_halves, type_bit1]
  by_cases ht : ty.toNat < 2 <;> simp [ht]

theorem vfcmp_completes {s : State} {x : Iss} {cnd : BitVec 4} {md : BitVec 3} {va vb : BitVec 7} {m ty : BitVec 2}
    (h : Issues s x (.vfcmp cnd md va vb m ty)) :
    let r (e l : Nat) : Bool × BitVec 5 := fcmp (fmtOfTy ty.toNat) cnd.toNat (x.f ty va e l) (x.f ty vb e l)
    Completes (.vfcmp cnd md va vb m ty) s x
      { mask := some (md.toNat, quadLanes x.q.quads, maskOf fun l => bit (x.exec m.toNat) l && (felems ty.toNat).all fun e => (r e l).1)
        fp := flagsOf (x.exec m.toNat) ty.toNat fun e l => (0, (r e l).2) } := by
  have hx : exec (.vfcmp cnd md va vb m ty) s = execVfcmp cnd md va vb m ty s := rfl
  simp only [← felem_eq]
  exact .of_onGroup h hx rfl (fun g => (g.wrMask_only ..).trans (Group.orFp_only ..))
    fun _ hg => Effect.done_orFp (Effect.done_wrMask (Effect.done_none hg) rfl ..) rfl _

/-- Settles O5: the arithmetic by its table, the classes and the compares. -/
theorem floatInstructions : Obligations.FloatInstructions := by
  refine ⟨fun s x i vd m ty r hi h => floatLane_completes hi h, fun s x vd va m ty h => ⟨fun e l => fclass_eq_pow .., vfclass_completes h⟩,
    fun s x cnd md va vb m ty h => ⟨_, _, fun l hl => ?_, ?_, vfcmp_completes h⟩⟩
  · rw [bit_maskOf _ _ hl, felems_eq]
    cases ty.getLsbD 1 <;> simp
  · exact raisedBy_flagsOf _ _ _

end Sys2Proof.Machine
end

section
/-! PROOFS. Integer arithmetic, logic, bit fields and compares of the lane engine (R67 to R77): LaneInteger, FieldsAndCarry, LaneCompare. -/

namespace Sys2Proof.Machine

/-! ## Results in 32-bit words -/

/-- A result formed from va, vb and the old vd. -/
theorem Completes.laneBits3 {s : State} {x : Iss} {i : Instr} {vd va vb : BitVec 7} {m : BitVec 2} {f : W32 → W32 → W32 → W32}
    (h : Issues s x i) (hx : exec i s = issue i (fun x => laneBits3 x vd.toNat va.toNat vb.toNat m.toNat f) s) :
    Completes i s x { dst := x.op 1 vd.toNat, ex := x.exec m.toNat, val := fun _ l => f (x.r va l) (x.r vb l) (x.r vd l) } :=
  .lanes h hx rfl

/-- A result formed from va. -/
theorem Completes.laneBits2 {s : State} {x : Iss} {i : Instr} {vd va : BitVec 7} {m : BitVec 2} {f : W32 → W32}
    (h : Issues s x i) (hx : exec i s = issue i (fun x => laneBits2 x vd.toNat va.toNat m.toNat f) s) :
    Completes i s x { dst := x.op 1 vd.toNat, ex := x.exec m.toNat, val := fun _ l => f (x.r va l) } :=
  .lanes h hx rfl

/-- The result in each lane may be written in other terms. -/
theorem Completes.lane_congr {s : State} {x : Iss} {i : Instr} {os : List Loc} {ex : W64} {f f' : Nat → W32}
    (h : Completes i s x { dst := os, ex := ex, val := fun _ l => f l }) (hf : ∀ l, f l = f' l) :
    Completes i s x { dst := os, ex := ex, val := fun _ l => f' l } := by
  obtain rfl : f = f' := funext hf
  exact h

/-! ## Elements of an integer type -/

theorem int_mad {n : Nat} (ty : Nat) (hn : 0 < n) (a b d : BitVec n) :
    BitVec.ofInt n (ival ty n a.toNat * ival ty n b.toNat + ival ty n d.toNat) = a * b + d := by
  rw [BitVec.ofInt_add, int_mul ty hn, ofInt_ival ty d hn]

theorem int_addImm {n : Nat} (ty : Nat) (hn : 0 < n) (a : BitVec n) (imm : BitVec 7) :
    BitVec.ofInt n (ival ty n a.toNat + imm.toInt) = a + imm.signExtend n := by
  rw [BitVec.ofInt_add, ofInt_ival ty a hn, ofInt_toInt_signExtend]

theorem int_mulImm {n : Nat} (ty : Nat) (hn : 0 < n) (a : BitVec n) (imm : BitVec 7) :
    BitVec.ofInt n (ival ty n a.toNat * imm.toInt) = a * imm.signExtend n := by
  rw [BitVec.ofInt_mul, ofInt_ival ty a hn, ofInt_toInt_signExtend]

/-- An operation on the elements of va and vb alone, which the old vd does not enter. -/
theorem Completes.laneInt2 {s : State} {x : Iss} {i : Instr} {vd va vb : BitVec 7} {m ty : BitVec 2} {f : Int → Int → Int}
    {f32 : W32 → W32 → W32} {f16 : W16 → W16 → W16}
    (h : Issues s x i) (hx : exec i s = issue i (fun x => Machine.laneInt3 x vd.toNat va.toNat vb.toNat m.toNat ty.toNat fun a b _ => f a b) s)
    (h32 : ∀ a b : W32, BitVec.ofInt 32 (f (ival ty.toNat 32 a.toNat) (ival ty.toNat 32 b.toNat)) = f32 a b)
    (h16 : ∀ a b : W16, BitVec.ofInt 16 (f (ival ty.toNat 16 a.toNat) (ival ty.toNat 16 b.toNat)) = f16 a b) :
    Completes i s x { dst := x.op 1 vd.toNat, ex := x.exec m.toNat
                      val := fun _ l => byType ty (fun a b _ => f32 a b) (fun a b _ => f16 a b) (x.r va l) (x.r vb l) 0 } :=
  .laneInt3 (f := fun a b _ => f a b) (d := fun _ => 0) h hx (fun a b _ => h32 a b) (fun a b _ => h16 a b)
    (.inl ⟨fun _ _ _ _ => rfl, fun _ _ _ _ => rfl⟩)

/-! ## The table -/

/-- Settles O2, instruction by instruction of the table. -/
theorem laneInteger : Obligations.LaneInteger := by
  intro s x i vd m f hi h
  cases i
  case vadd => cases hi; exact .laneInt2 h rfl (int_add _ (by decide)) (int_add _ (by decide))
  case vsub => cases hi; exact .laneInt2 h rfl (int_sub _ (by decide)) (int_sub _ (by decide))
  case vmul => cases hi; exact .laneInt2 h rfl (int_mul _ (by decide)) (int_mul _ (by decide))
  case vmulh => cases hi; exact .laneWord (f' := fun x l => _) h rfl fun l => mulh_high _ _ _ (x.r vd l)
  case vmad => cases hi; exact .laneInt3 h rfl (int_mad _ (by decide)) (int_mad _ (by decide)) (.inr rfl)
  case vand => cases hi; exact .laneBits3 h rfl
  case vor => cases hi; exact .laneBits3 h rfl
  case vxor => cases hi; exact .laneBits3 h rfl
  case vandn => cases hi; exact .laneBits3 h rfl
  case vshl => cases hi; exact (Completes.laneBits3 h rfl).lane_congr fun l => by simp only [shiftAmount]
  case vshr =>
    cases hi
    exact (Completes.laneBits3 h rfl).lane_congr fun l => by simp only [shiftRight, shiftAmount, decide_eq_true_eq]
  case vmin => cases hi; exact .laneInt2 h rfl (int_min _ (by decide)) (int_min _ (by decide))
  case vmax => cases hi; exact .laneInt2 h rfl (int_max _ (by decide)) (int_max _ (by decide))
  case vabsd => cases hi; exact .laneInt2 (f := fun a b => (a - b).natAbs) h rfl (int_absd _ (by decide)) (int_absd _ (by decide))
  case vsel => cases hi; exact .lanes h rfl rfl
  case vpopc => cases hi; exact (Completes.laneBits2 h rfl).lane_congr fun l => by rw [setBits_eq]
  case vclz => cases hi; exact (Completes.laneBits2 h rfl).lane_congr fun l => by rw [leadingZeros_eq]
  case vbrev => cases hi; exact (Completes.laneBits2 h rfl).lane_congr fun l => brev_eq _
  case vneg => cases hi; exact (Completes.laneBits2 h rfl).lane_congr fun l => BitVec.zero_sub _
  case vdp4 => cases hi; exact (Completes.laneBits3 h rfl).lane_congr fun l => dp4_dot ..
  case vclmul => cases hi; exact (Completes.laneBits3 h rfl).lane_congr fun l => clmul_part ..
  case vmov => cases hi; exact .laneBits2 h rfl
  case vaddi =>
    cases hi
    exact .laneImm h rfl (fun a => int_addImm _ (by decide) a _) fun a => int_addImm _ (by decide) a _
  case vmuli =>
    cases hi
    exact .laneImm h rfl (fun a => int_mulImm _ (by decide) a _) fun a => int_mulImm _ (by decide) a _
  case vshli => cases hi; exact .laneBits2 h rfl
  case vshri =>
    cases hi
    exact (Completes.laneBits2 h rfl).lane_congr fun l => by simp only [shiftRight, decide_eq_true_eq]
  case vandi => cases hi; exact .laneBits2 h rfl
  case vli => cases hi; exact .lanes h rfl rfl
  all_goals cases hi

/-! ## Bit fields, and the add with carry (R68, R70) -/

theorem toNat_sumWithCarry (a b : W32) (p : Prop) [Decidable p] :
    (a.setWidth 33 + b.setWidth 33 + (if p then 1 else 0 : BitVec 33)).toNat = a.toNat + b.toNat + if p then 1 else 0 := by
  have ha := a.isLt
  have hb := b.isLt
  split <;> simp <;> omega

/-- The carry out is bit 32 of the sum. -/
theorem getLsbD_top (v : BitVec 33) : v.getLsbD 32 = decide (2 ^ 32 ≤ v.toNat) := BitVec.msb_eq_decide v

theorem low_word (v : BitVec 33) : v.setWidth 32 = BitVec.ofNat 32 v.toNat := (BitVec.ofNat_toNat ..).symm

/-- VADDC writes the low 32 bits of the sums to vd and their carries to mc. -/
theorem vaddc_completes {s : State} {x : Iss} {vd va vb : BitVec 7} {mc : BitVec 2} (h : Issues s x (.vaddc vd va vb mc)) :
    let sum (l : Nat) : Nat := (x.r va l).toNat + (x.r vb l).toNat + if mc.toNat ≠ 0 && bit (x.g.rdMask x.free mc.toNat) l then 1 else 0
    Completes (.vaddc vd va vb mc) s x
      { dst := x.op 1 vd.toNat, ex := x.exec 0, val := fun _ l => BitVec.ofNat 32 (sum l)
        mask := some (mc.toNat, x.exec 0, maskOf fun l => decide (2 ^ 32 ≤ sum l)) } :=
  .of_onGroup h rfl rfl (fun g => (g.wrDest_file ..).only.trans (Group.wrMask_only ..))
    fun _ hg => Effect.done_wrMask (Effect.done_lanes hg ..) rfl ..

/-- Settles O3: the fields bit by bit, and the 33-bit sums of VADDC. -/
theorem fieldsAndCarry : Obligations.FieldsAndCarry := by
  refine ⟨fun s x vd va vb m ty => ⟨fun h => ?extract, fun h => ?insert⟩, fun s x vd va vb mc h => ?add⟩
  case extract => exact ⟨fun l => bfx (ty = 1) (x.r va l) (x.r vb l), fun l j hj => bfx_bit _ _ _ j hj, .laneBits3 h rfl⟩
  case insert => exact ⟨fun l => bfi (x.r va l) (x.r vb l) (x.r vd l), fun l j hj => bfi_bit _ _ _ j hj, .laneBits3 h rfl⟩
  case add =>
    have hmc (l : Nat) :
        (mc.toNat ≠ 0 && bit (x.g.rdMask x.free mc.toNat) l) = true ↔ mc ≠ 0 ∧ bit (x.g.rdMask x.free mc.toNat) l = true := by
      simp [← BitVec.toNat_inj]
    have hdone := vaddc_completes h
    simp only [hmc, ← toNat_sumWithCarry, ← low_word] at hdone
    refine ⟨_, fun l hl => ?_, hdone⟩
    rw [bit_maskOf _ _ hl, getLsbD_top]

/-! ## Compares (R77) -/

/-- A word that issues is an instruction of the opcode map (R36). -/
theorem Issues.wellFormed {s : State} {x : Iss} {i : Instr} (h : Issues s x i) : i.wellFormed = true := by
  obtain ⟨-, -, hu, -⟩ := h
  have hword := (Bool.or_eq_false_iff.1 (Bool.or_eq_false_iff.1 hu).1).1
  simpa using (Bool.or_eq_false_iff.1 hword).1

/-- A compare writes EXEC ∧ condition for the issuing set, the condition in whatever terms. -/
theorem Completes.compare {s : State} {x : Iss} {i : Instr} {m : BitVec 2} {md : BitVec 3} {c : Nat → Bool} {c' : Iss → Nat → Bool}
    (h : Issues s x i) (hx : exec i s = issue i (fun x s => s.onGroup x (writeCompare x m.toNat md.toNat (c' x))) s) (hc : ∀ l, c' x l = c l) :
    ∃ w : W64, (∀ l, l < 64 → bit w l = (bit (x.exec m.toNat) l && c l))
      ∧ Completes i s x { mask := some (md.toNat, quadLanes x.q.quads, w) } :=
  ⟨_, fun l hl => (bit_maskOf _ _ hl).trans (by rw [hc]), .mask h hx rfl⟩

/-- Settles O4: the condition of a word that is an instruction is that of the two values. -/
theorem laneCompare : Obligations.LaneCompare := by
  have hcond {cnd : BitVec 4} (h : decide (cnd.toNat ≤ 5) = true) : cnd.toNat < 6 := Nat.lt_succ_of_le (of_decide_eq_true h)
  refine fun s x cnd md va vb m ty => ⟨fun h => ?_, fun h => ?_⟩
  · exact Completes.compare (c' := fun x l => _) h rfl fun l => intCmp_lane ty cnd (hcond h.wellFormed) _ _
  · exact Completes.compare (c' := fun x l => _) h rfl fun l => intCmp_imm ty cnd (hcond h.wellFormed) _ _

end Sys2Proof.Machine
end

section
/-! PROOFS. Exchange across lanes (R85 to R87): Shuffle. -/

namespace Sys2Proof.Machine

/-! ## Source lanes -/

/-- The source lane that a shuffle with operand `n` names for lane `l` of `w`, whether in range or not: an index, an exclusive or, up, down,
or a rotation (R86, R87). -/
def shuffleLane (w mode l n : Nat) : Int :=
  if mode = 0 then (n % w : Nat) else if mode = 1 then (l ^^^ (n % 64) : Nat)
  else if mode = 2 then (l : Int) - (n % 64 : Nat) else if mode = 3 then (l + n % 64 : Nat) else ((l + n) % w : Nat)

/-- A source lane that the group does not have. -/
def Iss.beyond (x : Iss) (r : Int) : Bool := r < 0 ∨ (x.g.width : Int) ≤ r

/-- What a lane takes from its source lane: its own value from beyond the group, 0 from a lane that is absent. -/
def Iss.taken (x : Iss) (va : BitVec 7) (l : Nat) (r : Int) : W32 :=
  if x.beyond r then x.r va l else if x.absent r.toNat then 0 else x.r va r.toNat

/-- The source lane is in the group and absent. -/
def Iss.lacks (x : Iss) (r : Int) : Bool := !x.beyond r && x.absent r.toNat

/-- Outside COMPAT16 the model's source is the lane named, none where the group does not have it. -/
theorem Iss.shuffleSrc_eq {x : Iss} (hc : x.l.kernel.compat16 = false) (mode l n : Nat) :
    shuffleSrc x.compat x.g.width mode l n
      = if x.beyond (shuffleLane x.g.width mode l n) then none else some (shuffleLane x.g.width mode l n).toNat := by
  have hrange (r : Int) : (if 0 ≤ r ∧ r < (x.g.width : Int) then some r.toNat else none) = if x.beyond r then none else some r.toNat := by
    by_cases h : 0 ≤ r ∧ r < (x.g.width : Int)
    · rw [if_pos h, if_neg (by simp [Iss.beyond]; omega)]
    · rw [if_neg h, if_pos (by simp [Iss.beyond]; omega)]
  rw [Iss.compat, hc]
  match mode with
  | 0 => exact hrange _
  | 1 => exact hrange _
  | 2 => exact hrange _
  | 3 => exact hrange _
  | _ + 4 => exact hrange _

/-! ## Completion -/

/-- A lane operand written, and the lanes with `lost` set in a report mask if there is one. -/
theorem Completes.reporting {s : State} {x : Iss} {i : Instr} {vd m : Nat} {rep : Bool} {val : Nat → W32} {lost : Nat → Bool}
    {val' : Iss → Nat → W32} {lost' : Iss → Nat → Bool} (h : Issues s x i)
    (hx : exec i s = issue i (fun x u => u.onGroup x fun g =>
      let g := g.wrDest (x.exec (if rep then 0 else m)) (x.op 1 vd) fun _ l => val' x l
      if rep then g.wrMask m (maskOf (lost' x) &&& x.exec (if rep then 0 else m)) (BitVec.allOnes 64) else g) s)
    (hv : ∀ l, val' x l = val l) (hl : ∀ l, lost' x l = lost l) :
    ∃ c : W64, (∀ l, l < 64 → bit c l = (bit (x.exec (if rep then 0 else m)) l && lost l))
      ∧ Completes i s x { dst := x.op 1 vd, ex := x.exec (if rep then 0 else m), val := fun _ l => val l
                          mask := if rep then some (m, c, BitVec.allOnes 64) else none } := by
  obtain rfl : val' x = val := funext hv
  obtain rfl : lost' x = lost := funext hl
  refine ⟨maskOf (lost' x) &&& x.exec (if rep then 0 else m), fun l hl => ?_, ?_⟩
  · rw [bit, BitVec.getLsbD_and, Bool.and_comm]
    exact congrArg _ (bit_maskOf _ _ hl)
  cases rep
  case false => exact .of_onGroup h hx rfl (fun g => (g.wrDest_file ..).only) fun _ hg => Effect.done_lanes hg ..
  case true =>
    exact .of_onGroup h hx rfl (fun g => (g.wrDest_file ..).only.trans (Group.wrMask_only ..))
      fun _ hg => Effect.done_wrMask (Effect.done_lanes hg ..) rfl ..

/-- A shuffle outside COMPAT16: what each lane takes, and the lanes that it reports. -/
theorem Completes.shuffle {s : State} {x : Iss} {i : Instr} {vd va : BitVec 7} {m : BitVec 2} {mode : Nat} {rep : Bool}
    {amt : Iss → Nat → Nat} (h : Issues s x i)
    (hx : exec i s = issue i (fun x => bodyShuffle x vd.toNat va.toNat mode m.toNat rep (amt x)) s) (hc : x.l.kernel.compat16 = false) :
    let src (l : Nat) : Int := shuffleLane x.g.width mode l (amt x l)
    let ex := x.exec (if rep then 0 else m.toNat)
    ∃ c : W64, (∀ l, l < 64 → bit c l = (bit ex l && x.lacks (src l)))
      ∧ Completes i s x { dst := x.op 1 vd.toNat, ex := ex, val := fun _ l => x.taken va l (src l)
                          mask := if rep then some (m.toNat, c, BitVec.allOnes 64) else none } := by
  refine Completes.reporting (val' := fun x l => _) (lost' := fun x l => _) h hx (fun l => ?_) fun l => ?_
  · simp only [Iss.shuffleSrc_eq hc, Iss.taken]
    cases x.beyond (shuffleLane x.g.width mode l (amt x l)) <;> rfl
  · simp only [Iss.shuffleSrc_eq hc, Iss.lacks]
    cases x.beyond (shuffleLane x.g.width mode l (amt x l)) <;> rfl

/-- Settles O8: both forms are the shuffle of their operand and mode. -/
theorem shuffle : Obligations.Shuffle := by
  intro s x vd va rep vx m ty i amt mode hform hc h
  have hrep : (decide (rep = 1) = true) = (rep = 1) := by simp
  rcases hform with ⟨rfl, rfl, rfl⟩ | ⟨rfl, rfl, rfl⟩
  · have hdone := Completes.shuffle (amt := fun x l => (x.v (x.op 1 vx.toNat) 0 l).toNat) (rep := rep = 1) h rfl hc
    simp only [hrep] at hdone
    exact hdone
  · have hdone := Completes.shuffle (amt := fun _ _ => vx.toNat) (rep := rep = 1) h rfl hc
    simp only [hrep] at hdone
    exact hdone

end Sys2Proof.Machine
end

section
/-! PROOFS. Votes, folds and inclusive prefixes over the executing lanes (R88 to R90): Reductions. -/

namespace Sys2Proof.Machine

/-! ## The values of the executing lanes -/

theorem lt_of_bit {m : W64} {l : Nat} (h : bit m l = true) : l < 64 := BitVec.lt_of_getLsbD h

theorem Iss.laneValues_eq (x : Iss) (m : Nat) (va : BitVec 7) : x.laneValues m va.toNat = (bitList (x.exec m)).map (x.r va) := rfl

theorem Iss.mem_laneValues {x : Iss} {m : Nat} {va : BitVec 7} {v : W32} :
    v ∈ x.laneValues m va.toNat ↔ ∃ l, bit (x.exec m) l = true ∧ x.r va l = v := by
  rw [Iss.laneValues_eq, List.mem_map]
  exact exists_congr fun l => and_congr_left fun _ => mem_bitList.trans ⟨And.right, fun h => ⟨lt_of_bit h, h⟩⟩

/-! ## Votes (R88) -/

theorem voteOf_any (vs : List W32) : voteOf 0 vs = true ↔ ∃ v ∈ vs, v ≠ 0 := by simp [voteOf]

theorem voteOf_all (vs : List W32) : voteOf 1 vs = true ↔ ∀ v ∈ vs, v ≠ 0 := by simp [voteOf]

/-- All values are the first one where any two are equal. -/
theorem voteOf_uniform (kind : Nat) (vs : List W32) : voteOf (kind + 2) vs = true ↔ ∀ v ∈ vs, ∀ u ∈ vs, v = u := by
  have hfirst : voteOf (kind + 2) vs = true ↔ ∀ v ∈ vs, v = vs.headD 0 := by simp [voteOf]
  rw [hfirst]
  constructor
  · intro h v hv u hu
    rw [h v hv, h u hu]
  · intro h v hv
    cases vs with
    | nil => cases hv
    | cons w ws => exact h v hv w (List.mem_cons_self ..)

/-! ## Folds (R89) -/

/-- Of an operation that commutes and associates it does not matter from which end a list is folded. -/
theorem foldl_eq_foldr_of_comm {α : Type} {f : α → α → α} (hc : ∀ a b, f a b = f b a) (ha : ∀ a b c, f (f a b) c = f a (f b c))
    (d : α) (vs : List α) : vs.foldl f d = vs.foldr f d := by
  have : Std.Commutative f := ⟨hc⟩
  have : Std.Associative f := ⟨ha⟩
  exact List.foldl_eq_foldr

section
variable {n : Nat} (ty : BitVec 2) (hn : 0 < n)
include hn

theorem ival_inj {a b : BitVec n} (h : ival ty.toNat n a.toNat = ival ty.toNat n b.toNat) : a = b := by
  rw [← ofInt_ival ty.toNat a hn, h, ofInt_ival _ b hn]

theorem smaller_eq (a b : BitVec n) : smaller ty a b = if ival ty.toNat n b.toNat < ival ty.toNat n a.toNat then b else a := by
  simp only [ival_lt ty hn b a, smaller]
  cases ty.getLsbD 0 <;> rfl

theorem larger_eq (a b : BitVec n) : larger ty a b = if ival ty.toNat n a.toNat < ival ty.toNat n b.toNat then b else a := by
  simp only [ival_lt ty hn a b, larger]
  cases ty.getLsbD 0 <;> rfl

theorem ival_smaller (a b : BitVec n) : ival ty.toNat n (smaller ty a b).toNat = min (ival ty.toNat n a.toNat) (ival ty.toNat n b.toNat) := by
  rw [smaller_eq ty hn]
  split <;> omega

theorem ival_larger (a b : BitVec n) : ival ty.toNat n (larger ty a b).toNat = max (ival ty.toNat n a.toNat) (ival ty.toNat n b.toNat) := by
  rw [larger_eq ty hn]
  split <;> omega

theorem foldl_smaller (d : BitVec n) (vs : List (BitVec n)) : vs.foldl (smaller ty) d = vs.foldr (smaller ty) d :=
  foldl_eq_foldr_of_comm (fun a b => ival_inj ty hn (by simp only [ival_smaller ty hn, min_comm]))
    (fun a b c => ival_inj ty hn (by simp only [ival_smaller ty hn, min_assoc])) d vs

theorem foldl_larger (d : BitVec n) (vs : List (BitVec n)) : vs.foldl (larger ty) d = vs.foldr (larger ty) d :=
  foldl_eq_foldr_of_comm (fun a b => ival_inj ty hn (by simp only [ival_larger ty hn, max_comm]))
    (fun a b c => ival_inj ty hn (by simp only [ival_larger ty hn, max_assoc])) d vs

end

theorem foldl_add {n : Nat} (d : BitVec n) (vs : List (BitVec n)) : vs.foldl (· + ·) d = vs.foldr (· + ·) d :=
  foldl_eq_foldr_of_comm BitVec.add_comm BitVec.add_assoc d vs

/-! The operations of R89, each as a fold from the right. -/

theorem foldInt_add (vs : List W32) : foldInt 0 vs = (vs.foldr (· + ·) 0).signExtend 64 :=
  congrArg (BitVec.signExtend 64) (foldl_add 0#32 vs)

theorem foldInt_addWide (vs : List W32) : foldInt 1 vs = (vs.map (·.setWidth 64)).foldr (· + ·) 0 := by
  rw [← foldl_add, List.foldl_map]
  rfl

theorem foldInt_min (vs : List W32) : foldInt 2 vs = (vs.foldr (smaller 0) 0x7FFFFFFF#32).signExtend 64 :=
  congrArg (BitVec.signExtend 64) (foldl_smaller 0 (by decide) 0x7FFFFFFF#32 vs)

theorem foldInt_max (vs : List W32) : foldInt 3 vs = (vs.foldr (larger 0) 0x80000000#32).signExtend 64 :=
  congrArg (BitVec.signExtend 64) (foldl_larger 0 (by decide) 0x80000000#32 vs)

theorem foldInt_minu (vs : List W32) : foldInt 4 vs = (vs.foldr (smaller 1) 0xFFFFFFFF#32).setWidth 64 :=
  congrArg (BitVec.setWidth 64) (foldl_smaller 1 (by decide) 0xFFFFFFFF#32 vs)

theorem foldInt_maxu (vs : List W32) : foldInt 5 vs = (vs.foldr (larger 1) 0#32).setWidth 64 :=
  congrArg (BitVec.setWidth 64) (foldl_larger 1 (by decide) 0#32 vs)

theorem foldInt_and (vs : List W32) : foldInt 6 vs = (vs.foldr (· &&& ·) 0xFFFFFFFF#32).setWidth 64 :=
  congrArg (BitVec.setWidth 64) (foldl_eq_foldr_of_comm BitVec.and_comm BitVec.and_assoc 0xFFFFFFFF#32 vs)

theorem foldInt_or (vs : List W32) : foldInt 7 vs = (vs.foldr (· ||| ·) 0#32).setWidth 64 :=
  congrArg (BitVec.setWidth 64) (foldl_eq_foldr_of_comm BitVec.or_comm BitVec.or_assoc 0#32 vs)

theorem foldInt_xor (vs : List W32) : foldInt 8 vs = (vs.foldr (· ^^^ ·) 0#32).setWidth 64 :=
  congrArg (BitVec.setWidth 64) (foldl_eq_foldr_of_comm BitVec.xor_comm BitVec.xor_assoc 0#32 vs)

/-- The scalar result may be written in other terms. -/
theorem Completes.scal_congr {s : State} {x : Iss} {i : Instr} {d : Nat} {v v' : W64} (h : Completes i s x { scal := some (d, v) })
    (hv : v = v') : Completes i s x { scal := some (d, v') } := hv ▸ h

/-- The integer folds. -/
theorem vfold_completes {s : State} {x : Iss} {sd : BitVec 6} {va op : BitVec 7} {m : BitVec 2} (h : Issues s x (.vfold sd va op m))
    (hop : op.toNat ≠ 9) :
    Completes (.vfold sd va op m) s x { scal := some (x.g.scalNo sd.toNat, foldInt op.toNat (x.laneValues m.toNat va.toNat)) } :=
  .scalar h rfl (if_neg hop)

/-- ADD.F32 writes the last sum and raises the flags of all. -/
theorem vfoldSum_completes {s : State} {x : Iss} {sd : BitVec 6} {va : BitVec 7} {m : BitVec 2} (h : Issues s x (.vfold sd va 9 m)) :
    let c := addChain (fmtRm x.q.fmt) (x.laneValues m.toNat va.toNat)
    Completes (.vfold sd va 9 m) s x
      { scal := some (x.g.scalNo sd.toNat, BitVec.ofNat 64 ((c.getLast?.map (·.1)).getD 0x80000000)), fp := chainFlags c } :=
  .of_onGroup h rfl rfl (fun g => (g.wrScal_only ..).trans (Group.orFp_only ..))
    fun _ hg => Effect.done_orFp (Effect.done_wrScal (Effect.done_none hg) rfl ..) rfl _

/-! ## Inclusive prefixes (R90) -/

/-- A bound beyond which nothing is kept does not matter. -/
theorem filter_range_of_le {p : Nat → Bool} {n k : Nat} (hn : n ≤ k) (hp : ∀ j, n ≤ j → p j = false) :
    (List.range k).filter p = (List.range n).filter p := by
  obtain ⟨d, rfl⟩ := Nat.exists_eq_add_of_le hn
  have hrest : ((List.range d).map (n + ·)).filter p = [] := by
    rw [List.filter_eq_nil_iff]
    intro j hj
    obtain ⟨e, -, rfl⟩ := List.mem_map.1 hj
    simp [hp (n + e) (Nat.le_add_right ..)]
  rw [List.range_add, List.filter_append, hrest, List.append_nil]

/-- The lanes of a mask up to lane l. -/
theorem bitList_upTo (m : W64) (l : Nat) : (bitList m).filter (· ≤ l) = (List.range (l + 1)).filter fun k => bit m k := by
  have hm (j : Nat) (hj : 64 ≤ j) : bit m j = false := BitVec.getLsbD_of_ge m j hj
  have hleft := filter_range_of_le (p := fun k => decide (k ≤ l) && bit m k) (Nat.le_add_right 64 (l + 1)) fun j hj => by simp [hm j hj]
  have hright := filter_range_of_le (p := fun k => decide (k ≤ l) && bit m k) (Nat.le_add_left (l + 1) 64) fun j hj => by
    simp [Nat.not_le_of_lt (Nat.lt_of_succ_le hj)]
  calc (bitList m).filter (· ≤ l) = (List.range 64).filter fun k => decide (k ≤ l) && bit m k := List.filter_filter
    _ = (List.range (l + 1)).filter fun k => decide (k ≤ l) && bit m k := hleft.symm.trans hright
    _ = _ := List.filter_congr fun k hk => by simp [Nat.le_of_lt_succ (List.mem_range.1 hk)]

/-- ADD.I32 up to each lane. -/
theorem vscanInt_completes {s : State} {x : Iss} {vd va : BitVec 7} {m : BitVec 2} (h : Issues s x (.vscan vd va m 0)) :
    Completes (.vscan vd va m 0) s x
      { dst := x.op 1 vd.toNat, ex := x.exec m.toNat
        val := fun _ l => (((bitList (x.exec m.toNat)).filter (· ≤ l)).map (x.r va)).foldl (· + ·) 0#32 } :=
  .lanes h rfl rfl

/-- ADD.F32 up to each lane, with the flags of all sums. -/
theorem vscanSum_completes {s : State} {x : Iss} {vd va : BitVec 7} {m : BitVec 2} (h : Issues s x (.vscan vd va m 1)) :
    let c := addChain (fmtRm x.q.fmt) (x.laneValues m.toNat va.toNat)
    Completes (.vscan vd va m 1) s x
      { dst := x.op 1 vd.toNat, ex := x.exec m.toNat, fp := chainFlags c
        val := fun _ l =>
          BitVec.ofNat 32 ((c.map (·.1)).getD ((((bitList (x.exec m.toNat)).filter (· ≤ l)).map (x.r va)).length - 1) 0x80000000) } :=
  .of_onGroup h rfl rfl (fun g => (g.wrDest_file ..).only.trans (Group.orFp_only ..))
    fun _ hg => Effect.done_orFp (Effect.done_lanes hg ..) rfl _

/-- Settles O9: the votes by kind, the folds by operation, the prefixes by type. -/
theorem reductions : Obligations.Reductions := by
  refine ⟨fun s x sd va m ty h => ⟨voteOf ty.toNat (x.laneValues m.toNat va.toNat), ?vote, .scalar h rfl rfl⟩, fun s x sd va op m h => ?fold,
    fun s x vd va m ty h => ?scan⟩
  case vote =>
    split_ifs with h0 h1
    · subst h0
      exact (voteOf_any _).trans (by simp [Iss.mem_laneValues])
    · subst h1
      exact (voteOf_all _).trans (by simp [Iss.mem_laneValues])
    · obtain ⟨k, hk⟩ : ∃ k, ty.toNat = k + 2 := Nat.exists_eq_add_of_le' (by bv_omega)
      rw [hk, voteOf_uniform]
      simp only [Iss.mem_laneValues, forall_exists_index, and_imp]
      exact ⟨fun h l k hl hk => h _ l hl rfl _ k hk rfl, fun h _ l hl hv _ k hk hu => hv ▸ hu ▸ h l k hl hk⟩
  case fold =>
    by_cases h9 : op = 9
    · subst h9
      exact vfoldSum_completes h
    · have hle : op.toNat ≤ 9 := of_decide_eq_true h.wellFormed
      have hne : op.toNat ≠ 9 := fun e => h9 (BitVec.eq_of_toNat_eq e)
      simp only [h9, if_false]
      refine (vfold_completes h hne).scal_congr ?_
      rw [Iss.laneValues_eq]
      generalize op.toNat = n at hle hne
      match n with
      | 0 => exact foldInt_add _
      | 1 => exact foldInt_addWide _
      | 2 => exact foldInt_min _
      | 3 => exact foldInt_max _
      | 4 => exact foldInt_minu _
      | 5 => exact foldInt_maxu _
      | 6 => exact foldInt_and _
      | 7 => exact foldInt_or _
      | 8 => exact foldInt_xor _
      | n + 9 => omega
  case scan =>
    rcases BitVec.eq_zero_or_eq_one ty with rfl | rfl
    · have hdone := vscanInt_completes h
      simp only [bitList_upTo, foldl_add] at hdone
      exact hdone
    · have hdone := vscanSum_completes h
      simp only [bitList_upTo, List.length_map] at hdone
      exact hdone

end Sys2Proof.Machine
end

section
/-! PROOFS. Broadcast, lane specials, and reads and writes of one lane (R91, R92): LaneAccess. -/

namespace Sys2Proof.Machine

/-! ## One lane written -/

/-- An effect in lane registers and masks alone has been made where these are as it says. -/
theorem FileWrite.done {x : Iss} {g k : Group} (h : FileWrite g k) (hg : g.regs = x.g.regs) {os : List Loc} {ex : W64} {f : Nat → Nat → W32}
    (hlanes : ∀ r l, l < 64 → k.lane r l = if bit ex l then laneAfter os f r l (x.g.lane r l) else x.g.lane r l)
    (hmasks : ∀ n l, l < 64 → bit (k.mask n) l = if bit ex l then maskAfter os f n l (bit (x.g.mask n) l) else bit (x.g.mask n) l) :
    ({ dst := os, ex := ex, val := f } : Effect).Done x k := by
  have hk : k.regs = { x.g.regs with lanes := k.regs.lanes, masks := k.regs.masks } := by rw [← hg, ← h.rest]
  refine ⟨hlanes, fun n => ?_, hmasks, ?_, ?_, ?_⟩
  · simp only [Group.scal]; rw [hk]
  · rw [hk]; rfl
  · rw [hk]; exact (BitVec.or_zero).symm
  · rw [hk]

theorem bit_laneBit {n l : Nat} (hl : l < 64) : bit (laneBit n) l = decide (l = n) := by
  have h := bit_or_shift 0 n l hl
  simpa [laneBit, bit] using h

theorem laneAfter_single (r k l : Nat) (f : Nat → Nat → W32) (old : W32) : laneAfter [.lane r] f k l old = if k = r then f 0 l else old := by
  simp [laneAfter, eq_comm]

theorem maskAfter_single (r n l : Nat) (f : Nat → Nat → W32) (old : Bool) : maskAfter [.lane r] f n l old = old := by
  simp [maskAfter]

/-- VPUTL into a lane register: the lane named, and none where it is dead or beyond the group (R92). -/
theorem Effect.done_putLane {x : Iss} {g : Group} (hg : g.regs = x.g.regs) (hw : x.g.width ≤ 64) (r n : Nat) (v : W64) :
    ({ dst := [.lane r], ex := if x.g.width ≤ n ∨ bit x.g.regs.dead n then 0 else laneBit n, val := fun _ _ => v.setWidth 32 } : Effect).Done x
      (vputlWrite x (.lane r) n v g) := by
  have hlane (k l : Nat) : g.lane k l = x.g.lane k l := by rw [Group.lane, hg]; rfl
  have hmask (k : Nat) : g.mask k = x.g.mask k := by rw [Group.mask, hg]; rfl
  by_cases hout : x.g.width ≤ n ∨ bit x.g.regs.dead n = true
  · have hstay : vputlWrite x (.lane r) n v g = g := by
      simp only [vputlWrite, Group.wrLane, hg]
      split_ifs <;> tauto
    rw [if_pos hout, hstay]
    exact (FileWrite.refl g).done hg (fun k l _ => by simp [bit, hlane]) fun k l _ => by simp [bit, hmask]
  · obtain ⟨hin, halive⟩ := not_or.1 hout
    have hwrite : vputlWrite x (.lane r) n v g = g.wrLane r n (v.setWidth 32) := if_neg hin
    rw [if_neg hout, hwrite]
    refine (g.wrLane_file ..).done hg (fun k l hl => ?_) fun k l hl => ?_
    · rw [Group.lane_wrLane _ _ _ _ _ _ (by omega) hl, bit_laneBit hl, laneAfter_single, hlane, hg]
      by_cases hk : k = r <;> by_cases hn : l = n <;> simp [hk, hn, halive]
    · rw [Group.mask_wrLane, hmask, maskAfter_single, ite_self]

theorem vputlWrite_only (x : Iss) (r n : Nat) (v : W64) (g : Group) : RegOnly g (vputlWrite x (.lane r) n v g) := by
  simp only [vputlWrite]
  split
  · exact .refl g
  · exact g.wrLane_only ..

/-- The operand of VGETL and VPUTL that is a lane register. -/
theorem getD_of_op {x : Iss} {n r : Nat} (h : x.op 1 n = [.lane r]) : (x.op 1 n).getD 0 .zero = .lane r := by rw [h]; rfl

end Sys2Proof.Machine

namespace Sys2Proof

open Machine

/-- Settles O10: VGETL and VPUTL by their operand, which is a lane register. -/
theorem laneAccess : Obligations.LaneAccess := by
  intro s x v ss m byS n
  refine ⟨fun h => .lanes h rfl rfl, fun k h => ?vspec, fun r hr h => ?vgetl, fun r hr hw h => ?vputl⟩
  case vspec =>
    refine .laneWord (f' := fun x l => _) h rfl fun l => ?_
    by_cases h0 : k = 0
    · subst h0; rfl
    by_cases h1 : k = 1
    · subst h1; rfl
    simp only [h0, h1, if_false]
    split
    next e => exact absurd (BitVec.eq_of_toNat_eq e) h0
    next e => exact absurd (BitVec.eq_of_toNat_eq e) h1
    next => rfl
  case vgetl => exact .scalar h rfl (by rw [getD_of_op hr]; rfl)
  case vputl =>
    have hx : exec (.vputl v ss byS n) s = execVputl v ss byS n s := rfl
    refine .of_onGroup h hx rfl (fun g => ?_) fun g hg => ?_
    · rw [getD_of_op hr]
      exact vputlWrite_only ..
    · rw [getD_of_op hr]
      exact Effect.done_putLane hg hw ..

end Sys2Proof
end

section
/-! PROOFS. Mask operations and mask transfers (R93, R94): Masks. -/

namespace Sys2Proof.Machine

/-! ## The set B (R94) -/

theorem Iss.bit_lanes (x : Iss) {l : Nat} (hl : l < 64) : bit x.lanes l = (decide (l < x.g.width) && bit (quadLanes x.q.quads) l) := by
  rw [Iss.lanes, bit, BitVec.getLsbD_and]
  exact congrArg (· && _) (bit_maskOf _ _ hl)

theorem Iss.maskLanes_of_mode {x : Iss} (h : x.g.trap.mode = none) : x.maskLanes = x.lanes := by simp [Iss.maskLanes, h]

theorem compatBits_of_not {x : Iss} (h : x.l.kernel.compat16 = false) (v : W64) : compatBits x v = v := by simp [compatBits, Iss.compat, h]

/-- The lanes of B that are set in a mask, ascending. -/
theorem Iss.bitList_lanes (x : Iss) (a : W64) :
    bitList (a &&& x.lanes) = (List.range 64).filter fun l => decide (l < x.g.width) && bit (quadLanes x.q.quads) l && bit a l :=
  List.filter_congr fun l hl => by
    rw [← x.bit_lanes (List.mem_range.1 hl), Bool.and_comm, bit, BitVec.getLsbD_and]
    rfl

theorem popCount_eq_length (m : W64) : popCount m = (bitList m).length := List.countP_eq_length_filter

/-- Settles O11. -/
theorem masks : Obligations.Masks := by
  refine ⟨fun s x md ma mb => ?operations, fun s x mn sn hmode hcompat => ⟨fun h => ?mget, fun h => ?mset, fun h => ?mpop, fun h => ?mffs⟩⟩
  case operations =>
    simp only [List.forall_mem_cons, List.not_mem_nil, false_implies, implies_true, and_true]
    exact ⟨fun h => .mask h rfl rfl, fun h => .mask h rfl rfl, fun h => .mask h rfl rfl, fun h => .mask h rfl rfl, fun h => .mask h rfl rfl,
      fun h => .mask h rfl rfl⟩
  case mget => exact .scalar h rfl (by rw [compatBits_of_not hcompat]; rfl)
  case mset =>
    have hx : exec (.mset mn sn) s = execMset mn sn s := rfl
    refine ⟨compatBits x x.maskLanes, fun l hl => ?_, .mask h hx rfl⟩
    rw [compatBits_of_not hcompat, Iss.maskLanes_of_mode hmode, x.bit_lanes hl]
  case mpop => exact .scalar h rfl (by rw [Iss.maskLanes_of_mode hmode, popCount_eq_length, x.bitList_lanes]; rfl)
  case mffs =>
    exact .scalar h rfl (by rw [Iss.maskLanes_of_mode hmode, x.bitList_lanes, Iss.compat, hcompat]; rfl)

end Sys2Proof.Machine
end

section
/-! PROOFS. Words that the spec writes out (R69 to R327): DecodeSamples. -/

namespace Sys2Proof.Machine

/-- Settles O42: each instruction is well formed and has the word that the spec writes, and the decoder reads it back. -/
theorem decodeSamples : Obligations.DecodeSamples := by
  suffices h : ∀ e : W32 × Instr, e ∈ _ → e.2.wellFormed = true ∧ encode e.2 = some e.1 from
    fun e he => decodeWord_encode (h e he).1 (h e he).2
  decide

end Sys2Proof.Machine
end

section
/-! PROOFS. Parting and rejoining (R100 to R102, R127, R128): SplitAndRegang, Join. -/

namespace Sys2Proof.Machine

/-! ## A change of the issuing group -/

/-- A word whose body changes the issuing group alone makes the change of it, its turn to issue having been counted. -/
theorem Becomes.of_modGroup {s : State} {x : Iss} {i : Instr} {f : Group → Group} (h : s.iss = some x) (hf : ∀ g, (f g).ref = g.ref)
    (hx : exec i s = .next ((s.prep x).modGroup x.g.ref f)) : Becomes i s x (f x.now) :=
  ⟨_, hx, State.group?_modGroup_some (State.prep_group h) hf, fun _ hr => State.group?_prep_modGroup_ne hr hf, rfl⟩

/-- A word whose body changes the issuing group and goes on. -/
theorem Becomes.of_onGroup {s : State} {x : Iss} {i : Instr} {f : Group → Group} {body : Iss → State → State} (h : Issues s x i)
    (hf : ∀ g, (f g).ref = g.ref) (hx : exec i s = issue i body s) (hb : body x (s.prep x) = (s.prep x).onGroup x f) :
    Becomes i s x ((f x.now).modQ x.q.tag QSet.advance) :=
  .of_modGroup (f := fun g => (f g).modQ x.q.tag QSet.advance) h.1 hf (hx.trans ((issue_runs h).trans (congrArg _ hb)))

theorem State.modGroup_modGroup (s : State) (r : Nat) {f : Group → Group} (k : Group → Group) (hf : ∀ g, (f g).ref = g.ref) :
    (s.modGroup r f).modGroup r k = s.modGroup r fun g => k (f g) := by
  simp only [State.modGroup, List.map_map]
  congr 1
  refine List.map_congr_left fun g _ => ?_
  by_cases hr : g.ref = r
  · simp [hr, (hf g).trans hr]
  · simp [hr]

/-- The issuing group with its quad-set held. -/
def Iss.heldNow (x : Iss) (k : HoldKind) (bounded : Bool) : Group := x.now.modQ x.q.tag fun q => q.held k bounded x.g.regs.waitlim x.kept

/-- A word whose body holds its quad-set and changes its group further. -/
theorem Becomes.of_hold {s : State} {x : Iss} {i : Instr} {k : HoldKind} {bounded : Bool} {f : Group → Group} (h : s.iss = some x)
    (hf : ∀ g, (f g).ref = g.ref) (hx : exec i s = .next (((s.prep x).hold x k bounded).modGroup x.g.ref f)) :
    Becomes i s x (f (x.heldNow k bounded)) := by
  have hhold : (s.prep x).hold x k bounded
      = (s.prep x).modGroup x.g.ref fun g => g.modQ x.q.tag fun q => q.held k bounded g.regs.waitlim x.kept := rfl
  rw [hhold, State.modGroup_modGroup (hf := fun _ => by rfl)] at hx
  have hb := Becomes.of_modGroup (f := fun g => f (g.modQ x.q.tag fun q => q.held k bounded g.regs.waitlim x.kept)) h (fun _ => hf _) hx
  rwa [Iss.now, Group.issued_regs] at hb

/-- A word whose body only holds its quad-set. -/
theorem Waits.of_hold {s : State} {x : Iss} {i : Instr} {k : HoldKind} {bounded : Bool} (h : s.iss = some x)
    (hx : exec i s = .next ((s.prep x).hold x k bounded)) : Waits i s x k bounded := by
  have hid : ((s.prep x).hold x k bounded).modGroup x.g.ref id = (s.prep x).hold x k bounded := by simp [State.modGroup]
  exact Becomes.of_hold (f := id) h (fun _ => rfl) (hx.trans (congrArg _ hid.symm))

@[simp] theorem Group.issued_rstack (g : Group) (q : QSet) : (g.issued q).rstack = g.rstack := by unfold Group.issued; split <;> rfl
@[simp] theorem Group.issued_nextTag (g : Group) (q : QSet) : (g.issued q).nextTag = g.nextTag := by unfold Group.issued; split <;> rfl

/-! ## Sets of quads -/

theorem quadsIn_iff {q m : W16} : quadsIn q m = true ↔ InQuads q m := by
  rw [quadsIn, decide_eq_true_eq, BitVec.eq_of_getLsbD_eq_iff]
  refine forall₂_congr fun k hk => ?_
  simp [hk]

theorem InQuads.rfl {q : W16} : InQuads q q := fun _ _ h => h

theorem getLsbD_one_shift {w : Nat} (i : Nat) {k : Nat} (hk : k < w) : (1#w <<< i).getLsbD k = decide (k = i) := by
  rw [← BitVec.twoPow_eq, BitVec.getLsbD_twoPow]
  by_cases h : k = i
  · subst h; simp [hk]
  · simp [h, Ne.symm h]

theorem getLsbD_foldl_setBits {w : Nat} (f : Nat → Bool) (n : Nat) {k : Nat} (hk : k < w) :
    ((List.range n).foldl (fun m i => if f i then m ||| (1#w <<< i) else m) 0#w).getLsbD k = (f k && decide (k < n)) := by
  induction n with
  | zero => simp
  | succ n ih =>
    rw [List.range_succ, List.foldl_append, List.foldl_cons, List.foldl_nil]
    by_cases hkn : k = n
    · subst hkn
      cases hf : f k <;> simp [ih, getLsbD_one_shift _ hk, hf, -BitVec.getLsbD_eq_getElem]
    · have hlt : k < n + 1 ↔ k < n := by omega
      cases f n <;> simp [ih, getLsbD_one_shift _ hk, hkn, hlt, -BitVec.getLsbD_eq_getElem]

/-- Quad k is one of those with a lane of `m`. -/
theorem getLsbD_quadsWith {q : W16} {m : W64} {k : Nat} (hk : k < 16) :
    (quadsWith q m).getLsbD k = true ↔ q.getLsbD k = true ∧ ∃ l, l / 4 = k ∧ bit m l = true := by
  have hnibble : m.toNat / 16 ^ k % 16 ≠ 0 ↔ ∃ l, l / 4 = k ∧ bit m l = true := by
    have hpow : m.toNat / 16 ^ k % 16 = (m.extractLsb' (4 * k) 4).toNat := by
      rw [BitVec.extractLsb'_toNat, Nat.shiftRight_eq_div_pow, Nat.pow_mul]
    have hzero : (m.extractLsb' (4 * k) 4).toNat ≠ 0 ↔ ∃ j, j < 4 ∧ bit m (4 * k + j) = true := by
      rw [Ne, ← BitVec.toNat_zero (w := 4), BitVec.toNat_inj, BitVec.eq_of_getLsbD_eq_iff]
      simp +contextual [bit]
    rw [hpow, hzero]
    exact ⟨fun ⟨j, hj, hb⟩ => ⟨4 * k + j, by omega, hb⟩, fun ⟨l, hl, hb⟩ => ⟨l % 4, by omega, by rwa [show 4 * k + l % 4 = l by omega]⟩⟩
  have h := getLsbD_foldl_setBits (w := 16) (fun i => q.getLsbD i && decide (m.toNat / 16 ^ i % 16 ≠ 0)) 16 hk
  rw [quadsWith, h]
  simp only [Bool.and_eq_true, decide_eq_true_eq, hk, and_true, hnibble]

/-- The quads that depart are those that SPLIT finds (R101). -/
theorem splitQuads_eq {x : Iss} {m : Nat} {dep : W16} (h : Departs x m dep) : splitQuads x m = dep := by
  refine BitVec.eq_of_getLsbD_eq fun k hk => Bool.eq_iff_iff.2 ?_
  rw [h k hk, splitQuads, getLsbD_quadsWith hk]
  refine and_congr_right fun _ => exists_congr fun l => and_congr_right fun hl => ?_
  have hl64 : l < 64 := by omega
  have hw : (widthLanes x.g.width).getLsbD l = decide (l < x.g.width) := bit_maskOf _ _ hl64
  simp only [bit, BitVec.getLsbD_and, BitVec.getLsbD_not, hl64, hw, decide_true, Bool.true_and, Bool.and_eq_true, Bool.not_eq_true',
    decide_eq_true_eq]
  tauto

/-! ## Running quads, and the set that is left of a merge -/

theorem getLsbD_foldl_quads (qs : List QSet) (a : W16) (k : Nat) :
    (qs.foldl (fun m q => m ||| q.quads) a).getLsbD k = true ↔ a.getLsbD k = true ∨ ∃ p ∈ qs, p.quads.getLsbD k = true := by
  induction qs generalizing a with
  | nil => simp
  | cons q qs ih =>
    rw [List.foldl_cons, ih]
    simp [or_assoc]

theorem Group.getLsbD_running (g : Group) (k : Nat) : g.running.getLsbD k = true ↔ ∃ p ∈ g.qsets, p.quads.getLsbD k = true := by
  rw [Group.running, getLsbD_foldl_quads]
  simp

/-- Which quads run depends on the quads of the quad-sets alone. -/
theorem Group.running_congr {g k : Group} (h : k.qsets.map (·.quads) = g.qsets.map (·.quads)) : k.running = g.running := by
  have hfold (j : Group) : j.running = (j.qsets.map (·.quads)).foldl (fun m q => m ||| q) 0 := by
    rw [List.foldl_map]; rfl
  rw [hfold, hfold, h]

/-- A pass through a list that keeps the better of two ends with the best. -/
theorem foldl_best {α : Type} {f : α → α → α} {le : α → α → Prop} (hrefl : ∀ a, le a a) (htrans : ∀ a b c, le a b → le b c → le a c)
    (hf : ∀ a b, (f a b = a ∨ f a b = b) ∧ le a (f a b) ∧ le b (f a b)) (a : α) (as : List α) :
    as.foldl f a ∈ a :: as ∧ ∀ p ∈ a :: as, le p (as.foldl f a) := by
  induction as generalizing a with
  | nil => simp [hrefl]
  | cons b bs ih =>
    obtain ⟨hmem, hle⟩ := ih (f a b)
    obtain ⟨hor, ha, hb⟩ := hf a b
    have hpick := hle _ (List.mem_cons_self ..)
    refine ⟨?_, fun p hp => ?_⟩
    · rcases List.mem_cons.1 hmem with he | he
      · rw [List.foldl_cons, he]
        rcases hor with h | h <;> simp [h]
      · exact List.mem_cons_of_mem _ (List.mem_cons_of_mem _ he)
    · rcases List.mem_cons.1 hp with rfl | hp
      · exact htrans _ _ _ ha hpick
      · rcases List.mem_cons.1 hp with rfl | hp
        · exact htrans _ _ _ hb hpick
        · exact hle p (List.mem_cons_of_mem _ hp)

/-- Of quad-sets held at JOINs of one clause the one at the latest is left (R127). -/
theorem foldl_laterOf (q : QSet) (qs : List QSet) :
    qs.foldl laterOf q ∈ q :: qs ∧ ∀ p ∈ q :: qs, p.pc.toNat ≤ (qs.foldl laterOf q).pc.toNat :=
  foldl_best (le := fun a b => a.pc.toNat ≤ b.pc.toNat) (fun _ => le_refl _) (fun _ _ _ => le_trans) (fun a b => by
    unfold laterOf
    split
    · exact ⟨.inr rfl, by omega, le_refl _⟩
    · exact ⟨.inl rfl, le_refl _, by omega⟩) q qs

/-- Of quad-sets the one with the lowest quad. -/
theorem foldl_lowest (q : QSet) (qs : List QSet) :
    let low := qs.foldl (fun a b => if lowQuad b.quads < lowQuad a.quads then b else a) q
    low ∈ q :: qs ∧ ∀ p ∈ q :: qs, lowQuad low.quads ≤ lowQuad p.quads := by
  refine foldl_best (le := fun a b => lowQuad b.quads ≤ lowQuad a.quads) (fun _ => ?_) (fun _ _ _ h k => ?_) (fun a b => ?_) q qs
  · exact le_refl _
  · exact le_trans k h
  · split
    · exact ⟨.inr rfl, by omega, le_refl _⟩
    · exact ⟨.inl rfl, le_refl _, by omega⟩

/-! ## Entries complete (R101) -/

theorem QSet.joining_iff {q : QSet} : q.joining = true ↔ ∃ h, q.hold = some h ∧ h.kind = .join := by
  unfold QSet.joining
  cases q.hold <;> simp

theorem RecEntry.holds_iff {e : RecEntry} {q : QSet} : e.holds q = true ↔ q.quads ≠ 0 ∧ InQuads q.quads e.quads := by
  simp [RecEntry.holds, quadsIn_iff]

theorem Group.entryDone_iff {g : Group} {e : RecEntry} : g.entryDone e = true ↔ InQuads (e.quads &&& g.running) e.arrived
    ∧ ∀ p ∈ g.qsets, p.quads ≠ 0 → InQuads p.quads e.quads → ∃ h, p.hold = some h ∧ h.kind = .join := by
  simp only [Group.entryDone, Bool.and_eq_true, quadsIn_iff, List.all_eq_true, List.mem_filter, RecEntry.holds_iff, QSet.joining_iff, and_imp]

/-- An entry that some running quad has not reached is not complete. -/
theorem Group.not_entryDone {g : Group} {e : RecEntry} (h : ¬InQuads (e.quads &&& g.running) e.arrived) : ¬g.entryDone e = true :=
  fun hd => h (Group.entryDone_iff.1 hd).1

theorem Group.settleJoins_of_none {g : Group} (h : ∀ e ∈ g.rstack, ¬g.entryDone e = true) (n : Nat) : Group.settleJoins n g = g := by
  cases n with
  | zero => rfl
  | succ n => rw [Group.settleJoins, List.find?_eq_none.2 h]

theorem Group.finishEntry_ref (g : Group) (e : RecEntry) : (g.finishEntry e).ref = g.ref := by
  unfold Group.finishEntry; split <;> rfl

theorem Group.settleJoins_ref (n : Nat) (g : Group) : (Group.settleJoins n g).ref = g.ref := by
  induction n generalizing g with
  | zero => rfl
  | succ n ih =>
    unfold Group.settleJoins
    split
    · rw [ih, Group.finishEntry_ref]
    · rfl

theorem Group.settleRegang_ref (g : Group) : g.settleRegang.ref = g.ref := by
  unfold Group.settleRegang
  split
  · rfl
  · dsimp only
    split <;> rfl

theorem Group.settle_ref (g : Group) : g.settle.ref = g.ref := by rw [Group.settle, Group.settleRegang_ref, Group.settleJoins_ref]

/-- The quad-sets of a complete entry are one: that at the latest JOIN, with all their quads and the FMT of the MARK (R101, R127). -/
theorem Group.finishEntry_of_holds {g : Group} {e : RecEntry} {p : QSet} (hp : p ∈ g.qsets) (he : e.holds p = true) :
    ∃ last ∈ g.qsets, e.holds last = true ∧ (∀ k ∈ g.qsets, e.holds k = true → k.pc.toNat ≤ last.pc.toNat)
      ∧ ∃ all : W16, (∀ k, all.getLsbD k = true ↔ ∃ p ∈ g.qsets, e.holds p = true ∧ p.quads.getLsbD k = true)
      ∧ g.finishEntry e = ({ g with
          rstack := g.rstack.erase e
          qsets := (g.qsets.filter fun q => !e.holds q) ++ [QSet.advance { last with quads := all, fmt := e.fmt }] } : Group).retag
            ((g.qsets.filter e.holds).map fun k => k.tag) last.tag := by
  have hmem (k : QSet) : k ∈ g.qsets.filter e.holds ↔ k ∈ g.qsets ∧ e.holds k = true := List.mem_filter
  unfold Group.finishEntry
  cases hf : g.qsets.filter e.holds with
  | nil =>
    have := (hmem p).2 ⟨hp, he⟩
    rw [hf] at this
    cases this
  | cons q qs =>
    rw [hf] at hmem
    obtain ⟨hlast, hlater⟩ := foldl_laterOf q qs
    obtain ⟨hin, hholds⟩ := (hmem _).1 hlast
    refine ⟨_, hin, hholds, fun k hk hkh => hlater k ((hmem k).2 ⟨hk, hkh⟩), _, fun k => ?_, rfl⟩
    rw [getLsbD_foldl_quads]
    simp only [← and_assoc, ← hmem, List.mem_cons, exists_eq_or_imp]

/-! ## REGANG (R101, R128) -/

/-- The quad-set is held at a REGANG of this address. -/
def QSet.AtRegang (q : QSet) (pc : W64) : Prop := q.pc = pc ∧ ∃ h, q.hold = some h ∧ h.kind = .regang

/-- Nothing happens while some quad-set is held elsewhere, or not held. -/
theorem Group.settleRegang_of_apart {g : Group} (h : ∀ pc, ∃ p ∈ g.qsets, ¬p.AtRegang pc) : g.settleRegang = g := by
  unfold Group.settleRegang
  split
  · rfl
  · next q qs hqs =>
    obtain ⟨p, hp, hnot⟩ := h q.pc
    rw [hqs] at hp
    refine if_neg fun hall => hnot ?_
    have hp := List.all_eq_true.1 hall p hp
    rw [Bool.and_eq_true, decide_eq_true_eq] at hp
    refine ⟨hp.2, ?_⟩
    cases hh : p.hold with
    | none => simp [hh] at hp
    | some h => exact ⟨h, rfl, by simpa [hh] using hp.1⟩

/-- Quad-sets that are all held at a REGANG of one address are one after it. -/
theorem Group.settleRegang_of_all {g : Group} {pc : W64} (hne : g.qsets ≠ []) (h : ∀ p ∈ g.qsets, p.AtRegang pc) :
    ∃ low ∈ g.qsets, (∀ p ∈ g.qsets, lowQuad low.quads ≤ lowQuad p.quads)
      ∧ g.settleRegang = ({ g with qsets := [QSet.advance { low with quads := g.running }] } : Group).retag (g.qsets.map fun k => k.tag) low.tag := by
  unfold Group.settleRegang
  cases hqs : g.qsets with
  | nil => exact absurd hqs hne
  | cons q qs =>
    rw [hqs] at h
    obtain ⟨hlow, hle⟩ := foldl_lowest q qs
    refine ⟨_, hlow, hle, if_pos (List.all_eq_true.2 fun p hp => ?_)⟩
    obtain ⟨hpc, e, he, hk⟩ := h p hp
    obtain ⟨hq, -⟩ := h q (List.mem_cons_self ..)
    simp [he, hk, hpc, hq]

/-! ## The issuing quad-set held -/

theorem QSet.held_hold (q : QSet) (k : HoldKind) (bounded : Bool) (w : W32) (os : List (Nat × W64)) :
    ∃ h, q.held k bounded w os = { q with hold := some h } ∧ h.kind = k ∧ h.bounded = bounded := by
  unfold QSet.held
  cases q.hold <;> exact ⟨_, rfl, rfl, rfl⟩

/-- A quad-set of the issuing group once the issuing one is held. -/
def Iss.heldSet (x : Iss) (k : HoldKind) (bounded : Bool) (p : QSet) : QSet :=
  if p.tag = x.q.tag then p.held k bounded x.g.regs.waitlim x.kept else p

section
variable (x : Iss) (k : HoldKind) (bounded : Bool)

theorem Iss.heldNow_qsets : (x.heldNow k bounded).qsets = x.g.qsets.map (x.heldSet k bounded) := by
  rw [← Group.issued_qsets x.g x.q]; rfl

theorem Iss.heldNow_rstack : (x.heldNow k bounded).rstack = x.g.rstack := Group.issued_rstack ..

@[simp] theorem Iss.heldSet_tag (p : QSet) : (x.heldSet k bounded p).tag = p.tag := by unfold Iss.heldSet; split <;> rfl
@[simp] theorem Iss.heldSet_quads (p : QSet) : (x.heldSet k bounded p).quads = p.quads := by unfold Iss.heldSet; split <;> rfl
@[simp] theorem Iss.heldSet_pc (p : QSet) : (x.heldSet k bounded p).pc = p.pc := by unfold Iss.heldSet; split <;> rfl
@[simp] theorem Iss.heldSet_fmt (p : QSet) : (x.heldSet k bounded p).fmt = p.fmt := by unfold Iss.heldSet; split <;> rfl

theorem Iss.heldSet_of_tag {p : QSet} (h : p.tag = x.q.tag) : ∃ e, (x.heldSet k bounded p).hold = some e ∧ e.kind = k := by
  obtain ⟨e, he, hk, -⟩ := p.held_hold k bounded x.g.regs.waitlim x.kept
  exact ⟨e, by rw [Iss.heldSet, if_pos h, he], hk⟩

theorem Iss.heldSet_of_ne {p : QSet} (h : p.tag ≠ x.q.tag) : x.heldSet k bounded p = p := if_neg h

theorem Iss.heldNow_running : (x.heldNow k bounded).running = x.g.running :=
  Group.running_congr (by rw [Iss.heldNow_qsets, List.map_map]; exact List.map_congr_left fun _ _ => x.heldSet_quads k bounded _)

theorem Iss.heldNow_tags : (x.heldNow k bounded).qsets.map (fun q => q.tag) = x.g.qsets.map fun q => q.tag := by
  rw [Iss.heldNow_qsets, List.map_map]; exact List.map_congr_left fun _ _ => x.heldSet_tag k bounded _

/-- What holds of the issuing group's quad-sets as the issuing one is held holds of those of the issue, held. -/
theorem Iss.forall_heldNow {P : QSet → Prop} : (∀ p ∈ (x.heldNow k bounded).qsets, P p) ↔ ∀ p ∈ x.g.qsets, P (x.heldSet k bounded p) := by
  rw [Iss.heldNow_qsets, List.forall_mem_map]

theorem Iss.exists_heldNow {P : QSet → Prop} : (∃ p ∈ (x.heldNow k bounded).qsets, P p) ↔ ∃ p ∈ x.g.qsets, P (x.heldSet k bounded p) := by
  simp only [Iss.heldNow_qsets, List.mem_map, exists_exists_and_eq_and]

end

/-- The issuing quad-set is one of its group's. -/
theorem State.iss_mem {s : State} {x : Iss} (h : s.iss = some x) : x.q ∈ x.g.qsets := by
  obtain ⟨-, hq, -⟩ := State.iss_some h
  exact List.mem_of_find?_eq_some hq

/-! ## MARK and SPLIT (R101, R127, R128) -/

section
variable {s : State} {x : Iss}

theorem headerAt_of_isHeader {a : W64} (h : IsHeader s x a) : ¬(!(s.prep x).headerAt x.t.core x.l.cid a) = true := by
  rw [IsHeader] at h
  simp [h]

theorem headerAt_of_not_isHeader {a : W64} (h : ¬IsHeader s x a) : (!(s.prep x).headerAt x.t.core x.l.cid a) = true := by
  simpa [IsHeader] using h

theorem mark_cases {off : BitVec 20} (h : Issues s x (.mark off)) :
    let dest := x.q.pc + (off.signExtend 64 <<< 2)
    (¬IsHeader s x dest → Traps (.mark off) s x 2 dest 0)
    ∧ (IsHeader s x dest → 16 ≤ x.g.rstack.length → Traps (.mark off) s x 9 0 1)
    ∧ (IsHeader s x dest → x.g.rstack.length < 16 → Becomes (.mark off) s x
      (({ x.now with rstack := ⟨dest, x.q.quads, x.q.fmt, 0⟩ :: x.g.rstack } : Group).modQ x.q.tag QSet.advance)) := by
  intro dest
  have hrun : exec (.mark off) s = .next (bodyMark x dest (s.prep x)) := issue_runs h
  refine ⟨fun hno => ?_, fun hhead hfull => ?_, fun hhead hroom => ?_⟩
  · rw [bodyMark, if_pos (headerAt_of_not_isHeader hno)] at hrun
    exact hrun
  · have hfull : Config.reconvMax ≤ x.g.rstack.length := hfull
    rw [bodyMark, if_neg (headerAt_of_isHeader hhead), if_pos hfull] at hrun
    exact hrun
  · have hroom : ¬Config.reconvMax ≤ x.g.rstack.length := Nat.not_le.2 hroom
    rw [bodyMark, if_neg (headerAt_of_isHeader hhead), if_neg hroom] at hrun
    have hb := Becomes.of_modGroup (f := fun g =>
      ({ g with rstack := ⟨dest, x.q.quads, x.q.fmt, 0⟩ :: g.rstack } : Group).modQ x.q.tag QSet.advance) h.1 (fun _ => rfl) hrun
    rwa [Iss.now, Group.issued_rstack] at hb

theorem split_cases {m : BitVec 3} {off : BitVec 20} {dep : W16} (hdep : Departs x m.toNat dep) (h : Issues s x (.split m off)) :
    let dest := x.q.pc + (off.signExtend 64 <<< 2)
    (dep = 0 → GoesOn (.split m off) s x)
    ∧ (dep ≠ 0 → ¬IsHeader s x dest → Traps (.split m off) s x 2 dest 0)
    ∧ (dep ≠ 0 → IsHeader s x dest → dep = x.q.quads → GoesTo (.split m off) s x dest)
    ∧ (dep ≠ 0 → IsHeader s x dest → dep ≠ x.q.quads →
      let stay := x.now.modQ x.q.tag fun q => QSet.advance { q with quads := q.quads &&& ~~~dep }
      Becomes (.split m off) s x { stay with
        qsets := stay.qsets ++ [{ tag := x.g.nextTag, quads := dep, pc := dest, fmt := x.q.fmt, clause := none, hold := none }]
        nextTag := x.g.nextTag + 1 }) := by
  intro dest
  have hrun : exec (.split m off) s = .next (bodySplit x m.toNat dest (s.prep x)) := issue_runs h
  rw [bodySplit, splitQuads_eq hdep] at hrun
  refine ⟨fun h0 => ?_, fun h0 hno => ?_, fun h0 hhead hall => ?_, fun h0 hhead hsome => ?_⟩
  · exact GoesOn.of_advance h.1 (by rw [hrun, if_pos h0])
  · rw [if_neg h0, if_pos (headerAt_of_not_isHeader hno)] at hrun
    exact hrun
  · rw [if_neg h0, if_neg (headerAt_of_isHeader hhead), if_pos hall] at hrun
    exact Becomes.of_modGroup (f := fun g => g.modQ x.q.tag fun q => q.goto dest) h.1 (fun _ => rfl) hrun
  · intro stay
    rw [if_neg h0, if_neg (headerAt_of_isHeader hhead), if_neg hsome] at hrun
    have hsplit : x.now.split x.q dep dest = { stay with
        qsets := stay.qsets ++ [{ tag := x.g.nextTag, quads := dep, pc := dest, fmt := x.q.fmt, clause := none, hold := none }]
        nextTag := x.g.nextTag + 1 } := by
      rw [← Group.issued_nextTag x.g x.q]; rfl
    exact hsplit ▸ Becomes.of_modGroup (f := fun g => g.split x.q dep dest) h.1 (fun _ => rfl) hrun

/-- REGANG holds the quad-set, and the group is looked at: no entry is complete. -/
theorem regang_becomes (h : Issues s x .regang) (hnone : ∀ k ∈ x.g.rstack, ¬InQuads (k.quads &&& x.g.running) k.arrived) :
    Becomes .regang s x (x.heldNow .regang true).settleRegang := by
  have hrun : exec .regang s = .next (((s.prep x).hold x .regang true).modGroup x.g.ref Group.settle) :=
    issue_runs (body := fun x s => (s.hold x .regang true).modGroup x.g.ref Group.settle) h
  have hjoins : Group.settleJoins (x.heldNow .regang true).rstack.length (x.heldNow .regang true) = x.heldNow .regang true :=
    Group.settleJoins_of_none (fun e he => Group.not_entryDone (by
      rw [Iss.heldNow_running]
      exact hnone e (by rwa [Iss.heldNow_rstack] at he))) _
  have hb := Becomes.of_hold h.1 Group.settle_ref hrun
  rwa [Group.settle, hjoins] at hb

theorem regang_waits (h : Issues s x .regang) (hnone : ∀ k ∈ x.g.rstack, ¬InQuads (k.quads &&& x.g.running) k.arrived)
    (hout : ∃ p ∈ x.g.qsets, ¬(p.tag = x.q.tag ∨ p.AtRegang x.q.pc)) : Waits .regang s x .regang true := by
  obtain ⟨p, hp, hnot⟩ := hout
  have hb := regang_becomes h hnone
  rw [Group.settleRegang_of_apart fun pc => (x.exists_heldNow _ _).2 ?_] at hb
  · exact hb
  by_cases hpc : pc = x.q.pc
  · refine ⟨p, hp, fun hat => hnot (.inr ?_)⟩
    rwa [x.heldSet_of_ne _ _ fun ht => hnot (.inl ht), hpc] at hat
  · exact ⟨x.q, State.iss_mem h.1, fun hat => hpc (hat.1.symm.trans (x.heldSet_pc _ _ _))⟩

theorem regang_merges (h : Issues s x .regang) (hnone : ∀ k ∈ x.g.rstack, ¬InQuads (k.quads &&& x.g.running) k.arrived)
    (hall : ∀ p ∈ x.g.qsets, p.tag = x.q.tag ∨ p.AtRegang x.q.pc) (hone : ∀ p ∈ x.g.qsets, p.tag = x.q.tag → p = x.q) :
    ∃ g q, Becomes .regang s x g ∧ g.qsets = [q] ∧ q.quads = x.g.running ∧ q.pc = x.q.pc + 4 ∧ q.hold = none
      ∧ (∃ p ∈ x.g.qsets, q.fmt = p.fmt ∧ ∀ p' ∈ x.g.qsets, lowQuad p.quads ≤ lowQuad p'.quads)
      ∧ g = ({ x.now with qsets := [q] } : Group).retag (x.g.qsets.map fun p => p.tag) q.tag := by
  have hq := State.iss_mem h.1
  have hat : ∀ p ∈ (x.heldNow .regang true).qsets, p.AtRegang x.q.pc := (x.forall_heldNow _ _).2 fun p hp => by
    by_cases ht : p.tag = x.q.tag
    · refine ⟨?_, x.heldSet_of_tag _ _ ht⟩
      rw [Iss.heldSet_pc, hone p hp ht]
    · rw [x.heldSet_of_ne _ _ ht]
      exact (hall p hp).resolve_left ht
  have hne : (x.heldNow .regang true).qsets ≠ [] := by
    rw [Iss.heldNow_qsets]
    exact fun hnil => List.ne_nil_of_mem hq (List.map_eq_nil_iff.1 hnil)
  obtain ⟨low, hlow, hlowest, hmerge⟩ := Group.settleRegang_of_all hne hat
  obtain ⟨hpc, -⟩ := hat low hlow
  rw [Iss.heldNow_qsets] at hlow
  obtain ⟨p, hp, rfl⟩ := List.mem_map.1 hlow
  rw [Iss.heldSet_pc] at hpc
  rw [Iss.heldNow_tags, Iss.heldNow_running] at hmerge
  have hb := regang_becomes h hnone
  rw [hmerge] at hb
  refine ⟨_, QSet.advance { x.heldSet .regang true p with quads := x.g.running }, hb, rfl, rfl, ?_, rfl, ⟨p, hp, ?_, fun p' hp' => ?_⟩, rfl⟩
  · rw [QSet.advance_pc, Iss.heldSet_pc, hpc]
  · rw [QSet.advance_fmt, Iss.heldSet_fmt]
  · have hle := (x.forall_heldNow _ _).1 hlowest p' hp'
    rwa [Iss.heldSet_quads, Iss.heldSet_quads] at hle

end

/-- Settles O13: MARK and SPLIT by their checks, REGANG by whether some quad-set is not held there. -/
theorem splitAndRegang : Obligations.SplitAndRegang :=
  ⟨fun _ _ => ⟨fun _ h => mark_cases h, fun _ _ _ hdep h => split_cases hdep h⟩,
    fun _ _ h hnone => ⟨regang_waits h hnone, regang_merges h hnone⟩⟩

/-! ## JOIN (R100 to R102, R127) -/

/-- The innermost entry is the first from the top whose mask contains the quads (R100). -/
theorem Group.innermost_of_split {g : Group} {quads : W16} {inner outer : List RecEntry} {e : RecEntry} (hs : g.rstack = inner ++ e :: outer)
    (hin : ∀ k ∈ inner, ¬InQuads quads k.quads) (he : InQuads quads e.quads) : g.innermost quads = some e := by
  have hnone : inner.find? (fun k => quadsIn quads k.quads) = none :=
    List.find?_eq_none.2 fun k hk hq => hin k hk (quadsIn_iff.1 hq)
  rw [Group.innermost, hs, List.find?_append, hnone, Option.none_or]
  exact List.find?_cons_of_pos (p := fun k : RecEntry => quadsIn quads k.quads) (quadsIn_iff.2 he)

theorem Group.innermost_of_none {g : Group} {quads : W16} (h : ∀ e ∈ g.rstack, ¬InQuads quads e.quads) : g.innermost quads = none :=
  List.find?_eq_none.2 fun e he hq => h e he (quadsIn_iff.1 hq)

/-- Quads arrive at the entry meant, where no entry above it equals it. -/
theorem arriveAt_of_split {inner outer : List RecEntry} {e : RecEntry} {quads : W16} (h : e ∉ inner) :
    arriveAt e quads (inner ++ e :: outer) = inner ++ { e with arrived := e.arrived ||| quads } :: outer := by
  induction inner with
  | nil => rw [List.nil_append, arriveAt, if_pos rfl]; rfl
  | cons k inner ih =>
    rw [List.mem_cons, not_or] at h
    rw [List.cons_append, arriveAt, if_neg (Ne.symm h.1), ih h.2, List.cons_append]

/-- The entry that the quad-set has reached, its quads marked as arrived. -/
def RecEntry.reached (e : RecEntry) (quads : W16) : RecEntry := { e with arrived := e.arrived ||| quads }

theorem RecEntry.reached_holds (e : RecEntry) (quads : W16) (q : QSet) : (e.reached quads).holds q = e.holds q := rfl

/-- The issuing group with its quad-set held at a JOIN and the arrival made, `stack` being the entries. -/
def Iss.joinNow (x : Iss) (stack : List RecEntry) : Group := { x.heldNow .join false with rstack := stack }

section
variable {s : State} {x : Iss} (h : Issues s x .join)
include h

theorem join_without_entry (hno : ∀ e ∈ x.g.rstack, ¬InQuads x.q.quads e.quads) : Traps .join s x 9 0 2 := by
  have hrun : exec .join s = .next (bodyJoin x (s.prep x)) := issue_runs h
  rw [bodyJoin, Group.innermost_of_none hno] at hrun
  exact hrun

variable {inner outer : List RecEntry} {e : RecEntry} (hs : x.g.rstack = inner ++ e :: outer)
  (hin : ∀ k ∈ inner, ¬InQuads x.q.quads k.quads) (he : InQuads x.q.quads e.quads)
include hs hin he

theorem join_in_another_clause (hc : x.q.clause.map (·.hdr) ≠ some e.rejoin) : Traps .join s x 9 0 3 := by
  have hrun : exec .join s = .next (bodyJoin x (s.prep x)) := issue_runs h
  rw [bodyJoin, Group.innermost_of_split hs hin he] at hrun
  exact hrun.trans (congrArg _ (if_pos hc))

/-- At its entry's clause the quad-set arrives and is held, and the group is looked at. -/
theorem join_arrives (hc : x.q.clause.map (·.hdr) = some e.rejoin) :
    Becomes .join s x (x.joinNow (inner ++ e.reached x.q.quads :: outer)).settle := by
  have hrun : exec .join s = .next (bodyJoin x (s.prep x)) := issue_runs h
  rw [bodyJoin, Group.innermost_of_split hs hin he] at hrun
  have hb := Becomes.of_hold (f := fun g => (g.arriveJoin e x.q.quads).settle) h.1 (fun g => Group.settle_ref _)
    (hrun.trans (congrArg _ (if_neg (not_not.2 hc))))
  have harrive : (x.heldNow .join false).arriveJoin e x.q.quads = x.joinNow (inner ++ e.reached x.q.quads :: outer) := by
    rw [Group.arriveJoin, Iss.heldNow_rstack, hs, arriveAt_of_split fun hmem => hin e hmem he]; rfl
  rwa [harrive] at hb

end

section
variable (x : Iss) (stack : List RecEntry)

/-- The arrival concerns the group's entries and quad-sets alone. -/
theorem Iss.joinNow_aside : { x.joinNow stack with rstack := x.now.rstack, qsets := x.now.qsets } = x.now := by
  rw [Iss.joinNow, Iss.heldNow]
  generalize x.now = g
  rfl

/-- Whatever entries and quad-sets stay after the arrival, the rest of the group is as the JOIN found it. -/
theorem Iss.joinNow_retag (entries : List RecEntry) (sets : List QSet) (old : List Nat) (new : Nat) :
    { ({ x.joinNow stack with rstack := entries, qsets := sets } : Group).retag old new with rstack := x.now.rstack, qsets := x.now.qsets }
      = x.now.retag old new := by
  rw [Iss.joinNow, Iss.heldNow]
  generalize x.now = g
  rfl

theorem Iss.joinNow_running : (x.joinNow stack).running = x.g.running := x.heldNow_running .join false

/-- The entry is complete with the arrival when its other running quads have arrived, each held at a JOIN (R101). -/
theorem Iss.joinNow_entryDone (e : RecEntry) : (x.joinNow stack).entryDone (e.reached x.q.quads) = true ↔
    InQuads (e.quads &&& x.g.running) (e.arrived ||| x.q.quads)
      ∧ ∀ p ∈ x.g.qsets, p.tag ≠ x.q.tag → p.quads ≠ 0 → InQuads p.quads e.quads → ∃ h, p.hold = some h ∧ h.kind = .join := by
  rw [Group.entryDone_iff, Iss.joinNow_running]
  refine and_congr_right fun _ => ((x.forall_heldNow .join false).trans (forall₂_congr fun p _ => ?_))
  rw [Iss.heldSet_quads]
  by_cases ht : p.tag = x.q.tag
  · exact iff_of_true (fun _ _ => x.heldSet_of_tag _ _ ht) fun hne => absurd ht hne
  · rw [x.heldSet_of_ne _ _ ht]
    exact ⟨fun hp _ => hp, fun hp => hp ht⟩

/-- While the issuing quad-set is held at its JOIN no REGANG of the group completes. -/
theorem Iss.joinNow_settleRegang (hq : x.q ∈ x.g.qsets) : (x.joinNow stack).settleRegang = x.joinNow stack :=
  Group.settleRegang_of_apart fun _ => (x.exists_heldNow .join false).2 ⟨x.q, hq, fun ⟨_, k, hk, hr⟩ => by
    obtain ⟨e, he, hj⟩ := x.heldSet_of_tag .join false rfl
    rw [hk, Option.some.injEq] at he
    rw [he, hj] at hr
    cases hr⟩

theorem Iss.joinNow_settle_of_none (hq : x.q ∈ x.g.qsets) (h : ∀ e ∈ stack, ¬(x.joinNow stack).entryDone e = true) :
    (x.joinNow stack).settle = x.joinNow stack := by
  rw [Group.settle, Group.settleJoins_of_none h, x.joinNow_settleRegang stack hq]

end

/-- The completion of an entry leaves its group's running quads running. -/
theorem Group.finishEntry_running {g : Group} {e : RecEntry} {p : QSet} (hp : p ∈ g.qsets) (he : e.holds p = true) :
    (g.finishEntry e).running = g.running := by
  obtain ⟨last, -, -, -, all, hall, hfin⟩ := Group.finishEntry_of_holds hp he
  refine BitVec.eq_of_getLsbD_eq fun k _ => Bool.eq_iff_iff.2 ?_
  rw [Group.getLsbD_running, Group.getLsbD_running, hfin]
  constructor
  · rintro ⟨r, hr, hk⟩
    rcases List.mem_append.1 hr with hr | hr
    · exact ⟨r, List.mem_of_mem_filter hr, hk⟩
    · rw [List.mem_singleton.1 hr, QSet.advance_quads] at hk
      obtain ⟨r, hr, -, hk⟩ := (hall k).1 hk
      exact ⟨r, hr, hk⟩
  · rintro ⟨r, hr, hk⟩
    cases hh : e.holds r with
    | false => exact ⟨r, List.mem_append_left _ (List.mem_filter.2 ⟨hr, by rw [hh]; rfl⟩), hk⟩
    | true => exact ⟨_, List.mem_append_right _ (List.mem_singleton_self _), (hall k).2 ⟨r, hr, hh, hk⟩⟩

/-- An entry is complete, and no other is: it completes, and the group is settled, for what has joined is held no more. -/
theorem Group.settle_of_one {g : Group} {inner outer : List RecEntry} {e : RecEntry} {p : QSet} (hs : g.rstack = inner ++ e :: outer)
    (hp : p ∈ g.qsets) (he : e.holds p = true) (hdone : g.entryDone e = true)
    (hopen : ∀ k ∈ inner ++ outer, ¬InQuads (k.quads &&& g.running) k.arrived) :
    g.settle = g.finishEntry e ∧ (g.finishEntry e).rstack = inner ++ outer := by
  obtain ⟨last, -, -, -, all, -, hfin⟩ := Group.finishEntry_of_holds hp he
  have hnot : e ∉ inner := fun hmem => hopen e (List.mem_append_left _ hmem) (Group.entryDone_iff.1 hdone).1
  have hstack : (g.finishEntry e).rstack = inner ++ outer := by
    rw [hfin]
    show g.rstack.erase e = _
    rw [hs, List.erase_append_right _ hnot, List.erase_cons_head]
  have hfind : g.rstack.find? g.entryDone = some e := by
    have hinner : inner.find? g.entryDone = none :=
      List.find?_eq_none.2 fun k hk => Group.not_entryDone (hopen k (List.mem_append_left _ hk))
    rw [hs, List.find?_append, hinner, Option.none_or, List.find?_cons_of_pos hdone]
  have hlen : g.rstack.length = inner.length + outer.length + 1 := by rw [hs]; simp; omega
  refine ⟨?_, hstack⟩
  rw [Group.settle, hlen, Group.settleJoins, hfind]
  show (Group.settleJoins _ (g.finishEntry e)).settleRegang = _
  rw [Group.settleJoins_of_none, Group.settleRegang_of_apart]
  · refine fun pc => ⟨QSet.advance { last with quads := all, fmt := e.fmt }, ?_, fun ⟨_, h, hh, _⟩ => ?_⟩
    · rw [hfin]
      exact List.mem_append_right _ (List.mem_singleton_self _)
    · cases hh
  · rw [hstack]
    exact fun k hk => Group.not_entryDone (by rw [Group.finishEntry_running hp he]; exact hopen k hk)

section
variable {s : State} {x : Iss} (h : Issues s x .join) {inner outer : List RecEntry} {e : RecEntry}
  (hs : x.g.rstack = inner ++ e :: outer) (hin : ∀ k ∈ inner, ¬InQuads x.q.quads k.quads) (he : InQuads x.q.quads e.quads)
  (hc : x.q.clause.map (·.hdr) = some e.rejoin) (hopen : ∀ k ∈ inner ++ outer, ¬InQuads (k.quads &&& x.g.running) k.arrived)
include h hs hin he hc hopen

/-- Before the last partner the quad-set is held, and its quads are marked as arrived. -/
theorem join_before_last (hlast : ¬(InQuads (e.quads &&& x.g.running) (e.arrived ||| x.q.quads)
      ∧ ∀ p ∈ x.g.qsets, p.tag ≠ x.q.tag → p.quads ≠ 0 → InQuads p.quads e.quads → ∃ h, p.hold = some h ∧ h.kind = .join)) :
    ∃ g, Becomes .join s x g
      ∧ g.rstack = inner ++ { e with arrived := e.arrived ||| x.q.quads } :: outer
      ∧ (∃ h, g.q? x.q.tag = some { x.q with hold := some h } ∧ h.kind = .join ∧ h.bounded = false)
      ∧ (∀ tag, tag ≠ x.q.tag → g.q? tag = x.g.q? tag)
      ∧ { g with rstack := x.now.rstack, qsets := x.now.qsets } = x.now := by
  have hb := join_arrives h hs hin he hc
  rw [Iss.joinNow_settle_of_none _ _ (State.iss_mem h.1) fun k hk => ?_] at hb
  · obtain ⟨-, hq, -⟩ := State.iss_some h.1
    obtain ⟨d, hd, hkind, hbound⟩ := x.q.held_hold .join false x.g.regs.waitlim x.kept
    refine ⟨_, hb, rfl, ⟨d, ?_, hkind, hbound⟩, fun tag ht => ?_, x.joinNow_aside _⟩
    · rw [← hd]
      refine (Group.q?_modQ x.now x.q.tag (fun q => q.held .join false x.g.regs.waitlim x.kept) fun _ => rfl).trans ?_
      rw [Iss.now, Group.q?_issued, hq, Option.map_some]
    · exact (Group.q?_modQ_ne x.now (fun q => q.held .join false x.g.regs.waitlim x.kept) (fun _ => rfl) ht).trans (Group.q?_issued ..)
  · rw [List.mem_append, List.mem_cons, or_left_comm, ← List.mem_append] at hk
    rcases hk with rfl | hk
    · rwa [Iss.joinNow_entryDone]
    · exact Group.not_entryDone (by rw [Iss.joinNow_running]; exact hopen k hk)

/-- As the last partner arrives the entry goes, and its quad-sets are one. -/
theorem join_as_last (hlast : InQuads (e.quads &&& x.g.running) (e.arrived ||| x.q.quads)
      ∧ ∀ p ∈ x.g.qsets, p.tag ≠ x.q.tag → p.quads ≠ 0 → InQuads p.quads e.quads → ∃ h, p.hold = some h ∧ h.kind = .join)
    (hne : x.q.quads ≠ 0) : ∃ g q, Becomes .join s x g
      ∧ g.rstack = inner ++ outer
      ∧ { g with rstack := x.now.rstack, qsets := x.now.qsets } = x.now.retag ((x.g.qsets.filter e.holds).map fun p => p.tag) q.tag
      ∧ q ∈ g.qsets ∧ q.fmt = e.fmt ∧ q.hold = none
      ∧ (∀ k, k < 16 → (q.quads.getLsbD k = true ↔ ∃ p ∈ x.g.qsets, InQuads p.quads e.quads ∧ p.quads.getLsbD k = true))
      ∧ (∃ p ∈ x.g.qsets, InQuads p.quads e.quads ∧ q.tag = p.tag ∧ q.pc = p.pc + 4
        ∧ ∀ p' ∈ x.g.qsets, p'.quads ≠ 0 → InQuads p'.quads e.quads → p'.pc.toNat ≤ p.pc.toNat)
      ∧ (∀ p ∈ x.g.qsets, (p.quads = 0 ∨ ¬InQuads p.quads e.quads) → p.tag ≠ x.q.tag → p ∈ g.qsets) := by
  have hq := State.iss_mem h.1
  have hb := join_arrives h hs hin he hc
  have hdone := (x.joinNow_entryDone (inner ++ e.reached x.q.quads :: outer) e).2 hlast
  generalize hJ : x.joinNow (inner ++ e.reached x.q.quads :: outer) = J at hb hdone
  have hstack : J.rstack = inner ++ e.reached x.q.quads :: outer := by rw [← hJ]; rfl
  have hqsets : J.qsets = x.g.qsets.map (x.heldSet .join false) := by rw [← hJ]; exact x.heldNow_qsets ..
  have hrunning : J.running = x.g.running := by rw [← hJ, Iss.joinNow_running]
  have hmem {p : QSet} (hp : p ∈ x.g.qsets) : x.heldSet .join false p ∈ J.qsets := by rw [hqsets]; exact List.mem_map_of_mem hp
  have hholds (p : QSet) : (e.reached x.q.quads).holds (x.heldSet .join false p) = e.holds p := by
    rw [RecEntry.reached_holds, RecEntry.holds, RecEntry.holds, Iss.heldSet_quads]
  have hissuing : (e.reached x.q.quads).holds (x.heldSet .join false x.q) = true := by rw [hholds]; exact RecEntry.holds_iff.2 ⟨hne, he⟩
  have htags : (J.qsets.filter (e.reached x.q.quads).holds).map (fun k => k.tag) = (x.g.qsets.filter e.holds).map fun k => k.tag := by
    rw [hqsets, List.filter_map, List.map_map]
    exact congr (congrArg _ (funext (x.heldSet_tag .join false))) (List.filter_congr fun p _ => hholds p)
  obtain ⟨hsettle, hleft⟩ := Group.settle_of_one hstack (hmem hq) hissuing hdone (by rwa [hrunning])
  obtain ⟨last, hin', hlast', hlater, all, hall, hfin⟩ := Group.finishEntry_of_holds (hmem hq) hissuing
  rw [hsettle] at hb
  rw [hqsets] at hin'
  obtain ⟨p, hp, rfl⟩ := List.mem_map.1 hin'
  rw [hholds] at hlast'
  refine ⟨_, QSet.advance { x.heldSet .join false p with quads := all, fmt := e.fmt }, hb, hleft, ?_, ?_, rfl, rfl, fun k _ => ?_,
    ⟨p, hp, (RecEntry.holds_iff.1 hlast').2, ?_, ?_, fun p' hp' hne' hin' => ?_⟩, fun p' hp' hout ht => ?_⟩
  · rw [hfin, htags, ← hJ, Iss.joinNow_retag, QSet.advance_tag]
  · rw [hfin]
    exact List.mem_append_right _ (List.mem_singleton_self _)
  · rw [QSet.advance_quads, hall, hqsets]
    simp only [List.mem_map, exists_exists_and_eq_and, Iss.heldSet_quads, RecEntry.holds_iff]
    refine exists_congr fun r => and_congr_right fun _ => ⟨fun ⟨⟨_, hi⟩, hk⟩ => ⟨hi, hk⟩, fun ⟨hi, hk⟩ => ⟨⟨fun h0 => ?_, hi⟩, hk⟩⟩
    simp [h0] at hk
  · rw [QSet.advance_tag, Iss.heldSet_tag]
  · rw [QSet.advance_pc, Iss.heldSet_pc]
  · have hle := hlater _ (hmem hp') (by rw [hholds]; exact RecEntry.holds_iff.2 ⟨hne', hin'⟩)
    rwa [Iss.heldSet_pc, Iss.heldSet_pc] at hle
  · have hstay : e.holds p' = false := by
      rw [← Bool.not_eq_true, RecEntry.holds_iff]
      exact fun ⟨hn, hi⟩ => hout.elim hn (fun hout => hout hi)
    rw [hfin]
    refine List.mem_append_left _ (List.mem_filter.2 ⟨?_, ?_⟩)
    · exact x.heldSet_of_ne .join false ht ▸ hmem hp'
    · rw [← x.heldSet_of_ne .join false ht, hholds, hstay]; rfl

end

/-- Settles O14: by the entry of the quad-set, and whether the entry is complete with it. -/
theorem join : Obligations.Join :=
  fun _ _ h => ⟨join_without_entry h, fun _ _ _ hs hin he => ⟨join_in_another_clause h hs hin he,
    fun hc hopen => ⟨join_before_last h hs hin he hc hopen, join_as_last h hs hin he hc hopen⟩⟩⟩

end Sys2Proof.Machine
end

section
/-! PROOFS. Lane refill (R106, R107, R129): ItemLoop. -/

namespace Sys2Proof.Machine

/-! ## The numbers below a bound that have a property, in order -/

theorem range_eq_append_cons {n l : Nat} (h : l < n) : List.range n = List.range l ++ l :: List.range' (l + 1) (n - l - 1) := by
  have happ := List.range'_append_1 (s := 0) (m := l) (n := n - l - 1 + 1)
  rw [Nat.zero_add, show l + (n - l - 1 + 1) = n by omega, List.range'_succ] at happ
  rw [List.range_eq_range', List.range_eq_range', happ]

/-- How many smaller numbers have the property too. -/
theorem getElem?_filter_range {p : Nat → Bool} {n l : Nat} (hl : l < n) (hp : p l = true) :
    ((List.range n).filter p)[(List.range l).countP p]? = some l := by
  rw [range_eq_append_cons hl, List.filter_append, List.countP_eq_length_filter, List.getElem?_append_right (le_refl _), Nat.sub_self,
    List.filter_cons_of_pos hp, List.getElem?_cons_zero]

theorem nodup_filter_range (p : Nat → Bool) (n : Nat) : ((List.range n).filter p).Nodup := List.nodup_range.filter _

theorem eq_countP_of_getElem? {p : Nat → Bool} {n l i : Nat} (h : ((List.range n).filter p)[i]? = some l) : i = (List.range l).countP p := by
  obtain ⟨hi, -⟩ := List.getElem?_eq_some_iff.1 h
  obtain ⟨hl, hp⟩ := List.mem_filter.1 (List.mem_of_getElem? h)
  exact (List.getElem?_inj hi (nodup_filter_range p n)).1 (h.trans (getElem?_filter_range (List.mem_range.1 hl) hp).symm)

/-- The first `k` of them are those with fewer than `k` before them. -/
theorem mem_take_filter_range {p : Nat → Bool} {n k l : Nat} :
    l ∈ ((List.range n).filter p).take k ↔ l < n ∧ p l = true ∧ (List.range l).countP p < k := by
  rw [List.mem_iff_getElem?]
  constructor
  · rintro ⟨i, hi⟩
    rw [List.getElem?_take] at hi
    split at hi
    · next hik =>
      obtain ⟨hl, hp⟩ := List.mem_filter.1 (List.mem_of_getElem? hi)
      exact ⟨List.mem_range.1 hl, hp, eq_countP_of_getElem? hi ▸ hik⟩
    · cases hi
  · rintro ⟨hl, hp, hk⟩
    exact ⟨_, by rw [List.getElem?_take, if_pos hk, getElem?_filter_range hl hp]⟩

/-! ## Lanes take items (R106) -/

/-- The items and the live lanes after lanes have taken items, each pair being a lane and what names its item. -/
def refilledItems (f : Nat → W32) (es : List (Nat × Nat)) (t : Tbl W32) : Tbl W32 := es.foldl (fun t e => tset 0xFFFFFFFF#32 t e.1 (f e.2)) t
def refilledLive (es : List (Nat × Nat)) (m : W64) : W64 := es.foldl (fun m e => m ||| (1#64 <<< e.1)) m

theorem Group.refills_eq (f : Nat → W32) (es : List (Nat × Nat)) (g : Group) : es.foldl (fun g e => g.refill e.1 (f e.2)) g
    = { g with regs := { g.regs with items := refilledItems f es g.regs.items, live := refilledLive es g.regs.live } } := by
  induction es generalizing g with
  | nil => rfl
  | cons e es ih => rw [List.foldl_cons, ih]; rfl

theorem bit_refilledLive (es : List (Nat × Nat)) (m : W64) {l : Nat} (hl : l < 64) :
    bit (refilledLive es m) l = (bit m l || (es.map (·.1)).contains l) := by
  induction es generalizing m with
  | nil => simp [refilledLive]
  | cons e es ih =>
    show bit (refilledLive es _) l = _
    rw [ih, bit_or_shift _ _ _ hl, List.map_cons, List.contains_cons, Bool.or_assoc]
    rfl

theorem tget_refilledItems_of_not_mem (f : Nat → W32) {es : List (Nat × Nat)} (t : Tbl W32) {l : Nat} (h : ∀ e ∈ es, e.1 ≠ l) :
    tget 0xFFFFFFFF#32 (refilledItems f es t) l = tget 0xFFFFFFFF#32 t l := by
  induction es generalizing t with
  | nil => rfl
  | cons e es ih =>
    show tget _ (refilledItems f es _) l = _
    rw [ih _ fun k hk => h k (List.mem_cons_of_mem _ hk), tget_tset_ne _ _ _ (Ne.symm (h e (List.mem_cons_self ..)))]

/-- A lane that takes an item once has it. -/
theorem tget_refilledItems_of_mem (f : Nat → W32) {es : List (Nat × Nat)} (hn : (es.map (·.1)).Nodup) (t : Tbl W32) {e : Nat × Nat}
    (he : e ∈ es) : tget 0xFFFFFFFF#32 (refilledItems f es t) e.1 = f e.2 := by
  induction es generalizing t with
  | nil => cases he
  | cons k es ih =>
    obtain ⟨hk, hn⟩ := List.nodup_cons.1 hn
    show tget _ (refilledItems f es _) _ = _
    rcases List.mem_cons.1 he with rfl | he
    · rw [tget_refilledItems_of_not_mem _ _ fun j hj h => hk (List.mem_map.2 ⟨j, hj, h⟩), tget_tset_self]
    · exact ih hn _ he

/-! ## IHEAD -/

/-- The lane is one of the passing set below the width, neither live nor dead; its place among these; and whether it takes an item (R106). -/
def Iss.wants (x : Iss) (l : Nat) : Bool := bit x.lanes l && !bit x.g.regs.live l && !bit x.g.regs.dead l
def Iss.rank (x : Iss) (l : Nat) : Nat := (List.range l).countP x.wants
def Iss.takes (x : Iss) (l : Nat) : Bool := x.wants l && decide (x.rank l < x.l.itemsLeft)

section
variable (x : Iss)

theorem refillLanes_eq : refillLanes x = ((List.range 64).filter x.wants).take x.l.itemsLeft := by
  refine congrArg (List.take _) (List.filter_congr fun l hl => ?_)
  have hl : l < 64 := List.mem_range.1 hl
  simp [Iss.wants, bit, hl]

theorem mem_refillLanes {l : Nat} : l ∈ refillLanes x ↔ l < 64 ∧ x.takes l = true := by
  rw [refillLanes_eq, mem_take_filter_range, Iss.takes, Bool.and_eq_true, decide_eq_true_eq]
  rfl

theorem nodup_refillLanes : (refillLanes x).Nodup := by
  rw [refillLanes_eq]
  exact (nodup_filter_range ..).sublist (List.take_sublist ..)

theorem length_refillLanes : (refillLanes x).length = (List.range 64).countP x.takes := by
  rw [List.countP_eq_length_filter]
  refine ((List.perm_ext_iff_of_nodup (nodup_refillLanes x) (nodup_filter_range ..)).2 fun l => ?_).length_eq
  rw [mem_refillLanes, List.mem_filter, List.mem_range]

/-- A lane's place in the refill is its rank. -/
theorem rank_of_mem_zipIdx {e : Nat × Nat} (h : e ∈ (refillLanes x).zipIdx) : e.2 = x.rank e.1 := by
  have hget := List.mem_zipIdx_iff_getElem?.1 h
  rw [refillLanes_eq, List.getElem?_take] at hget
  split at hget
  · exact eq_countP_of_getElem? hget
  · cases hget

/-- The item that the lane at a place of the refill takes (R107). -/
def Iss.item (x : Iss) (i : Nat) : W32 := BitVec.ofNat 32 (itemAt x.l.ranges (x.l.cursor + i))

theorem map_fst_zipIdx_refillLanes : (refillLanes x).zipIdx.map (·.1) = refillLanes x := List.zipIdx_map_fst ..

theorem bit_refilled {l : Nat} (hl : l < 64) :
    bit (refilledLive (refillLanes x).zipIdx x.g.regs.live) l = (bit x.g.regs.live l || x.takes l) := by
  rw [bit_refilledLive _ _ hl, map_fst_zipIdx_refillLanes]
  congr 1
  rw [Bool.eq_iff_iff, List.contains_iff_mem, mem_refillLanes, and_iff_right hl]

theorem tget_refilled {l : Nat} (hl : l < 64) : tget 0xFFFFFFFF#32 (refilledItems x.item (refillLanes x).zipIdx x.g.regs.items) l
    = if x.takes l then x.item (x.rank l) else tget 0xFFFFFFFF#32 x.g.regs.items l := by
  split
  · next ht =>
    have hmem : l ∈ (refillLanes x).zipIdx.map (·.1) := by rw [map_fst_zipIdx_refillLanes, mem_refillLanes]; exact ⟨hl, ht⟩
    obtain ⟨e, he, rfl⟩ := List.mem_map.1 hmem
    rw [tget_refilledItems_of_mem _ (by rw [map_fst_zipIdx_refillLanes]; exact nodup_refillLanes x) _ he, rank_of_mem_zipIdx x he]
  · next ht =>
    refine tget_refilledItems_of_not_mem _ _ fun e he hel => ht ?_
    exact ((mem_refillLanes x).1 (map_fst_zipIdx_refillLanes x ▸ hel ▸ List.mem_map_of_mem he)).2

/-- A lane of the passing set is live once the refill is done (R106). -/
def Iss.goesIn (x : Iss) : Prop :=
  ∃ l, l < 64 ∧ bit x.lanes l = true ∧ bit x.g.regs.dead l = false ∧ (bit x.g.regs.live l = true ∨ x.takes l = true)

theorem refill_idle_iff : (x.g.regs.live ||| maskOf fun l => (refillLanes x).contains l) &&& ~~~x.g.regs.dead &&& x.lanes = 0
    ↔ ¬x.goesIn := by
  rw [BitVec.eq_of_getLsbD_eq_iff, Iss.goesIn]
  push Not
  refine forall₂_congr fun l hl => ?_
  have htakes : (maskOf fun l => (refillLanes x).contains l).getLsbD l = x.takes l := by
    refine (bit_maskOf _ _ hl).trans ?_
    rw [Bool.eq_iff_iff, List.contains_iff_mem, mem_refillLanes, and_iff_right hl]
  simp only [BitVec.getLsbD_and, BitVec.getLsbD_or, BitVec.getLsbD_not, htakes, hl, bit]
  cases x.g.regs.live.getLsbD l <;> cases x.g.regs.dead.getLsbD l <;> cases x.lanes.getLsbD l <;> cases x.takes l <;> simp

end

/-- The launch, a group and the machine once the items have been handed out. -/
def Iss.handOut (x : Iss) (l : Launch) : Launch := { l with cursor := l.cursor + (refillLanes x).length }
def Iss.takeIn (x : Iss) (g : Group) : Group := ((refillLanes x).zipIdx).foldl (fun g e => g.refill e.1 (x.item e.2)) g
def State.refilled (s : State) (x : Iss) : State := (s.modLaunch x.l.ref x.handOut).modGroup x.g.ref x.takeIn

theorem Iss.takeIn_eq (x : Iss) (g : Group) : x.takeIn g = { g with regs := { g.regs with
    items := refilledItems x.item (refillLanes x).zipIdx g.regs.items, live := refilledLive (refillLanes x).zipIdx g.regs.live } } :=
  Group.refills_eq ..

theorem State.modLaunch_of_id (s : State) (r : Nat) {f : Launch → Launch} (hf : ∀ l, f l = l) : s.modLaunch r f = s := by
  simp [State.modLaunch, hf]

theorem State.modGroup_of_id (s : State) (r : Nat) {f : Group → Group} (hf : ∀ g, f g = g) : s.modGroup r f = s := by
  simp [State.modGroup, hf]

/-- Without a lane to take an item nothing is handed out. -/
theorem State.refilled_of_nil (s : State) {x : Iss} (h : refillLanes x = []) : s.refilled x = s := by
  rw [State.refilled, State.modLaunch_of_id _ _ fun l => by rw [Iss.handOut, h]; rfl, State.modGroup_of_id _ _ fun g => by rw [Iss.takeIn, h]; rfl]

/-- A lane that takes an item is live afterwards. -/
theorem refillLanes_of_idle {x : Iss} (h : ¬x.goesIn) : refillLanes x = [] := by
  refine List.eq_nil_iff_forall_not_mem.2 fun l hmem => h ?_
  obtain ⟨hl, ht⟩ := (mem_refillLanes x).1 hmem
  have hw := (Bool.and_eq_true _ _ ▸ ht).1
  simp only [Iss.wants, Bool.and_eq_true, Bool.not_eq_true'] at hw
  obtain ⟨⟨hin, -⟩, hdead⟩ := hw
  exact ⟨l, hl, hin, hdead, .inr ht⟩

section
variable {s : State} {x : Iss} {off : BitVec 20} (h : Issues s x (.ihead off))
include h

theorem ihead_goes_in (hin : x.goesIn) : exec (.ihead off) s = .next (((s.prep x).refilled x).advance x) := by
  have hrun : exec (.ihead off) s = .next (bodyIhead x (x.q.pc + (off.signExtend 64 <<< 2)) (s.prep x)) := issue_runs h
  exact hrun.trans (congrArg _ (if_neg fun hidle => (refill_idle_iff x).1 hidle hin))

theorem ihead_branches (hout : ¬x.goesIn) : exec (.ihead off) s = .next ((s.prep x).jump x (x.q.pc + (off.signExtend 64 <<< 2))) := by
  have hrun : exec (.ihead off) s = .next (bodyIhead x (x.q.pc + (off.signExtend 64 <<< 2)) (s.prep x)) := issue_runs h
  have hjump : bodyIhead x (x.q.pc + (off.signExtend 64 <<< 2)) (s.prep x) = ((s.prep x).refilled x).jump x (x.q.pc + (off.signExtend 64 <<< 2)) :=
    if_pos ((refill_idle_iff x).2 hout)
  rw [hrun, hjump, State.refilled_of_nil _ (refillLanes_of_idle hout)]

end

/-- What the refill leaves, the passing quad-set being changed by `k`. -/
theorem State.refilled_modQ {s : State} {x : Iss} (h : s.iss = some x) (hl : s.launch? x.l.ref = some x.l) {k : QSet → QSet}
    (hk : ∀ q, (k q).tag = q.tag) :
    let t := ((s.prep x).refilled x).modGroup x.g.ref fun g => g.modQ x.q.tag k
    ∃ g, t.group? x.g.ref = some g
      ∧ t.launch? x.l.ref = some { x.l with cursor := x.l.cursor + (List.range 64).countP x.takes }
      ∧ (∀ l, l < 64 → bit g.regs.live l = (bit x.g.regs.live l || x.takes l))
      ∧ (∀ l, l < 64 → tget 0xFFFFFFFF#32 g.regs.items l = if x.takes l then x.item (x.rank l) else tget 0xFFFFFFFF#32 x.g.regs.items l)
      ∧ { g.regs with live := x.g.regs.live, items := x.g.regs.items } = x.g.regs
      ∧ g.q? x.q.tag = some (k x.q)
      ∧ (∀ tag, tag ≠ x.q.tag → g.q? tag = x.g.q? tag)
      ∧ (∀ r, r ≠ x.g.ref → t.group? r = s.group? r) ∧ (∀ r, r ≠ x.l.ref → t.launch? r = s.launch? r)
      ∧ { t with groups := s.groups, launches := s.launches, free := s.free } = s := by
  obtain ⟨-, hq, -⟩ := State.iss_some h
  have href (g : Group) : (x.takeIn g).ref = g.ref := by rw [Iss.takeIn_eq]
  have ht : ((s.prep x).refilled x).modGroup x.g.ref (fun g => g.modQ x.q.tag k)
      = ((s.prep x).modLaunch x.l.ref x.handOut).modGroup x.g.ref fun g => (x.takeIn g).modQ x.q.tag k :=
    State.modGroup_modGroup _ _ _ href
  intro t
  have hgroup : t.group? x.g.ref = some ((x.takeIn (x.g.issued x.q)).modQ x.q.tag k) :=
    (congrArg (State.group? · x.g.ref) ht).trans
      (State.group?_modGroup_some (s := (s.prep x).modLaunch x.l.ref x.handOut) (f := fun g => (x.takeIn g).modQ x.q.tag k)
        (State.prep_group h) href)
  rw [Iss.takeIn_eq, Group.issued_regs] at hgroup
  refine ⟨_, hgroup, ?_, fun l hl => bit_refilled x hl, fun l hl => tget_refilled x hl, rfl, ?_, fun tag htag => ?_, fun r hr => ?_,
    fun r hr => State.launch?_modLaunch_ne (s.prep x) x.handOut (fun _ => rfl) hr, rfl⟩
  · rw [← length_refillLanes]
    exact (State.launch?_modLaunch (s.prep x) x.l.ref x.handOut fun _ => rfl).trans (congrArg (Option.map x.handOut) hl)
  · rw [Group.q?_modQ _ _ _ hk]
    exact congrArg (Option.map k) ((Group.q?_issued ..).trans hq)
  · rw [Group.q?_modQ_ne _ _ hk htag]
    exact Group.q?_issued ..
  · exact (congrArg (State.group? · r) ht).trans ((State.group?_modGroup_ne ((s.prep x).modLaunch x.l.ref x.handOut)
      (fun g => (x.takeIn g).modQ x.q.tag k) href hr).trans (State.prep_group_ne hr))

theorem State.jump_of_isHeader {s : State} {x : Iss} {a : W64} (h : IsHeader s x a) :
    (s.prep x).jump x a = (s.prep x).modGroup x.g.ref fun g => g.modQ x.q.tag fun q => q.goto a := if_pos h

theorem State.jump_of_not_isHeader {s : State} {x : Iss} {a : W64} (h : ¬IsHeader s x a) :
    (s.prep x).jump x a = (s.prep x).raise x 2 a 0 := if_neg h

/-- Settles O15: by whether a lane of the passing set is live after the refill. -/
theorem itemLoop : Obligations.ItemLoop := by
  intro s x
  refine ⟨fun off h hl => ⟨fun hidle hno => ?_, fun hpass => ?_⟩, fun m h => ?_⟩
  · have hidle : ¬x.goesIn := hidle
    rw [Traps, ihead_branches h hidle, State.jump_of_not_isHeader hno]
  · by_cases hin : x.goesIn
    · obtain ⟨g, hg, hlaunch, hlive, hitems, hregs, hq, hqs, hgs, hls, hrest⟩ := State.refilled_modQ h.1 hl QSet.advance_tag
      exact ⟨_, g, ihead_goes_in h hin, hg, hlaunch, hlive, hitems, hregs, fun _ => hq, fun hout => absurd hin hout, hqs, hgs, hls, hrest⟩
    · obtain ⟨g, hg, hlaunch, hlive, hitems, hregs, hq, hqs, hgs, hls, hrest⟩ :=
        State.refilled_modQ h.1 hl fun q => QSet.goto_tag q (x.q.pc + (off.signExtend 64 <<< 2))
      have hhead : IsHeader s x (x.q.pc + (off.signExtend 64 <<< 2)) := hpass.resolve_left hin
      have hrun := ihead_branches h hin
      rw [State.jump_of_isHeader hhead, ← State.refilled_of_nil (s.prep x) (refillLanes_of_idle hin)] at hrun
      exact ⟨_, g, hrun, hg, hlaunch, hlive, hitems, hregs, fun hout => absurd hout hin, fun _ => hq, hqs, hgs, hls, hrest⟩
  · have hx : exec (.idone m) s = execIdone m s := rfl
    have hb := Becomes.of_onGroup (f := fun g => { g with regs := { g.regs with live := g.regs.live &&& ~~~x.exec0 m.toNat } }) h
      (fun _ => rfl) hx rfl
    rwa [Iss.now, Group.issued_regs] at hb

end Sys2Proof.Machine
end

section
/-! PROOFS. Team barriers (R108 to R110): Barriers. -/

namespace Sys2Proof.Machine

/-! ## What the pacer, settled again, leaves alone -/

/-- Groups, memory and every team's barriers are the same. -/
structure State.BarsStay (s t : State) : Prop where
  groups : t.groups = s.groups
  dram : t.dram = s.dram
  hostMem : t.hostMem = s.hostMem
  bars : ∀ r, (t.team? r).map Team.bars = (s.team? r).map Team.bars

theorem Team.setSlot_ref (t : Team) (stage i : Nat) (k : Slot) : (t.setSlot stage i k).ref = t.ref := by unfold Team.setSlot; rfl
theorem Team.setSlot_bars (t : Team) (stage i : Nat) (k : Slot) : (t.setSlot stage i k).bars = t.bars := by unfold Team.setSlot; rfl

namespace State.BarsStay

theorem refl (s : State) : s.BarsStay s := ⟨rfl, rfl, rfl, fun _ => rfl⟩

theorem trans {s t u : State} (h : s.BarsStay t) (k : t.BarsStay u) : s.BarsStay u :=
  ⟨k.groups.trans h.groups, k.dram.trans h.dram, k.hostMem.trans h.hostMem, fun r => (k.bars r).trans (h.bars r)⟩

theorem modTeam (s : State) (r : Nat) {f : Team → Team} (href : ∀ t, (f t).ref = t.ref) (hbars : ∀ t, (f t).bars = t.bars) :
    s.BarsStay (s.modTeam r f) where
  groups := rfl
  dram := rfl
  hostMem := rfl
  bars j := by
    have hfind : (s.modTeam r f).team? j = (s.team? j).map fun t => if t.ref = r then f t else t :=
      find?_map_all s.teams Team.ref _ j fun t => by split <;> simp [href]
    rw [hfind, Option.map_map]
    congr 1
    funext t
    show (if t.ref = r then f t else t).bars = t.bars
    split
    · exact hbars t
    · rfl

theorem spadRepair (s : State) (team off n : Nat) : s.BarsStay (s.spadRepair team off n) := by
  unfold State.spadRepair
  split
  · exact refl s
  · extract_lets whole u
    have hu : s.BarsStay u := by
      unfold u
      split
      · exact refl s
      · exact modTeam s team (fun _ => rfl) fun _ => rfl
    split
    · exact hu
    · exact hu.trans ⟨rfl, rfl, rfl, fun _ => rfl⟩

theorem setSlot (s : State) (team stage i : Nat) (k : Slot) : s.BarsStay (s.setSlot team stage i k) := by
  unfold State.setSlot
  exact (modTeam s team (f := fun t => t.setSlot stage i k) (fun t => t.setSlot_ref stage i k) fun t => t.setSlot_bars stage i k).trans
    (spadRepair _ _ _ _)

theorem settlePacer (s : State) (team : Nat) : s.BarsStay (s.settlePacer team) := by
  unfold State.settlePacer
  split
  · exact refl s
  split
  · exact refl s
  split
  next q changed _ =>
    extract_lets u v
    have hu : s.BarsStay u := modTeam s team (fun _ => rfl) fun _ => rfl
    split
    · exact hu
    have hv : u.BarsStay v := by
      unfold v
      split
      · exact refl _
      · exact setSlot _ _ _ _ _
    exact hu.trans (hv.trans ⟨rfl, rfl, rfl, fun _ => rfl⟩)

end State.BarsStay

/-! ## Groups arrive (R109) -/

namespace Barrier

section
variable (b : Barrier) (g : Group)

@[simp] theorem arriveGroup_gen : (b.arriveGroup g).gen = b.gen := by unfold arriveGroup; split <;> rfl
@[simp] theorem arriveGroup_quads : (b.arriveGroup g).quads = b.quads := by unfold arriveGroup; split <;> rfl
@[simp] theorem arriveGroup_marks : (b.arriveGroup g).marks = b.marks := by unfold arriveGroup; split <;> rfl

theorem arriveGroup_eq_or : b.arriveGroup g = b ∨ (b.arriveGroup g).count ≠ 0 := by
  unfold arriveGroup
  split
  · exact .inl rfl
  · exact .inr (Nat.succ_ne_zero _)

theorem arriveGroup_count_ne_zero (h : b.count ≠ 0) : (b.arriveGroup g).count ≠ 0 := (b.arriveGroup_eq_or g).elim (fun e => by rwa [e]) id

/-- The groups that have arrived stay so, and one is added when every running quad of it has arrived. -/
theorem getLsbD_arriveGroup {n : Nat} (hn : n < 32) : (b.arriveGroup g).arrived.getLsbD n = true ↔ b.arrived.getLsbD n = true
    ∨ n = g.gix ∧ g.run ≠ .retired ∧ g.running ≠ 0 ∧ quadsIn g.running (tget 0 b.quads g.gix) = true := by
  unfold arriveGroup
  split
  · next h =>
    refine ⟨.inl, fun hor => hor.elim id ?_⟩
    rintro ⟨rfl, hrun, hne, hin⟩
    rcases h with h | h | h | h
    · exact absurd h hrun
    · exact h
    · exact absurd h hne
    · rw [hin] at h; cases h
  · next h =>
    simp only [not_or, Bool.not_eq_true, Bool.not_eq_false'] at h
    obtain ⟨hrun, -, hne, hin⟩ := h
    rw [BitVec.getLsbD_or, getLsbD_one_shift _ hn, Bool.or_eq_true, decide_eq_true_eq]
    exact or_congr_right (and_iff_left ⟨hrun, hne, hin⟩).symm

end

section
variable (gs : List Group) (b : Barrier)

theorem foldl_arriveGroup_gen : (gs.foldl arriveGroup b).gen = b.gen := by
  induction gs generalizing b with
  | nil => rfl
  | cons g gs ih => rw [List.foldl_cons, ih, arriveGroup_gen]

theorem foldl_arriveGroup_quads : (gs.foldl arriveGroup b).quads = b.quads := by
  induction gs generalizing b with
  | nil => rfl
  | cons g gs ih => rw [List.foldl_cons, ih, arriveGroup_quads]

theorem foldl_arriveGroup_marks : (gs.foldl arriveGroup b).marks = b.marks := by
  induction gs generalizing b with
  | nil => rfl
  | cons g gs ih => rw [List.foldl_cons, ih, arriveGroup_marks]

theorem foldl_arriveGroup_count_ne_zero (h : b.count ≠ 0) : (gs.foldl arriveGroup b).count ≠ 0 := by
  induction gs generalizing b with
  | nil => exact h
  | cons g gs ih => exact ih _ (b.arriveGroup_count_ne_zero g h)

/-- A barrier at which a group has arrived counts it. -/
theorem foldl_arriveGroup_eq_or : gs.foldl arriveGroup b = b ∨ (gs.foldl arriveGroup b).count ≠ 0 := by
  induction gs generalizing b with
  | nil => exact .inl rfl
  | cons g gs ih =>
    rcases b.arriveGroup_eq_or g with h | h
    · rw [List.foldl_cons, h]; exact ih b
    · exact .inr (foldl_arriveGroup_count_ne_zero gs _ h)

theorem getLsbD_foldl_arriveGroup {n : Nat} (hn : n < 32) : (gs.foldl arriveGroup b).arrived.getLsbD n = true ↔ b.arrived.getLsbD n = true
    ∨ ∃ g ∈ gs, n = g.gix ∧ g.run ≠ .retired ∧ g.running ≠ 0 ∧ quadsIn g.running (tget 0 b.quads g.gix) = true := by
  induction gs generalizing b with
  | nil => simp
  | cons g gs ih => rw [List.foldl_cons, ih, getLsbD_arriveGroup _ _ hn, arriveGroup_quads, or_assoc, List.exists_mem_cons_iff]

/-- The generation completes once groups have arrived and none that runs is missing or has an access to complete. -/
theorem settle_of_all (hc : (gs.foldl arriveGroup b).count ≠ 0)
    (h : ∀ g ∈ gs, g.run = .retired ∨ (gs.foldl arriveGroup b).arrived.getLsbD g.gix = true ∧ g.released (tget 0 b.marks g.gix) = true) :
    (b.settle gs).gen = (b.gen + 1) % 65536 ∧ (b.settle gs).count = 0 ∧ (b.settle gs).arrived = 0 ∧ (b.settle gs).quads = [] := by
  have hall : gs.all (fun g => g.run = .retired || ((gs.foldl arriveGroup b).arrived.getLsbD g.gix
      && g.released (tget 0 (gs.foldl arriveGroup b).marks g.gix))) = true := by
    rw [List.all_eq_true]
    intro g hg
    rw [foldl_arriveGroup_marks, Bool.or_eq_true, Bool.and_eq_true, decide_eq_true_eq]
    exact h g hg
  rw [settle, if_pos ⟨hc, hall⟩]
  exact ⟨by rw [foldl_arriveGroup_gen], rfl, rfl, rfl⟩

/-- It stays while a group that runs has not arrived. -/
theorem settle_of_missing {g : Group} (hg : g ∈ gs) (hrun : g.run ≠ .retired) (h : (gs.foldl arriveGroup b).arrived.getLsbD g.gix = false) :
    b.settle gs = gs.foldl arriveGroup b := by
  refine if_neg fun hall => ?_
  have := List.all_eq_true.1 hall.2 g hg
  simp [hrun, h] at this

end

end Barrier

/-! ## The team's groups, the issuing one's turn having been counted -/

section
variable (g : Group) (q : QSet)

@[simp] theorem Group.issued_gix : (g.issued q).gix = g.gix := by unfold Group.issued; split <;> rfl
@[simp] theorem Group.issued_run : (g.issued q).run = g.run := by unfold Group.issued; split <;> rfl
@[simp] theorem Group.issued_running : (g.issued q).running = g.running := by simp [Group.running]

/-- The turn taken leaves what a group has to make (R111). -/
theorem Group.accesses_issued {f : Flight} (hf : f ∈ (g.issued q).unfinished) : ∃ k ∈ g.unfinished, k.accesses = f.accesses := by
  unfold Group.issued at hf
  split at hf
  · exact ⟨f, hf, rfl⟩
  · simp only [Group.unfinished, List.append_assoc, List.mem_append, List.mem_map] at hf ⊢
    rcases hf with ⟨k, hk, rfl⟩ | hf
    · exact ⟨k, .inl hk, rfl⟩
    · exact ⟨f, .inr hf, rfl⟩

theorem Group.released_of_no_accesses (h : ∀ f ∈ g.unfinished, f.accesses = false) (mark : Nat) : (g.issued q).released mark = true :=
  List.all_eq_true.2 fun f hf => by
    obtain ⟨k, hk, he⟩ := g.accesses_issued q hf
    rw [← he, h k hk, Bool.not_false, Bool.or_true]

end

theorem State.mem_groupsOf {s : State} {team : Nat} {g : Group} : g ∈ s.groupsOf team ↔ g ∈ s.groups ∧ g.team = team := by
  simp [State.groupsOf]

theorem State.mem_groupsOf_prep {s : State} {x : Iss} {team : Nat} {g : Group} : g ∈ (s.prep x).groupsOf team
    ↔ ∃ k ∈ s.groupsOf team, g = if k.ref = x.g.ref then k.issued x.q else k := by
  simp only [State.mem_groupsOf]
  constructor
  · rintro ⟨hg, rfl⟩
    obtain ⟨k, hk, rfl⟩ := List.mem_map.1 hg
    refine ⟨k, ⟨hk, ?_⟩, rfl⟩
    split <;> simp
  · rintro ⟨k, ⟨hk, rfl⟩, rfl⟩
    exact ⟨List.mem_map.2 ⟨k, hk, rfl⟩, by split <;> simp⟩

/-- The issuing group's team is that of the issue, and the group is one of the team's. -/
theorem State.iss_team {s : State} {x : Iss} (h : s.iss = some x) : s.team? x.t.ref = some x.t ∧ x.g ∈ s.groupsOf x.t.ref := by
  obtain ⟨hg, -, hhome, -⟩ := State.iss_some h
  obtain ⟨ht, -⟩ := State.homeOf_some hhome
  have href := State.ref_of_team? ht
  exact ⟨href ▸ ht, State.mem_groupsOf.2 ⟨List.mem_of_find?_eq_some hg, href.symm⟩⟩

/-! ## Quads arrive (R109, R110) -/

theorem tget_map_tput {α : Type} (d : α) (f : α → α) (t : Tbl α) (k : Nat) (v : α) :
    tget d ((tput t k v).map fun e => (e.1, f e.2)) k = f v := by
  induction t with
  | nil => simp [tput, tget]
  | cons e t ih =>
    obtain ⟨i, u⟩ := e
    unfold tput
    split
    · simp [tget]
    · split
      · simp [tget]
      · next hne => simp [tget, Ne.symm hne, ih]

/-- The barrier after quads of the issuing group have arrived. -/
def Iss.arrived (x : Iss) (s : State) (bar : Nat) (quads : W16) : Barrier :=
  ((x.t.bar bar).arrive x.g.gix quads s.next).settle ((s.prep x).groupsOf x.t.ref)

theorem arriveBar_stays {s : State} {x : Iss} (h : s.iss = some x) (bar : Nat) (quads : W16) :
    ∃ k, (arriveBar x bar quads (s.prep x)).team? x.t.ref = some k ∧ k.bar bar = x.arrived s bar quads
      ∧ (arriveBar x bar quads (s.prep x)).groups = (s.prep x).groups ∧ (arriveBar x bar quads (s.prep x)).dram = s.dram
      ∧ (arriveBar x bar quads (s.prep x)).hostMem = s.hostMem := by
  obtain ⟨hteam, -⟩ := State.iss_team h
  have hteam : (s.prep x).team? x.t.ref = some x.t := hteam
  have harrive := State.team?_modTeam_some (f := fun t => { t with bars := tput t.bars bar ((t.bar bar).arrive x.g.gix quads s.next) })
    hteam fun _ => rfl
  have hsettle := State.team?_modTeam_some (f := Team.settleBars ((s.prep x).groupsOf x.t.ref)) harrive fun _ => rfl
  have hstay := State.BarsStay.settlePacer (((s.prep x).modTeam x.t.ref fun t =>
    { t with bars := tput t.bars bar ((t.bar bar).arrive x.g.gix quads s.next) }).modTeam x.t.ref
      (Team.settleBars ((s.prep x).groupsOf x.t.ref))) x.t.ref
  have hbars := hstay.bars x.t.ref
  rw [hsettle, Option.map_some, Option.map_eq_some_iff] at hbars
  obtain ⟨k, hk, hbars⟩ := hbars
  refine ⟨k, hk, ?_, hstay.groups, hstay.dram, hstay.hostMem⟩
  rw [Team.bar, hbars]
  exact tget_map_tput _ _ _ _ _

/-- What an instruction leaves that makes quads of the issuing group arrive and then changes its quad-set. -/
theorem arriveBar_modQ {s : State} {x : Iss} (h : s.iss = some x) (bar : Nat) (quads : W16) (f : Group → QSet → QSet) (hf : ∀ g q, (f g q).tag = q.tag) :
    let t := (arriveBar x bar quads (s.prep x)).modGroup x.g.ref fun g => g.modQ x.q.tag (f g)
    ∃ g k, t.group? x.g.ref = some g ∧ g.q? x.q.tag = some (f x.now x.q) ∧ g.regs = x.g.regs
      ∧ t.team? x.t.ref = some k ∧ k.bar bar = x.arrived s bar quads
      ∧ (∀ r, r ≠ x.g.ref → t.group? r = s.group? r) ∧ t.dram = s.dram ∧ t.hostMem = s.hostMem := by
  obtain ⟨k, hk, hbar, hgroups, hdram, hhost⟩ := arriveBar_stays h bar quads
  obtain ⟨-, hq, -⟩ := State.iss_some h
  have hfind (r : Nat) : (arriveBar x bar quads (s.prep x)).group? r = (s.prep x).group? r := congrArg (List.find? _) hgroups
  refine ⟨x.now.modQ x.q.tag (f x.now), k, State.group?_modGroup_some ((hfind _).trans (State.prep_group h)) fun _ => rfl, ?_,
    Group.issued_regs .., hk, hbar, fun r hr => ?_, hdram, hhost⟩
  · rw [Group.q?_modQ _ _ _ (hf _), Iss.now, Group.q?_issued, hq, Option.map_some]
  · exact (State.group?_modGroup_ne _ (fun g => g.modQ x.q.tag (f g)) (fun _ => rfl) hr).trans ((hfind r).trans (State.prep_group_ne hr))

/-! ## The instructions -/

section
variable {s : State} {x : Iss} {bar : BitVec 4} (hhold : x.q.hold = none)
include hhold

/-- Quads that arrive for the first time in a generation make BARSYNC and BARARR count them (R109). -/
theorem bodyArrive_of_first (after : Nat → State → State) (hfirst : x.q.quads &&& tget 0 (x.t.bar bar.toNat).quads x.g.gix = 0) (s : State) :
    bodyArrive x bar.toNat after s = after (x.t.bar bar.toNat).gen (arriveBar x bar.toNat x.q.quads s) := by
  have hall : x.q.quads &&& ~~~0 = x.q.quads := BitVec.and_allOnes
  unfold bodyArrive
  simp only [hhold, Option.map_none, hfirst, hall, if_true]

theorem barsync_runs (h : Issues s x (.barsync bar)) (hfirst : x.q.quads &&& tget 0 (x.t.bar bar.toNat).quads x.g.gix = 0) :
    exec (.barsync bar) s = .next (waitGen x bar.toNat (x.t.bar bar.toNat).gen (arriveBar x bar.toNat x.q.quads (s.prep x))) := by
  have hrun : exec (.barsync bar) s = .next (bodyArrive x bar.toNat (fun gen => waitGen x bar.toNat gen) (s.prep x)) :=
    issue_runs (body := fun x => bodyArrive x bar.toNat fun gen => waitGen x bar.toNat gen) h
  rw [hrun, bodyArrive_of_first hhold _ hfirst]

theorem bararr_runs (h : Issues s x (.bararr bar)) (hfirst : x.q.quads &&& tget 0 (x.t.bar bar.toNat).quads x.g.gix = 0) :
    exec (.bararr bar) s = .next ((arriveBar x bar.toNat x.q.quads (s.prep x)).advance x) := by
  have hrun : exec (.bararr bar) s = .next (bodyArrive x bar.toNat (fun _ s => s.advance x) (s.prep x)) :=
    issue_runs (body := fun x => bodyArrive x bar.toNat fun _ s => s.advance x) h
  rw [hrun, bodyArrive_of_first hhold _ hfirst]

theorem barwait_cases (h : Issues s x (.barwait bar)) :
    let b := x.t.bar bar.toNat
    let stays := b.arrived.getLsbD x.g.gix = true ∧ b.gen = (tget 0 b.last x.g.gix).toNat
    (¬stays → GoesOn (.barwait bar) s x) ∧ (stays → Waits (.barwait bar) s x (.barrier bar.toNat b.gen) true) := by
  intro b stays
  have hrun : exec (.barwait bar) s = .next (bodyBarwait x bar.toNat (s.prep x)) := issue_runs (body := fun x => bodyBarwait x bar.toNat) h
  have hbody : bodyBarwait x bar.toNat (s.prep x)
      = if stays then (s.prep x).hold x (.barrier bar.toNat (tget 0 b.last x.g.gix).toNat) true else (s.prep x).advance x := by
    unfold bodyBarwait
    simp only [hhold, Option.map_none]
    rfl
  refine ⟨fun hno => .of_advance h.1 (by rw [hrun, hbody, if_neg hno]), fun hstays => .of_hold h.1 ?_⟩
  rw [hrun, hbody, if_pos hstays, hstays.2]

end

theorem waitGen_of_ne {s : State} {x : Iss} {bar gen : Nat} {k : Team} (hk : s.team? x.t.ref = some k) (h : (k.bar bar).gen ≠ gen) :
    waitGen x bar gen s = s.advance x := by
  have hgen : barGen s x bar = (k.bar bar).gen := by simp [barGen, hk]
  rw [waitGen, hgen, if_pos h]

theorem waitGen_of_eq {s : State} {x : Iss} {bar gen : Nat} {k : Team} (hk : s.team? x.t.ref = some k) (h : (k.bar bar).gen = gen) :
    waitGen x bar gen s = s.hold x (.barrier bar gen) true := by
  have hgen : barGen s x bar = (k.bar bar).gen := by simp [barGen, hk]
  rw [waitGen, hgen, if_neg (not_not.2 h)]

/-! ## Arrivals, the last and earlier ones -/

section
variable {s : State} {x : Iss} {bar : Nat}

/-- With the last arrival the generation completes (R109, R111). -/
theorem Iss.arrived_as_last (h : s.iss = some x) (hin : InQuads x.g.running (tget 0 (x.t.bar bar).quads x.g.gix ||| x.q.quads)) (hrun : x.g.run = .run)
    (hne : x.g.running ≠ 0) (hgix : x.g.gix < 32) (hopen : (x.t.bar bar).arrived.getLsbD x.g.gix = false)
    (hothers : ∀ k ∈ (s.groupsOf x.t.ref).filter fun k => k.ref ≠ x.g.ref, k.gix ≠ x.g.gix ∧ (k.run = .retired
      ∨ (x.t.bar bar).arrived.getLsbD k.gix = true ∧ k.released (tget 0 (x.t.bar bar).marks k.gix) = true))
    (hdone : ∀ f ∈ x.g.unfinished, f.accesses = false) (hone : ∀ k ∈ s.groups, k.ref = x.g.ref → k = x.g) :
    let b := x.arrived s bar x.q.quads
    b.gen = ((x.t.bar bar).gen + 1) % 65536 ∧ b.count = 0 ∧ b.arrived = 0 ∧ b.quads = [] := by
  obtain ⟨-, hmem⟩ := State.iss_team h
  have hnow : x.now ∈ (s.prep x).groupsOf x.t.ref := State.mem_groupsOf_prep.2 ⟨x.g, hmem, (if_pos rfl).symm⟩
  have hquads : tget 0 ((x.t.bar bar).arrive x.g.gix x.q.quads s.next).quads x.g.gix = tget 0 (x.t.bar bar).quads x.g.gix ||| x.q.quads :=
    tget_tset_self ..
  have hhere : (((s.prep x).groupsOf x.t.ref).foldl Barrier.arriveGroup ((x.t.bar bar).arrive x.g.gix x.q.quads s.next)).arrived.getLsbD
      x.g.gix = true := by
    refine (Barrier.getLsbD_foldl_arriveGroup _ _ hgix).2 (.inr ⟨x.now, hnow, ?_⟩)
    rw [Iss.now, Group.issued_gix, Group.issued_run, Group.issued_running, hrun, hquads]
    exact ⟨rfl, by decide, hne, quadsIn_iff.2 hin⟩
  refine Barrier.settle_of_all _ _ ?_ fun g hg => ?_
  · refine (Barrier.foldl_arriveGroup_eq_or _ _).resolve_left fun he => ?_
    rw [he] at hhere
    exact Bool.false_ne_true (hopen.symm.trans hhere)
  · obtain ⟨k, hk, rfl⟩ := State.mem_groupsOf_prep.1 hg
    obtain ⟨hks, -⟩ := State.mem_groupsOf.1 hk
    split
    · next href =>
      obtain rfl := hone k hks href
      rw [Group.issued_gix]
      exact .inr ⟨hhere, Group.released_of_no_accesses _ _ hdone _⟩
    · next href =>
      obtain ⟨hkg, hk⟩ := hothers k (List.mem_filter.2 ⟨hk, decide_eq_true href⟩)
      refine hk.imp_right fun ⟨harr, hrel⟩ => ⟨?_, ?_⟩
      · by_cases hlt : k.gix < 32
        · exact (Barrier.getLsbD_foldl_arriveGroup _ _ hlt).2 (.inl harr)
        · exact absurd (BitVec.lt_of_getLsbD harr) hlt
      · rwa [show ((x.t.bar bar).arrive x.g.gix x.q.quads s.next).marks = tset 0 (x.t.bar bar).marks x.g.gix s.next from rfl,
          tget_tset_ne _ _ _ hkg]

/-- While some group is still to come, the generation stays, and the quads are counted (R109). -/
theorem Iss.arrived_before_last (hmiss : ∃ k ∈ (s.groupsOf x.t.ref).filter fun k => k.ref ≠ x.g.ref, k.run ≠ .retired ∧ k.gix ≠ x.g.gix
      ∧ (x.t.bar bar).arrived.getLsbD k.gix = false ∧ ¬InQuads k.running (tget 0 (x.t.bar bar).quads k.gix)
      ∧ ∀ j ∈ s.groupsOf x.t.ref, j ≠ k → j.gix ≠ k.gix) :
    let b := x.arrived s bar x.q.quads
    b.gen = (x.t.bar bar).gen ∧ tget 0 b.quads x.g.gix = tget 0 (x.t.bar bar).quads x.g.gix ||| x.q.quads := by
  obtain ⟨k, hk, hrun, hgix, hopen, hout, hone⟩ := hmiss
  obtain ⟨hk, href⟩ := List.mem_filter.1 hk
  have href : k.ref ≠ x.g.ref := of_decide_eq_true href
  have hmem : k ∈ (s.prep x).groupsOf x.t.ref := State.mem_groupsOf_prep.2 ⟨k, hk, (if_neg href).symm⟩
  have hquads : tget 0 ((x.t.bar bar).arrive x.g.gix x.q.quads s.next).quads k.gix = tget 0 (x.t.bar bar).quads k.gix :=
    tget_tset_ne _ _ _ hgix
  have hstill : (((s.prep x).groupsOf x.t.ref).foldl Barrier.arriveGroup ((x.t.bar bar).arrive x.g.gix x.q.quads s.next)).arrived.getLsbD
      k.gix = false := by
    rw [← Bool.not_eq_true]
    intro harr
    rcases (Barrier.getLsbD_foldl_arriveGroup _ _ (BitVec.lt_of_getLsbD harr)).1 harr with harr | ⟨g, hg, hgg, -, -, hin⟩
    · exact Bool.false_ne_true (hopen.symm.trans harr)
    · obtain ⟨j, hj, rfl⟩ := State.mem_groupsOf_prep.1 hg
      have hjg : j.gix = k.gix := by
        rw [hgg]
        split <;> simp
      obtain rfl : j = k := by_contra fun hne => hone j hj hne hjg
      rw [if_neg href, hquads] at hin
      exact hout (quadsIn_iff.1 hin)
  intro b
  have hb : b = _ := Barrier.settle_of_missing _ _ hmem hrun hstill
  rw [hb]
  exact ⟨Barrier.foldl_arriveGroup_gen .., by rw [Barrier.foldl_arriveGroup_quads]; exact tget_tset_self ..⟩

end

/-- Settles O16: an arrival by whether it completes the generation, BARWAIT by whether the group's last arrival is open. -/
theorem barriers : Obligations.Barriers := by
  intro s x bar hhold b had others
  refine ⟨fun i hi h hfirst => ⟨fun hin hrun hne hgix hopen hothers hdone hone => ?_, fun hmiss => ?_⟩, fun h => barwait_cases hhold h⟩
  · obtain ⟨hgen, hcount, harr, hquads⟩ := Iss.arrived_as_last h.1 hin hrun hne hgix hopen hothers hdone hone
    obtain ⟨g, k, hg, hq, hregs, hk, hbar, hgs, hdram, hhost⟩ := arriveBar_modQ h.1 bar.toNat x.q.quads (fun _ => QSet.advance) fun _ => QSet.advance_tag
    have hexec : exec i s = .next ((arriveBar x bar.toNat x.q.quads (s.prep x)).advance x) := by
      rcases hi with rfl | rfl
      · refine (barsync_runs hhold h hfirst).trans (congrArg _ (waitGen_of_ne hk ?_))
        rw [hbar, hgen]
        omega
      · exact bararr_runs hhold h hfirst
    rw [← hbar] at hgen hcount harr hquads
    exact ⟨_, g, k, hexec, hg, hq, hregs, hk, hgen, hcount, harr, hquads, hgs, hdram, hhost⟩
  · obtain ⟨hgen, hquads⟩ := Iss.arrived_before_last hmiss
    rcases hi with rfl | rfl
    · obtain ⟨g, k, hg, hq, hregs, hk, hbar, hgs, hdram, hhost⟩ := arriveBar_modQ h.1 bar.toNat x.q.quads
        (fun g q => q.held (.barrier bar.toNat b.gen) true g.regs.waitlim x.kept) fun _ _ => rfl
      rw [← hbar] at hgen hquads
      have hexec := (barsync_runs hhold h hfirst).trans (congrArg _ (waitGen_of_eq hk hgen))
      rw [QSet.held, hhold, Iss.now, Group.issued_regs] at hq
      exact ⟨_, g, k, hexec, hg, hregs, nofun, fun _ => hq, hk, hgen, hquads, hgs, hdram, hhost⟩
    · obtain ⟨g, k, hg, hq, hregs, hk, hbar, hgs, hdram, hhost⟩ := arriveBar_modQ h.1 bar.toNat x.q.quads (fun _ => QSet.advance) fun _ => QSet.advance_tag
      rw [← hbar] at hgen hquads
      exact ⟨_, g, k, bararr_runs hhold h hfirst, hg, hregs, fun _ => hq, nofun, hk, hgen, hquads, hgs, hdram, hhost⟩

end Sys2Proof.Machine
end

section
/-! PROOFS. The checks of a memory access (R112, R178, R179, R182): AccessRefused. -/

namespace Sys2Proof.Machine

/-! ## The checks of R178, one at a time -/

/-- The offset that an access has in the scratchpad, or else its address. -/
def Ask.reportedAt (k : Ask) (s : State) (x : Iss) : Nat :=
  match (match k.target x (s.ctx x.l.cid) with | some (.spad o) => some o | _ => none) with
  | some o => o
  | none => k.addr

theorem Ask.reportedAt_eq (k : Ask) (s : State) (x : Iss) : k.reportedAt s x = k.position s x := by
  unfold Ask.reportedAt Ask.position
  cases k.target x (s.ctx x.l.cid) with
  | none => rfl
  | some t => cases t <;> rfl

/-- A handler's offset that lies in the matrix arrays instead of the scratchpad (R149). -/
def Ask.inArrays (k : Ask) (x : Iss) : Bool := k.offset && x.g.hlevel != 0 && decide (2 ^ 31 ≤ k.addr)

/-- The permission that the check of a segment asks for, none being asked of the matrix arrays but that they are not written. -/
theorem Ask.fails_perm_iff {k : Ask} {s : State} {x : Iss} {u : AccUse} {size : Nat} : k.Fails s x u size 3 ↔
    if k.inArrays x then u.writes = true else k.offset = false ∧ ∃ n, (s.ctx x.l.cid).segOf k.addr = some n
      ∧ (u.reads = true ∧ ((s.ctx x.l.cid).seg n 3).getLsbD 0 = false ∨ u.writes = true ∧ ((s.ctx x.l.cid).seg n 3).getLsbD 1 = false) := Iff.rfl

/-- The checks, as `checkAll` makes them in turn over all lanes. -/
def Ask.bad (k : Ask) (s : State) (x : Iss) (u : AccUse) (size : Nat) : Nat → Bool
  | 0 => !k.offset && decide (2 ^ 48 ≤ k.addr)
  | 1 => !k.offset && !leaseOk x.l.leases u.writes k.addr size
  | 2 => !k.offset && ((s.ctx x.l.cid).place k.addr).isNone
  | 3 =>
    let w := (s.ctx x.l.cid).seg ((((s.ctx x.l.cid).place k.addr).map (·.1)).getD 0) 3
    if k.inArrays x then u.writes else !k.offset && ((u.reads && !bit w 0) || (u.writes && !bit w 1))
  | 4 => match k.target x (s.ctx x.l.cid) with | some t => kindRefuses u (s.tenant x.l.tid).channels t | none => false
  | 5 => match k.target x (s.ctx x.l.cid) with
    | some (.matrix arr o) => decide (aliasSize arr ≤ o)
    | some (.spad o) => decide (x.t.spadBytes ≤ o)
    | _ => false
  | _ => k.reportedAt s x % size != 0

/-- What each of them answers where it fails. -/
def Ask.denied (k : Ask) (s : State) (x : Iss) : Nat → Denied
  | 0 => denyAt tcPerm k.addr k.lane 6
  | 1 => .lease
  | 2 => denyAt tcPerm k.addr k.lane 1
  | 3 => denyAt tcPerm k.addr k.lane 2
  | 4 => denyAt tcPerm k.addr k.lane 5
  | 5 => denyAt tcPerm (k.reportedAt s x) k.lane 3
  | _ => denyAt tcMisalign k.addr k.lane 0

section
variable (s : State) (x : Iss) (u : AccUse) (size : Nat) (as : List Ask)

/-- The checks of a list in turn, and then whether the lanes agree (R112). -/
def checksOf : List Nat → Option Denied
  | [] => (uniformFail x (s.ctx x.l.cid) u as).map fun e => .trap tcUniform (BitVec.ofNat 64 e.1) (BitVec.ofNat 64 e.2)
  | n :: ns => match as.find? fun k => k.bad s x u size n with
    | some k => some (k.denied s x n)
    | none => checksOf ns

theorem checkAll_eq : checkAll x (s.ctx x.l.cid) (s.tenant x.l.tid).channels u size as = checksOf s x u size as (List.range 7) := rfl

end

/-! ## A check is that of the rule -/

theorem Ctx.place_isNone (c : Ctx) (va : Nat) : (c.place va).isNone = true ↔ c.segOf va = none := by
  unfold Ctx.place
  cases c.segOf va <;> simp

theorem Ctx.place_seg {c : Ctx} {va n : Nat} (h : c.segOf va = some n) : ((c.place va).map (·.1)).getD 0 = n := by
  simp [Ctx.place, h]

theorem leaseOk_eq_false_iff {ls : List Lease} {w : Bool} {a n : Nat} : leaseOk ls w a n = false
    ↔ ∃ b, b < n ∧ ∀ e ∈ ls, ¬(e.base ≤ a + b ∧ a + b < e.base + e.len ∧ (w = true → e.rw = true)) := by
  have hrw (e : Lease) : (!w || e.rw) = true ↔ (w = true → e.rw = true) := by cases w <;> simp
  simp only [leaseOk, leaseByte, ← Bool.not_eq_true, List.all_eq_true, List.any_eq_true, List.mem_range, Bool.and_eq_true, decide_eq_true_eq, hrw,
    not_forall, exists_prop, not_exists, not_and, and_assoc]

/-- A kind does not take the access (R182, R266). -/
theorem kindRefuses_iff {u : AccUse} {channels : Nat} {t : Target} : kindRefuses u channels t = true ↔ ∃ va o, t = .aperture va o
    ∧ ((u ≠ .load ∧ u ≠ .store8 ∧ u ≠ .cacheOp) ∨ u ≠ .cacheOp ∧ channels ≤ o / 4096) := by
  cases t with
  | aperture va o => cases u <;> simp [kindRefuses]
  | _ => simp [kindRefuses]

section
variable {s : State} {x : Iss} {u : AccUse} {size : Nat} {k : Ask}

theorem Ask.bad_perm_iff (hseg : ¬k.Fails s x u size 2) : k.bad s x u size 3 = true ↔ k.Fails s x u size 3 := by
  simp only [Ask.bad, Ask.fails_perm_iff]
  split
  · rfl
  · cases hoff : k.offset with
    | true => simp
    | false =>
      obtain ⟨n, hn⟩ := Option.ne_none_iff_exists'.1 fun h => hseg ⟨hoff, h⟩
      simp [Ctx.place_seg hn, hn, bit]

theorem Ask.bad_kind_iff : k.bad s x u size 4 = true ↔ k.Fails s x u size 4 := by
  simp only [Ask.bad, Ask.Fails]
  cases k.target x (s.ctx x.l.cid) with
  | none => simp
  | some t => simp only [kindRefuses_iff, Option.some.injEq]

theorem Ask.bad_bound_iff : k.bad s x u size 5 = true ↔ k.Fails s x u size 5 := by
  simp only [Ask.bad, Ask.Fails]
  cases k.target x (s.ctx x.l.cid) with
  | none => simp
  | some t => cases t <;> simp

/-- The model makes each check as the rule has it, that of a segment's permission where there is a segment. -/
theorem Ask.bad_iff (n : Nat) (hseg : n = 3 → ¬k.Fails s x u size 2) : k.bad s x u size n = true ↔ k.Fails s x u size n := by
  match n with
  | 0 => simp [Ask.bad, Ask.Fails]
  | 1 => simp [Ask.bad, Ask.Fails, leaseOk_eq_false_iff]
  | 2 => simp only [Ask.bad, Ask.Fails, Bool.and_eq_true, Bool.not_eq_true', Ctx.place_isNone]
  | 3 => exact Ask.bad_perm_iff (hseg rfl)
  | 4 => exact Ask.bad_kind_iff
  | 5 => exact Ask.bad_bound_iff
  | n + 6 => simp [Ask.bad, Ask.Fails, Ask.reportedAt_eq]

end

/-! ## The first check that fails -/

section
variable {s : State} {x : Iss} {u : AccUse} {size : Nat} {as : List Ask}

theorem checksOf_of_fails {k : Ask} {before after : List Nat} {n : Nat} (hbefore : ∀ c ∈ before, ∀ a ∈ as, ¬a.bad s x u size c = true)
    (hk : as.find? (fun a => a.bad s x u size n) = some k) : checksOf s x u size as (before ++ n :: after) = some (k.denied s x n) := by
  induction before with
  | nil => rw [List.nil_append, checksOf, hk]
  | cons c before ih =>
    rw [List.cons_append, checksOf, List.find?_eq_none.2 (hbefore c (List.mem_cons_self ..))]
    exact ih fun d hd => hbefore d (List.mem_cons_of_mem _ hd)

theorem checksOf_of_passes {ns : List Nat} (h : ∀ n ∈ ns, ∀ a ∈ as, ¬a.bad s x u size n = true) : checksOf s x u size as ns
    = (uniformFail x (s.ctx x.l.cid) u as).map fun e => .trap tcUniform (BitVec.ofNat 64 e.1) (BitVec.ofNat 64 e.2) := by
  induction ns with
  | nil => rfl
  | cons n ns ih =>
    rw [checksOf, List.find?_eq_none.2 (h n (List.mem_cons_self ..))]
    exact ih fun c hc => h c (List.mem_cons_of_mem _ hc)

/-- The first check that fails decides, at the first access at which it fails (R178). -/
theorem checkAll_of_fails {before after : List Ask} {k : Ask} {n : Nat} (has : as = before ++ k :: after) (hn : n < 7)
    (hk : k.Fails s x u size n) (hbefore : ∀ a ∈ before, ¬a.Fails s x u size n) (hearlier : ∀ a ∈ as, ∀ c < n, ¬a.Fails s x u size c) :
    checkAll x (s.ctx x.l.cid) (s.tenant x.l.tid).channels u size as = some (k.denied s x n) := by
  have hiff (c : Nat) (hc : c ≤ n) (a : Ask) (ha : a ∈ as) : a.bad s x u size c = true ↔ a.Fails s x u size c :=
    Ask.bad_iff c fun h3 => hearlier a ha 2 (by omega)
  have hfind : as.find? (fun a => a.bad s x u size n) = some k := by
    refine List.find?_eq_some_iff_append.2 ⟨(hiff n le_rfl k (by simp [has])).2 hk, before, after, has, fun a ha => ?_⟩
    rw [Bool.not_eq_true', ← Bool.not_eq_true, hiff n le_rfl a (by simp [has, ha])]
    exact hbefore a ha
  rw [checkAll_eq, range_eq_append_cons hn]
  refine checksOf_of_fails (fun c hc a ha => ?_) hfind
  have hlt := List.mem_range.1 hc
  rw [hiff c hlt.le a ha]
  exact hearlier a ha c hlt

/-- Where every check holds only the lanes may still disagree (R112). -/
theorem checkAll_of_passes (h : ∀ a ∈ as, ∀ n < 7, ¬a.Fails s x u size n) :
    checkAll x (s.ctx x.l.cid) (s.tenant x.l.tid).channels u size as
      = (uniformFail x (s.ctx x.l.cid) u as).map fun e => .trap tcUniform (BitVec.ofNat 64 e.1) (BitVec.ofNat 64 e.2) := by
  rw [checkAll_eq]
  refine checksOf_of_passes fun n hn a ha => ?_
  rw [Ask.bad_iff n fun _ => h a ha 2 (by omega)]
  exact h a ha n (List.mem_range.1 hn)

end

/-- A refused access does what the failing check says (R178). -/
theorem refused_of_deny {s : State} {x : Iss} {i : Instr} {k : Ask} {n : Nat} (h : s.iss = some x) (hn : n < 7)
    (hx : exec i s = .next ((s.prep x).deny x (k.denied s x n))) : Refused i s x k n := by
  match n, hn with
  | 0, _ => exact hx
  | 1, _ => exact ⟨_, hx, State.prep_endTeam h 1 .none⟩
  | 2, _ => exact hx
  | 3, _ => exact hx
  | 4, _ => exact hx
  | 5, _ =>
    rw [Ask.denied, Ask.reportedAt_eq] at hx
    exact hx
  | 6, _ => exact hx

/-! ## Memory instructions and their accesses (R177, R181, R186) -/

theorem Group.spanAt_length (g : Group) (count align level n : Nat) : ∀ os ∈ g.spanAt count align level n, os.length = count := by
  have hmap (f : Nat → Loc) : ∀ os ∈ some ((List.range count).map f), os.length = count := by rintro _ ⟨⟩; simp
  have hnone : ∀ os ∈ (none : Option (List Loc)), os.length = count := nofun
  have hif (p : Prop) [Decidable p] (f : Nat → Loc) : ∀ os ∈ if p then some ((List.range count).map f) else none, os.length = count := by
    split
    · exact hmap f
    · exact hnone
  have hunless (p : Prop) [Decidable p] (f : Nat → Loc) : ∀ os ∈ if p then none else some ((List.range count).map f), os.length = count := by
    split
    · exact hnone
    · exact hmap f
  induction level generalizing n with
  | zero => exact hif _ _
  | succ level ih =>
    unfold Group.spanAt
    split
    · exact hif _ _
    split
    · exact hif _ _
    extract_lets d
    split
    · split
      · exact ih _
      · exact hif _ _
    · exact hunless _ _
    · exact hunless _ _
    · exact hmap _
    · exact hmap _

/-- An operand of a word that is defined where it issues names as many registers as it has. -/
theorem Iss.op_length {x : Iss} {i : Instr} (h : undefHere x i = false) {u : LaneUse} (hu : u ∈ laneUses i) :
    (x.op u.count u.num).length = u.count := by
  have hok := laneUses_ok h u hu
  unfold LaneUse.ok at hok
  unfold Iss.op
  cases hs : x.g.span u.count u.count u.num with
  | none => simp [hs] at hok
  | some os => exact Group.spanAt_length _ _ _ _ _ os hs

theorem pair64_eq (lo hi : W32) : pair64 lo hi = (hi ++ lo).toNat := by
  rw [BitVec.toNat_append, pair64, ← Nat.shiftLeft_add_eq_or_of_lt lo.isLt, Nat.shiftLeft_eq, Nat.add_comm]

/-- The accesses of a lane instruction are those of its executing lanes, in order. -/
theorem Iss.asks_eq {x : Iss} {a : LaneForm} {va : BitVec 7} {os : List Loc} (hva : a.va = va.toNat)
    (hdata : match a.data with | some (n, r) => os = x.op n r ∧ os.length = n | none => os = []) (ex : W64) :
    x.asks ex va.toNat a.offset os = (bitList ex).map (a.ask x) := by
  refine List.map_congr_left fun l _ => ?_
  have haddr : x.addrOf va.toNat a.offset l = (a.ask x l).addr := by
    simp only [Iss.addrOf, LaneForm.ask, pair64_eq, hva, Iss.r, BitVec.toNat_ofNat, Nat.mod_eq_of_lt va.isLt]
  have hwords : (List.range os.length).map (fun i => x.v os i l) = (a.ask x l).data := by
    unfold LaneForm.ask
    cases hd : a.data with
    | none =>
      rw [hd] at hdata
      obtain rfl : os = [] := hdata
      rfl
    | some e =>
      rw [hd] at hdata
      obtain ⟨hos, hlen⟩ : os = x.op e.1 e.2 ∧ os.length = e.1 := hdata
      rw [hlen, hos]
  rw [haddr, hwords]
  rfl

/-- The feature groups that an address brings in are BTE and SYSATOM (R37). -/
theorem featOn_of_mem_segFeats {x : Iss} (h : SegFeatsOn x) {c : Ctx} {u : AccUse} {addrs : List Nat} {f : Nat} (hf : f ∈ segFeats c u addrs) :
    featOn x.l.feat f = true := by
  obtain ⟨hbte, hsysatom⟩ := h
  unfold segFeats at hf
  rcases List.mem_append.1 hf with hf | hf
  · split at hf
    · rw [List.mem_singleton.1 hf]; exact hbte
    · cases hf
  · split at hf
    · rw [List.mem_singleton.1 hf]; exact hsysatom
    · cases hf

theorem featOn_of_mem_laneFeats {x : Iss} (h : SegFeatsOn x) {s : State} {u : AccUse} {ex : W64} {va : Nat} {offset : Bool} {f : Nat}
    (hf : f ∈ laneFeats x s u ex va offset) : featOn x.l.feat f = true := by
  unfold laneFeats at hf
  split at hf
  · cases hf
  · exact featOn_of_mem_segFeats h hf

theorem storeUse_szBytes (sz : BitVec 3) : storeUse (szBytes sz.toNat) = if sz = 5 then .store8 else .store := by
  revert sz; decide

/-- The registers of a lane instruction's destination. -/
def LaneForm.dstLocs (a : LaneForm) (x : Iss) : List Loc := match a.dst with | some (n, r) => x.op n r | none => []

/-- What a lane memory instruction does as it issues: its accesses are checked, and then it is in flight. -/
def LaneForm.access (a : LaneForm) (x : Iss) (i : Instr) (s : State) : State :=
  laneAccess x i a.use a.look a.slot a.size (x.exec a.m) ((bitList (x.exec a.m)).map (a.ask x)) (a.dstLocs x) s

/-- The body of a lane instruction makes that access of its executing lanes. -/
theorem LaneForm.runs {s t : State} {x : Iss} {i : Instr} {a : LaneForm} (va : BitVec 7) (os : List Loc) (hrun : exec i s = .next t)
    (hva : a.va = va.toNat) (hdata : match a.data with | some (n, r) => os = x.op n r ∧ os.length = n | none => os = [])
    (hbody : t = laneAccess x i a.use a.look a.slot a.size (x.exec a.m) (x.asks (x.exec a.m) va.toNat a.offset os) (a.dstLocs x) (s.prep x)) :
    exec i s = .next (a.access x i (s.prep x)) := by
  rw [hrun, hbody, Iss.asks_eq hva hdata]
  rfl

/-- An atomic's access has one operand, of two values for compare-and-swap (R188). -/
theorem bodyVatom_eq (x : Iss) (i : Instr) (vd va vb : BitVec 7) (op size : Nat) (s : State) :
    bodyVatom x i vd.toNat va.toNat vb.toNat op size s
      = laneAccess x i .atomic (if vd = 127 then 15 else 0) 3 size (x.exec 0) (x.asks (x.exec 0) va.toNat false (x.op (atomicRegs size op) vb.toNat))
        (match if vd = 127 then none else some (size / 4, vd.toNat) with | some (n, r) => x.op n r | none => []) s := by
  have hvd : vd.toNat = 127 ↔ vd = 127 := BitVec.toNat_inj (y := 127)
  unfold bodyVatom
  simp only [hvd]
  split <;> rfl

theorem atomicRegs_eq (size : Nat) (op : BitVec 4) : atomicRegs size op.toNat = if op = 10 then size / 4 * 2 else size / 4 := by
  have hop : op.toNat = 10 ↔ op = 10 := BitVec.toNat_inj (y := 10)
  simp only [atomicRegs, hop]
  split
  · rfl
  · exact Nat.mul_one _

/-- The access of an atomic of the lanes of `size` bytes (R188, R189). -/
def LaneForm.atomic (vd va vb : BitVec 7) (op : BitVec 4) (size : Nat) : LaneForm where
  m := 0
  use := .atomic
  look := if vd = 127 then 15 else 0
  slot := 3
  size := size
  va := va.toNat
  data := some (if op = 10 then size / 4 * 2 else size / 4, vb.toNat)
  dst := if vd = 127 then none else some (size / 4, vd.toNat)

theorem LaneForm.runs_atomic {s : State} {x : Iss} {i : Instr} {vd va vb : BitVec 7} {op : BitVec 4} {size : Nat} (h : Issues s x i)
    (hfeats : SegFeatsOn x) (hx : exec i s = issueIf i never (atomFeats va.toNat)
      (fun x => bodyVatom x i vd.toNat va.toNat vb.toNat op.toNat size) s)
    (hu : ⟨vb.toNat, atomicRegs size op.toNat, false⟩ ∈ laneUses i) :
    exec i s = .next ((LaneForm.atomic vd va vb op size).access x i (s.prep x)) := by
  refine LaneForm.runs va _ (hx.trans (issueIf_runs h rfl fun _ => featOn_of_mem_laneFeats hfeats)) rfl ?_ (bodyVatom_eq ..)
  rw [LaneForm.atomic, ← atomicRegs_eq]
  exact ⟨rfl, Iss.op_length h.2.2.1 hu⟩

/-- A lane instruction that may execute makes its access. -/
theorem laneForm_runs {s : State} {x : Iss} {i : Instr} {a : LaneForm} (ha : laneForm i = some a) (h : Issues s x i) (hfeats : SegFeatsOn x) :
    exec i s = .next (a.access x i (s.prep x)) := by
  have hundef : undefHere x i = false := h.2.2.1
  unfold laneForm at ha
  split at ha <;> simp only [Option.some.injEq, reduceCtorEq] at ha <;> subst ha
  case h_1 vd va sz sp la m =>
    have hx : exec (.vld vd va sz sp la m) s = execVld vd va sz sp la m s := rfl
    exact LaneForm.runs va [] (hx.trans (issue_runs h)) rfl rfl rfl
  case h_2 vd va sz la m =>
    have hx : exec (.vldPr vd va sz la m) s = execVldPr vd va sz la m s := rfl
    exact LaneForm.runs va [] (hx.trans (issue_runs h)) rfl rfl rfl
  case h_3 vd va sz scope la m =>
    have hx : exec (.vlda vd va sz scope la m) s = execVlda vd va sz scope la m s := rfl
    exact LaneForm.runs va [] (hx.trans (issueIf_runs h rfl fun _ => featOn_of_mem_laneFeats hfeats)) rfl rfl rfl
  case h_4 vs va sz sp la m =>
    have hx : exec (.vst vs va sz sp la m) s = execVst vs va sz sp la m s := rfl
    have hlen := Iss.op_length hundef (u := ⟨vs.toNat, szRegs sz.toNat, false⟩) (by simp [laneUses])
    rw [← storeUse_szBytes]
    exact LaneForm.runs va _ (hx.trans (issueIf_runs h rfl fun _ => featOn_of_mem_laneFeats hfeats)) rfl ⟨rfl, hlen⟩ rfl
  case h_5 vs va sz scope la m =>
    have hx : exec (.vstl vs va sz scope la m) s = execVstl vs va sz scope la m s := rfl
    have hlen := Iss.op_length hundef (u := ⟨vs.toNat, szRegs sz.toNat, false⟩) (by simp [laneUses])
    exact LaneForm.runs va _ (hx.trans (issueIf_runs h rfl fun _ => featOn_of_mem_laneFeats hfeats)) rfl ⟨rfl, hlen⟩ rfl
  case h_6 vd va vb op =>
    have hx : exec (.vatom vd va vb op) s = execVatom vd va vb op s := rfl
    exact LaneForm.runs_atomic (size := 4) h hfeats hx (by simp [laneUses, atomicRegs])
  case h_7 vd va vb op =>
    have hx : exec (.vatomAr vd va vb op) s = execVatomAr vd va vb op s := rfl
    exact LaneForm.runs_atomic (size := 4) h hfeats hx (by simp [laneUses, atomicRegs])
  case h_8 vd va vb op =>
    have hx : exec (.vatomW vd va vb op) s = execVatomW vd va vb op s := rfl
    exact LaneForm.runs_atomic (size := 8) h hfeats hx (by simp [laneUses, atomicRegs])

theorem storeUse_dwBytes (dw : BitVec 1) : storeUse (dwBytes dw) = if dw = 1 then .store8 else .store := by
  revert dw; decide

theorem words64_dwBytes (dw : BitVec 1) (v : W64) : words64 (dwBytes dw) v = scalarWords dw v := by
  have hlo : v.setWidth 32 = v.extractLsb' 0 32 := by ext; simp
  have hhi : (v >>> 32).setWidth 32 = v.extractLsb' 32 32 := by ext; simp
  unfold dwBytes scalarWords
  split
  · rw [words64, if_neg (by decide), hlo, hhi]
  · rw [words64, if_pos rfl, hlo]

/-- The access that a scalar instruction makes. -/
def ScalarForm.ask (a : ScalarForm) : Ask := ⟨0, a.addr.toNat, false, a.data⟩

/-- What a scalar memory instruction does as it issues. -/
def ScalarForm.access (a : ScalarForm) (x : Iss) (i : Instr) (s : State) : State :=
  scalarAccess x i a.use 0 a.slot a.size a.addr.toNat a.data [] (a.dst.map BitVec.toNat) s

/-- A scalar memory instruction that may execute makes its access. -/
theorem scalarForm_runs {s : State} {x : Iss} {i : Instr} {a : ScalarForm} (ha : scalarForm x i = some a) (h : Issues s x i)
    (hfeats : SegFeatsOn x) : exec i s = .next (a.access x i (s.prep x)) := by
  unfold scalarForm at ha
  split at ha <;> simp only [Option.some.injEq, reduceCtorEq] at ha <;> subst ha
  case h_1 sd sa off dw =>
    have hx : exec (.sld sd sa off dw) s = execSld sd sa off dw s := rfl
    exact hx.trans (issue_runs h)
  case h_2 sd sa off dw =>
    have hx : exec (.sst sd sa off dw) s = execSst sd sa off dw s := rfl
    refine (hx.trans (issueIf_runs h rfl fun _ => featOn_of_mem_segFeats hfeats)).trans (congrArg _ ?_)
    rw [storeUse_dwBytes, words64_dwBytes]
    rfl
  case h_3 sd sa sb op ord dw =>
    have hx : exec (.satom sd sa sb op ord dw) s = execSatom sd sa sb op ord dw s := rfl
    have hop : op.toNat = 10 ↔ op = 10 := BitVec.toNat_inj (y := 10)
    refine (hx.trans (issueIf_runs h rfl fun _ => featOn_of_mem_segFeats hfeats)).trans (congrArg _ ?_)
    simp only [satomWords, words64_dwBytes, hop]
    rfl
  case h_4 sd sa =>
    have hx : exec (.clock sd sa) s = execClock sd sa s := rfl
    exact hx.trans (issue_runs h)
  case h_5 sa =>
    have hx : exec (.cunlk sa) s = execCunlk sa s := rfl
    exact hx.trans (issue_runs h)
  case h_6 sa =>
    have hx : exec (.cinv sa) s = execCinv sa s := rfl
    exact hx.trans (issue_runs h)
  case h_7 sa =>
    have hx : exec (.cwb sa) s = execCwb sa s := rfl
    exact hx.trans (issue_runs h)

/-! ## The lanes of an access, lowest first -/

/-- The lanes of a mask before one of its own are those below it. -/
theorem bitList_split {m : W64} {l : Nat} (h : bit m l = true) :
    ∃ before after, bitList m = before ++ l :: after ∧ ∀ j ∈ before, bit m j = true ∧ j < l := by
  refine ⟨(List.range l).filter fun j => bit m j, (List.range' (l + 1) (64 - l - 1)).filter fun j => bit m j, ?_, fun j hj => ?_⟩
  · rw [bitList, range_eq_append_cons (lt_of_bit h), List.filter_append, List.filter_cons_of_pos h]
  · obtain ⟨hlt, hbit⟩ := List.mem_filter.1 hj
    exact ⟨hbit, List.mem_range.1 hlt⟩

section
variable {s : State} {x : Iss} {i : Instr} {a : LaneForm} {l : Nat}

/-- The accesses of a mask's lanes are checked, and the first check that fails decides. -/
theorem LaneForm.checkAll_of_fails {m : W64} {n : Nat} (hn : n < 7) (hl : bit m l = true) (hfails : (a.ask x l).Fails s x a.use a.size n)
    (hlowest : ∀ j, bit m j = true → j < l → ¬(a.ask x j).Fails s x a.use a.size n)
    (hfirst : ∀ j c, bit m j = true → c < n → ¬(a.ask x j).Fails s x a.use a.size c) :
    checkAll x (s.ctx x.l.cid) (s.tenant x.l.tid).channels a.use a.size ((bitList m).map (a.ask x)) = some ((a.ask x l).denied s x n) := by
  obtain ⟨before, after, hsplit, hbefore⟩ := bitList_split hl
  refine Machine.checkAll_of_fails (before := before.map (a.ask x)) (after := after.map (a.ask x)) (by rw [hsplit, List.map_append, List.map_cons])
    hn hfails (fun k hk => ?_) fun k hk c hc => ?_
  · obtain ⟨j, hj, rfl⟩ := List.mem_map.1 hk
    exact hlowest j (hbefore j hj).1 (hbefore j hj).2
  · obtain ⟨j, hj, rfl⟩ := List.mem_map.1 hk
    exact hfirst j c (mem_bitList.1 hj).2 hc

/-- Where a check answers, the access is refused, and nothing of it is made. -/
theorem LaneForm.access_of_denied {d : Denied} (hl : bit (x.exec a.m) l = true)
    (hd : checkAll x (s.ctx x.l.cid) (s.tenant x.l.tid).channels a.use a.size ((bitList (x.exec a.m)).map (a.ask x)) = some d) :
    a.access x i (s.prep x) = (s.prep x).deny x d := by
  have hne : (bitList (x.exec a.m)).map (a.ask x) ≠ [] :=
    List.ne_nil_of_mem (List.mem_map_of_mem (mem_bitList.2 ⟨lt_of_bit hl, hl⟩))
  have hprep : checkAll x ((s.prep x).ctx x.l.cid) ((s.prep x).tenant x.l.tid).channels a.use a.size ((bitList (x.exec a.m)).map (a.ask x))
      = some d := hd
  unfold LaneForm.access laneAccess
  simp only [hne, if_false, hprep]

theorem ScalarForm.access_of_denied {b : ScalarForm} {d : Denied}
    (hd : checkAll x (s.ctx x.l.cid) (s.tenant x.l.tid).channels b.use b.size [b.ask] = some d) :
    b.access x i (s.prep x) = (s.prep x).deny x d := by
  have hprep : checkAll x ((s.prep x).ctx x.l.cid) ((s.prep x).tenant x.l.tid).channels b.use b.size [⟨0, b.addr.toNat, false, b.data⟩]
      = some d := hd
  unfold ScalarForm.access scalarAccess
  simp only [hprep]

end

/-! ## Stores to an aperture (R112) -/

section
variable {x : Iss} {c : Ctx} {u : AccUse} {r k : Ask} {before after : List Ask}

/-- Whether an access lies in an aperture. -/
def Ask.inAperture (x : Iss) (c : Ctx) (k : Ask) : Bool := match k.target x c with | some (.aperture _ _) => true | _ => false

theorem Ask.inAperture_iff : k.inAperture x c = true ↔ ∃ va o, k.target x c = some (.aperture va o) := by
  unfold Ask.inAperture
  cases k.target x c with
  | none => simp
  | some t => cases t <;> simp

/-- Stores with an access in an aperture: the first that differs from the first access of all is reported. -/
theorem uniformFail_of_differs (hw : u.writes = true) (hap : ∃ b ∈ r :: (before ++ k :: after), b.inAperture x c = true)
    (hk : ¬(k.addr = r.addr ∧ k.data = r.data)) (hbefore : ∀ b ∈ before, b.addr = r.addr ∧ b.data = r.data) :
    uniformFail x c u (r :: (before ++ k :: after))
      = some (k.lane, if k.addr ≠ r.addr ∨ (r :: (before ++ k :: after)).any (fun b => !b.inAperture x c) then 1 else 2) := by
  have hany : (r :: (before ++ k :: after)).any (Ask.inAperture x c) = true := List.any_eq_true.2 hap
  have hfind : (before ++ k :: after).find? (fun b => decide (b.addr ≠ r.addr) || decide (b.data ≠ r.data)) = some k := by
    refine List.find?_eq_some_iff_append.2 ⟨?_, before, after, rfl, fun b hb => ?_⟩
    · rw [Bool.or_eq_true, decide_eq_true_eq, decide_eq_true_eq, ← not_and_or]
      exact hk
    · obtain ⟨haddr, hdata⟩ := hbefore b hb
      simp [haddr, hdata]
  show (if (!u.writes || !(r :: (before ++ k :: after)).any (Ask.inAperture x c)) = true then none else
    ((before ++ k :: after).find? fun b => decide (b.addr ≠ r.addr) || decide (b.data ≠ r.data)).map fun b =>
      (b.lane, if b.addr ≠ r.addr ∨ (r :: (before ++ k :: after)).any (fun b => !b.inAperture x c) then 1 else 2)) = _
  rw [hw, hany, hfind]
  rfl

end

section
variable {s : State} {x : Iss} {a : LaneForm} {m : W64} {l0 l : Nat}

/-- Where every check holds and a lane differs from the first of all, the first lane that does is the one of UNIFORM. -/
theorem LaneForm.checkAll_of_differs (hw : a.use.writes = true)
    (hpass : ∀ j n, bit m j = true → n < 7 → ¬(a.ask x j).Fails s x a.use a.size n)
    (hap : ∃ j, bit m j = true ∧ (a.ask x j).inAperture x (s.ctx x.l.cid) = true)
    (hl0 : bit m l0 = true) (hlow : ∀ j, bit m j = true → l0 ≤ j) (hl : bit m l = true)
    (hdiff : ¬((a.ask x l).addr = (a.ask x l0).addr ∧ (a.ask x l).data = (a.ask x l0).data))
    (hsame : ∀ j, bit m j = true → j < l → (a.ask x j).addr = (a.ask x l0).addr ∧ (a.ask x j).data = (a.ask x l0).data) :
    checkAll x (s.ctx x.l.cid) (s.tenant x.l.tid).channels a.use a.size ((bitList m).map (a.ask x))
      = some (.trap tcUniform (BitVec.ofNat 64 l) (BitVec.ofNat 64 (if (a.ask x l).addr ≠ (a.ask x l0).addr
          ∨ ((bitList m).map (a.ask x)).any (fun k => !k.inAperture x (s.ctx x.l.cid)) then 1 else 2))) := by
  obtain ⟨below, rest, hfirst, hbelow⟩ := bitList_split hl0
  obtain ⟨before, after, hsplit, hbefore⟩ := bitList_split hl
  obtain rfl : below = [] := List.eq_nil_iff_forall_not_mem.2 fun j hj => Nat.not_le_of_lt (hbelow j hj).2 (hlow j (hbelow j hj).1)
  cases before with
  | nil =>
    have he : l0 = l := (List.cons_eq_cons.1 (hfirst.symm.trans hsplit)).1
    exact absurd ⟨by rw [he], by rw [he]⟩ hdiff
  | cons b before =>
    obtain ⟨rfl, -⟩ : l0 = b ∧ _ := List.cons_eq_cons.1 (hfirst.symm.trans hsplit)
    have hasks : (bitList m).map (a.ask x) = a.ask x l0 :: (before.map (a.ask x) ++ a.ask x l :: after.map (a.ask x)) := by
      rw [hsplit, List.cons_append, List.map_cons, List.map_append, List.map_cons]
    rw [checkAll_of_passes fun k hk n hn => ?_]
    · rw [hasks, uniformFail_of_differs hw ?_ hdiff fun k hk => ?_, ← hasks]
      · rfl
      · obtain ⟨j, hj, hin⟩ := hap
        rw [← hasks]
        exact ⟨_, List.mem_map_of_mem (mem_bitList.2 ⟨lt_of_bit hj, hj⟩), hin⟩
      · obtain ⟨j, hj, rfl⟩ := List.mem_map.1 hk
        obtain ⟨hbit, hlt⟩ := hbefore j (List.mem_cons_of_mem _ hj)
        exact hsame j hbit hlt
    · obtain ⟨j, hj, rfl⟩ := List.mem_map.1 hk
      exact hpass j n (mem_bitList.1 hj).2 hn

theorem LaneForm.any_elsewhere_iff : ((bitList m).map (a.ask x)).any (fun k => !k.inAperture x (s.ctx x.l.cid)) = true
    ↔ ∃ j, bit m j = true ∧ ∀ va o, (a.ask x j).target x (s.ctx x.l.cid) ≠ some (.aperture va o) := by
  simp only [List.any_map, List.any_eq_true, Function.comp_apply, Bool.not_eq_true', ← Bool.not_eq_true, Ask.inAperture_iff, not_exists]
  exact exists_congr fun j => and_congr_left fun _ => mem_bitList.trans (and_iff_right_of_imp lt_of_bit)

end

/-! ## AccessRefused -/

section
variable {s : State} {x : Iss} {i : Instr} (h : Issues s x i) (hfeats : SegFeatsOn x)
include h hfeats

/-- The first check that fails at an executing lane refuses a lane instruction's access (R178). -/
theorem laneForm_refused {a : LaneForm} {l n : Nat} (ha : laneForm i = some a) (hn : n < 7) (hl : bit (x.exec a.m) l = true)
    (hfails : (a.ask x l).Fails s x a.use a.size n)
    (hlowest : ∀ j, bit (x.exec a.m) j = true → j < l → ¬(a.ask x j).Fails s x a.use a.size n)
    (hfirst : ∀ j c, bit (x.exec a.m) j = true → c < n → ¬(a.ask x j).Fails s x a.use a.size c) : Refused i s x (a.ask x l) n :=
  refused_of_deny h.1 hn ((laneForm_runs ha h hfeats).trans
    (congrArg _ (LaneForm.access_of_denied hl (LaneForm.checkAll_of_fails hn hl hfails hlowest hfirst))))

/-- The first check that fails refuses a scalar access. -/
theorem scalarForm_refused {a : ScalarForm} {n : Nat} (ha : scalarForm x i = some a) (hn : n < 7) (hfails : a.ask.Fails s x a.use a.size n)
    (hfirst : ∀ c, c < n → ¬a.ask.Fails s x a.use a.size c) : Refused i s x a.ask n := by
  have hd := checkAll_of_fails (as := [a.ask]) (before := []) (after := []) rfl hn hfails nofun fun k hk c hc =>
    List.mem_singleton.1 hk ▸ hfirst c hc
  exact refused_of_deny h.1 hn ((scalarForm_runs ha h hfeats).trans (congrArg _ (ScalarForm.access_of_denied hd)))

/-- The first lane that differs from the lowest one raises UNIFORM, where some lane of a store lies in an aperture (R112). -/
theorem laneForm_not_uniform {a : LaneForm} {l0 l : Nat} (ha : laneForm i = some a) (hw : a.use.writes = true)
    (hpass : ∀ j n, bit (x.exec a.m) j = true → n < 7 → ¬(a.ask x j).Fails s x a.use a.size n)
    (hap : ∃ j va o, bit (x.exec a.m) j = true ∧ (a.ask x j).target x (s.ctx x.l.cid) = some (.aperture va o))
    (hl0 : bit (x.exec a.m) l0 = true) (hlow : ∀ j, bit (x.exec a.m) j = true → l0 ≤ j) (hl : bit (x.exec a.m) l = true)
    (hdiff : ¬((a.ask x l).addr = (a.ask x l0).addr ∧ (a.ask x l).data = (a.ask x l0).data))
    (hsame : ∀ j, bit (x.exec a.m) j = true → j < l → (a.ask x j).addr = (a.ask x l0).addr ∧ (a.ask x j).data = (a.ask x l0).data) :
    let elsewhere := ∃ j, bit (x.exec a.m) j = true ∧ ∀ va o, (a.ask x j).target x (s.ctx x.l.cid) ≠ some (.aperture va o)
    ((a.ask x l).addr ≠ (a.ask x l0).addr ∨ elsewhere → Traps i s x 3 (BitVec.ofNat 64 l) 1)
      ∧ ((a.ask x l).addr = (a.ask x l0).addr → ¬elsewhere → Traps i s x 3 (BitVec.ofNat 64 l) 2) := by
  obtain ⟨j, va, o, hj, hin⟩ := hap
  have hd := LaneForm.checkAll_of_differs hw hpass ⟨j, hj, Ask.inAperture_iff.2 ⟨va, o, hin⟩⟩ hl0 hlow hl hdiff hsame
  have hx := (laneForm_runs ha h hfeats).trans (congrArg _ (LaneForm.access_of_denied hl hd))
  have hone := or_congr_right (a := (a.ask x l).addr ≠ (a.ask x l0).addr) (LaneForm.any_elsewhere_iff (s := s) (x := x) (a := a) (m := x.exec a.m))
  constructor
  · intro hdet
    rwa [if_pos (hone.2 hdet)] at hx
  · intro haddr helse
    rwa [if_neg fun hdet => (hone.1 hdet).elim (fun hne => hne haddr) helse] at hx

end

/-- Settles O27: by the first check that fails, for the lanes of an instruction and for a scalar access, and by the first lane that differs
where every check holds. -/
theorem accessRefused : Obligations.AccessRefused :=
  ⟨fun _ _ _ h hfeats =>
    ⟨fun _ _ _ ha hn hl hfails hlowest hfirst => laneForm_refused h hfeats ha hn hl hfails hlowest hfirst,
      fun _ _ ha hn hfails hfirst => scalarForm_refused h hfeats ha hn hfails hfirst⟩,
    fun _ _ _ _ _ _ ha h hfeats hw hpass hap hl0 hlow hl hdiff hsame => laneForm_not_uniform h hfeats ha hw hpass hap hl0 hlow hl hdiff hsame⟩

end Sys2Proof.Machine
end
